-- ==== Sys2Proof/Word.lean ====
section
/-! DEFINITION. The byte type of every memory cell and of every message, the byte lists that cross the
boundary, and the sparse map that holds whatever exists in large numbers and is mostly at its default. -/

namespace Sys2Proof

/-- One byte (R30, R256). -/
abbrev Byte := BitVec 8

/-- Bytes in ascending address order. -/
abbrev Bytes := List Byte

/-- A sparse map from a number to a value: keys strictly rising. What a missing key stands for is said
where the map is used. -/
abbrev SMap (α : Type) := List (Nat × α)

/-- A set of numbers, strictly rising. -/
abbrev NSet := List Nat

end Sys2Proof
end

