-- ==== Sys2Proof/Syntax.lean ====
section
/-! DEFINITION. The commands the module takes from outside and the events of its own engines, one
constructor for each row of spec/opcode_table.json, with the operands each carries. What the environment
decides (the bytes host memory returns, what a sensor reads, which engine moves next, whether a read met
a physical error) is an operand; everything else is state. -/

namespace Sys2Proof

/-- The path a dictionary request takes (R318): the PF0 mailbox, the mailbox of a VF, or Umpor, with the
requester's address and port and its TOKEN (R330, R331). -/
inductive Path where
  | pf0
  | vf (n : Nat)
  | umpor (src port token : Nat)
  deriving DecidableEq, Repr

/-- What a READ or WRITE names: an object of the dictionary (R311), or 4 or 8 bytes of registers at an offset of one of
the function's windows, BAR0, BAR2 or BAR4 (R323, R340). -/
inductive Target where
  | obj (index sub : Nat)
  | reg (bar offset len : Nat)
  deriving DecidableEq, Repr

/-- A command of a journal by its journal and sequence number (R221, R248). `sub` is 0 for the command
itself and k for the k-th command of its recompute list (R131). -/
structure CmdId where
  journal : Nat
  seq : Nat
  sub : Nat
  deriving DecidableEq, Repr

/-- What the host link returns for a line read by the module: data, poisoned or not, or no completion
(R345, R346). -/
inductive HostRead where
  | ok (data : Bytes) (poison : Bool)
  | fail
  deriving DecidableEq, Repr

/-- What a memory controller meets at one line read (R299): the columns whose CRC fails on the first
read and on the retry, whether the tag test of each read succeeds, and the bits of the STATE byte that
each read shows other than they were written (R293). -/
structure LineObs where
  addr : Nat
  fail1 : Nat
  tag1 : Bool
  state1 : Nat
  fail2 : Nat
  tag2 : Bool
  state2 : Nat
  deriving DecidableEq, Repr

/-- What the read of one SRAM word meets (R286): the bits in error of the 64 data and, from bit 64, the 8 check bits,
and in which bits the hash of the word reached differs from that of the word wanted. -/
structure WordObs where
  flips : Nat
  hash : Nat
  deriving DecidableEq, Repr

/-- A word of an SRAM store (R285): of a tile or cluster store by its device address, or of the instruction and data
stores of a bay or tile sequencer, which have none. -/
inductive SramWord where
  | store (addr : Nat)
  | baySequencer (bay : Nat)
  | tileSequencer (tile : Nat)
  deriving DecidableEq, Repr

/-- A physical error met by a read: of a module-memory line, of a line that a write of less than all of it is
merged with, or of the SRAM word at an address. -/
inductive ReadErr where
  | line (o : LineObs)
  | merge (o : LineObs)
  | word (addr : Nat) (o : WordObs)
  deriving DecidableEq, Repr

/-- A bit of a mantissa that changes on its way to a checked adder, its nibble unchanged (R171): in the block that
arrives at a bay, or in the leaf of a local contribution. -/
structure BitHit where
  leaf : Option Nat
  elem : Nat
  bit : Nat
  deriving DecidableEq, Repr

/-- A frame from the field network (R330): source address and port, destination port, hop limit, whether
its checksums hold, and the UDP payload. -/
structure Frame where
  src : Nat
  srcPort : Nat
  dstPort : Nat
  hop : Nat
  sumOk : Bool
  payload : Bytes
  deriving DecidableEq, Repr

/-- A command of a journal, with what its reads meet in this step (R286, R299). -/
structure Reading where
  id : CmdId
  errs : List ReadErr
  deriving DecidableEq, Repr

/-- The bay that sends a line of the pointing stream, with what its read meets (R357). -/
structure LineSend where
  bay : Nat
  errs : List ReadErr
  deriving DecidableEq, Repr

/-- A read of a word of the instruction and data stores of a bay's or a tile's sequencer (R285). -/
structure SequencerRead where
  unit : Nat
  obs : WordObs
  deriving DecidableEq, Repr

/-- One 100 µs sample (R396, R398): FP32 codes by input code, for the inputs that are measured; under 0x76,
which is no input code, the SLOT_ID strap as the pins show it (R478). -/
abbrev Sample := List (Nat × Nat)

/-- What one engine spent on a unit of work that is timing, not value (R445): BUSY, STALLS and GATED. -/
structure Spent where
  busy : Nat
  stalls : Nat
  gated : Nat
  deriving DecidableEq, Repr

/-- What the firmware fetch of FW_LOAD meets (R436): the image as read, or a failed link. -/
inductive FwFetch where
  | image (data : Bytes) (badTiles badBays : List Nat)
  | linkFail
  deriving DecidableEq, Repr

/-- How a stage of start-up ended (R426): whether its work succeeded, how long it took, and the figures
it measured for its DETAIL (R428) in the order that table lists them. -/
structure StageEnd where
  ok : Bool
  ns : Nat
  figures : List Nat
  deriving DecidableEq, Repr

/-- The parts a start-up test found bad (R426, R429): physical slots as cluster × 68 + slot, clusters,
bays, and bay hubs. -/
structure BadParts where
  slots : List Nat
  clusters : List Nat
  bays : List Nat
  hubs : List Nat
  deriving DecidableEq, Repr

/-- The fuse array as stage S2 reads it (R426, R381). -/
structure Fuses where
  serial : Nat
  eui48 : Nat
  vendorKeyHash : Nat
  minSvn : Nat
  identitySeed : Nat
  badSlots : List Nat
  deriving DecidableEq, Repr

/-- The kinds of link whose direction the error-rate test of S5 can fail (R433), with the part each
takes out of service. -/
inductive LinkKind where
  | tilePort (tile : Nat)
  | clusterAttachment (cluster : Nat)
  | bayMesh (bay : Nat)
  | bayLink
  deriving DecidableEq, Repr

/-- A message of a neighbour-discovery exchange (R330): a solicitation or an advertisement for an
address, `dad` where its source is unspecified. -/
structure NdMessage where
  solicit : Bool
  target : Nat
  src : Nat
  dad : Bool
  deriving DecidableEq, Repr

/-- The commands, one constructor a row of the table, in the table's order. -/
inductive Instr where
  -- descriptors (R230): the executing sequencer validates and starts the command, with what its reads met
  | productF (c : Reading)
  | productDx (c : Reading)
  | productDw (c : Reading)
  | cast (c : Reading)
  | rotate (c : Reading)
  | add (c : Reading)
  | mul (c : Reading)
  | biasAct (c : Reading)
  | rmsnorm (c : Reading)
  | layernorm (c : Reading)
  | softmax (c : Reading)
  | xent (c : Reading)
  | softmaxBwd (c : Reading)
  | normBwd (c : Reading)
  | actBwd (c : Reading)
  | matmul (c : Reading)
  | reduceCols (c : Reading)
  | reduce (c : Reading)
  | onePass (c : Reading)
  | twoPass (c : Reading)
  | copy (c : Reading)
  | multicast (c : Reading)
  | allEarlier (c : CmdId)
  | command (c : CmdId)
  | seal (c : CmdId)
  | scaleSeed (c : Reading)
  | scaleSeedClear (c : Reading)
  | dump (c : Reading)
  | dense (c : Reading)
  | topk (c : Reading)
  | importGrad (c : Reading)
  -- the dictionary (R319)
  | read (p : Path) (t : Target)
  | write (p : Path) (t : Target) (value : Bytes)
  | describe (p : Path) (index sub : Nat)
  | scaleEnable (path : Path) (p v : Nat)
  | placeEnable (path : Path) (p v : Nat)
  | placeCommit (path : Path) (p v : Nat)
  | jEnable (path : Path) (j v : Nat)
  | cEnable (path : Path) (r v : Nat)
  | scrubEnable (path : Path) (v : Nat)
  | fldEnable (path : Path) (v : Nat)
  | hdmEnable (path : Path) (v : Nat)
  | psEnable (path : Path) (v : Nat)
  | bounceEnable (path : Path) (p v : Nat)
  | traceEnable (path : Path) (v : Nat)
  | pReset (path : Path) (p v : Nat)
  | updReset (path : Path) (b v : Nat)
  | traceReset (path : Path) (v : Nat)
  | psReset (path : Path) (v : Nat)
  | fldReset (path : Path) (v : Nat)
  | ptCreate (path : Path) (v : Nat)
  | ptDelete (path : Path) (v : Nat)
  | attest (path : Path) (p v : Nat)
  | fwLoad (path : Path) (v : Nat) (fetch : FwFetch)
  | fenceTile (path : Path) (v : Nat)
  | clearPrior (path : Path) (v : Nat)
  | clearCounts (path : Path) (v : Nat)
  | dieRetired (path : Path) (b v : Nat)
  | numSummary (path : Path) (v : Nat)
  | trFire (path : Path) (v : Nat)
  | trFinish (path : Path) (v : Nat)
  | trRestart (path : Path) (v : Nat)
  | standby (path : Path) (v : Nat)
  | rules (path : Path) (value : Bytes)
  | ruleFired (path : Path) (v : Nat)
  | hdmCommit (base size : Nat)
  -- the field network (R330)
  | request (f : Frame)
  | noticeAck (f : Frame)
  | noticeResend (token : Nat)
  | transmitOpportunity
  -- journals and rings (R222 to R229)
  | controlLineInvalidate (j : Nat) (rd : HostRead)
  | entryFetch (j : Nat) (rd : HostRead)
  | statusLineWrite (j : Nat)
  | fenceRelease (j : Nat)
  | waitTimeout (c : CmdId)
  | completionRecord (ring : Nat)
  | consumerLineUpdate (ring : Nat) (rd : HostRead)
  | msixModerationTimeout (ring : Nat)
  -- work items (R92)
  | counterBind (c : CmdId) (cluster : Nat)
  | workCounterRequest (engine : Nat)
  | workItemEnd (engine : Nat) (spent : Spent) (errs : List ReadErr)
  | scaleLatch (c : Reading)
  | outlierAddBack (cluster : Nat) (errs : List ReadErr)
  | fallbackItem (cluster : Nat) (errs : List ReadErr)
  | recomputeSwitch (c : CmdId)
  | recomputeNext (c : CmdId)
  -- data movement (R264 to R276)
  | transferIssue (bay : Nat)
  | transferDone (bay ticket : Nat) (errs : List ReadErr)
  | dryTimeAging (bay : Nat) (c : CmdId)
  | multicastDrop (c : CmdId) (tile : Nat)
  | lentBind (bay : Nat)
  | lentRevoke (tile : Nat) (errs : List ReadErr)
  -- stored data (R287, R300, R306, R307)
  | scrubLine (bay : Nat) (o : LineObs)
  | sramScrub (w : SramWord) (o : WordObs)
  | lineWriteBack (line : Nat)
  | sramWriteBack (addr : Nat)
  -- reduction and update
  | reduceBayBlock (c : CmdId) (bay : Nat) (hits : List BitHit) (errs : List ReadErr)
  | reduceResultBlock (c : CmdId)
  | updateAgreement (c : CmdId)
  | updatePass2 (c : CmdId) (bay : Nat) (errs : List ReadErr)
  -- the pointing stream (R353 to R363, R386); the row PS_SEND_LINE without operands is bay 0, its read clean
  | psSendLine (x : LineSend := ⟨0, []⟩)
  | psApplyRecord (bay : Nat) (record : Bytes)
  | psAckTimer (bay : Nat)
  | acked (bay v : Nat)
  | heartbeat
  | psPeerTimeout
  | hello (fragment : Bytes)
  | report (fragment : Bytes)
  | encap (fragment : Bytes)
  | confirm (fragment : Bytes)
  | sweepDone (fragment : Bytes)
  | close (fragment : Bytes)
  | ack (fragment : Bytes)
  | psHandshakeTimeout
  -- the host link (R339 to R351)
  | linkUp (mode width speed : Nat)
  | linkDown
  | perstAssert
  | perstRelease
  | vfFlr (vf : Nat)
  | pf0Flr
  | hostReadTimeout (c : CmdId)
  | hdmRead (addr len : Nat) (errs : List ReadErr)
  | hdmWrite (addr : Nat) (data : Bytes) (poison : Bool) (errs : List ReadErr)
  -- power, clocks and the plinth (R393 to R416, R472)
  | inputApplied
  | inputRemoved
  | plinthSample (smp : Sample)
  | modEnHigh
  | efuseTrip
  | droopDetect (bay : Nat)
  | droopRelease (bay : Nat)
  | governorInterval (activity : List (Nat × Nat))
  | pllUnlock (pll : Nat)
  | pllRelock (pll : Nat)
  | pllLockTimeout (pll : Nat)
  | bayWatchdogRestart (bay : Nat)
  | bayWatchdogExpiry (bay : Nat)
  | bayStoreUncorrectable (bay : SequencerRead)
  | bSleep (bay : Nat)
  | bOff (bay : Nat)
  | bayWakeStart (bay : Nat)
  | bayWakeDone (bay : Nat)
  | standbyDrainTimeout
  | standbyEntry
  | standbyWakeDone (ok : Bool)
  -- start-up and faults in service (R426 to R442)
  | s0Plinth (e : StageEnd) (slotId : Nat)
  | s1Rails (e : StageEnd)
  | s2Fuses (e : StageEnd) (f : Fuses)
  | s3Sram (e : StageEnd) (bad : BadParts)
  | s4Tiles (e : StageEnd) (bad : BadParts)
  | s5Armature (e : StageEnd) (errors : List (LinkKind × Nat))
  | s6Memory (e : StageEnd) (errors : List (Nat × Nat))
  | s7Host (e : StageEnd)
  | s9Ready (e : StageEnd)
  | tileWatchdogRestart (tile : Nat)
  | tileWatchdogExpiry (tile : Nat)
  | tileSequencerStoreFault (tile : SequencerRead)
  | trngFail
  -- trace (R448 to R462)
  | traceQueueDrain (bay : Nat)
  | traceFrameSend
  | traceAlign
  | traceCaptureEnd
  | traceTrainingEnd
  -- the arbitration slot and the rest
  | arbitrationSlotEnd
  | plcaBeacon (link : Nat)
  | icmpv6Echo (f : Frame)
  | neighbourDiscovery (msg : NdMessage)
  | peerHeartbeat (t : Nat)
  | packageBlankRewrite (bay : Nat)
  deriving DecidableEq, Repr

end Sys2Proof
end

