-- ==== Sys2Proof/Config.lean ====
section
/-! DEFINITION. What the spec leaves to one implementation or to another standard, as constants without
a body (log entries 2, 3 and 4): nothing in Lean can evaluate them, so a theorem holds for every choice. -/

namespace Sys2Proof

/-- A value for which the spec states no result, one for each count of `Mach.freeCount` (log entry 2). -/
opaque Config.freeValue : Nat → BitVec 32

/-- act′ where R149 prints no formula for it: by ACT code and the FP32 code of z (log entry 21). -/
opaque Config.actDeriv : Nat → Nat → BitVec 32

/-- The flags act′ raises there: bit 0 OVF with one saturation, bit 1 UNF, bit 2 INX (log entry 21). -/
opaque Config.actDerivFlags : Nat → Nat → BitVec 3

/-- The tensor scale a CAST uses where its entry's word is no positive finite value (R72; log entry 2). -/
opaque Config.usableScale : Nat → BitVec 32

/-- The logarithm of zero, for which R149 states no result (log entry 112). -/
opaque Config.logOfZero : BitVec 32

/-- Lane operations of a row whose operations count with the steps of a function (R140, R445; log entry 44): by OP,
ACT and what the row reads. -/
opaque Config.rowWork : Nat → Nat → List Nat → BitVec 32

/-- Which column of the SEC-DED code comes next, where R285 gives only what the columns must satisfy (log entry 123). -/
opaque Config.secdedPick : Nat → Nat

/-- The die-local word address of an SRAM word, its bank number included (R285; log entry 123). -/
opaque Config.dieWord : Nat → Nat

/-- A byte that a poisoned carrier delivers beside its mark, by its address and a count (log entry 34). -/
opaque Config.poisonByte : Nat → Nat → Byte

/-- The `n`-th draw of the true random generator, as a number of the width its user takes (R373, R375). -/
opaque Config.trng : Nat → Nat

/-- SHAKE256 of a byte string, with the given number of output bytes (R377, R381, R386). -/
opaque Config.shake256 : Bytes → Nat → Bytes

/-- AES-256-GCM sealing: key, nonce, additional data, plaintext; the ciphertext followed by the
16-byte tag (R356, R378). -/
opaque Config.gcmSeal : Nat → Nat → Bytes → Bytes → Bytes

/-- AES-256-GCM opening of a ciphertext and its tag: none where the tag fails (R356, R378). -/
opaque Config.gcmOpen : Nat → Nat → Bytes → Bytes → Option Bytes

/-- The encapsulation key that belongs to a drawn ML-KEM-768 pair (R373, R386). -/
opaque Config.kemPublic : Nat → Bytes

/-- ML-KEM-768 decapsulation: the shared secret of a ciphertext under a drawn pair (R377, R386). -/
opaque Config.kemDecap : Nat → Bytes → Bytes

/-- ML-KEM-768 encapsulation to a key with a drawn seed: the shared secret and the ciphertext (R386). -/
opaque Config.kemEncap : Bytes → Nat → Bytes × Bytes

/-- The ML-DSA-65 public key derived from a seed (R381). -/
opaque Config.dsaPublic : Bytes → Bytes

/-- An ML-DSA-65 signature: seed, context string, message (R381, R383). -/
opaque Config.dsaSign : Bytes → Bytes → Bytes → Bytes

/-- ML-DSA-65 verification: public key, context string, message, signature (R382, R384). -/
opaque Config.dsaVerify : Bytes → Bytes → Bytes → Bytes → Bool

/-- AES-256-XTS under the key of a numbered draw: tweak and data unit (R294). -/
opaque Config.xtsSeal : Nat → Nat → Bytes → Bytes

/-- KMAC256 under the key of a numbered draw: customisation string and input, 128 output bits (R294). -/
opaque Config.kmac256 : Nat → Bytes → Bytes → Bytes

/-- The boot ROMs, over which ROM_MEASUREMENT is taken (R382). -/
opaque Config.bootRoms : Bytes

/-- The boot ROM version that ROM_VERSION reads (R316). -/
opaque Config.romVersion : BitVec 32

end Sys2Proof
end

