-- ==== Sys2Proof/Machine/Flags.lean ====
section
/-! DEFINITION. The number formats down to the bit, conversion and rounding, and the sticky flags they
raise (R29 to R49, R143): every flag computation of the model stands here, once. A value is worked on as
an exact fraction and rounded once where the spec rounds. -/

namespace Sys2Proof.Machine

open Sys2Proof

/-! ### Flags of an operation -/

/-- The flags a piece of work raises and the elements it saturates (R47, R51). `cause` is the cause code
of the first INV raised (R53), 0 for none. -/
structure Flg where
  ovf : Bool
  unf : Bool
  inx : Bool
  inv : Bool
  cause : Nat
  sats : Nat
  deriving DecidableEq, Repr

/-- No flag raised. -/
def Flg.none : Flg := ⟨false, false, false, false, 0, 0⟩

/-- Both: flags are OR-ed, saturations added, the first cause kept (R52). -/
def Flg.or (a b : Flg) : Flg :=
  ⟨a.ovf || b.ovf, a.unf || b.unf, a.inx || b.inx, a.inv || b.inv,
   if a.inv then a.cause else b.cause, a.sats + b.sats⟩

/-- FLAGS bits [3:0] as NUM_SUMMARY, the numerics view and a record hold them: INV INX UNF OVF, most
significant first (R54, R248). -/
def Flg.bits (f : Flg) : Nat :=
  (if f.ovf then 1 else 0) + (if f.unf then 2 else 0) + (if f.inx then 4 else 0) +
    (if f.inv then 8 else 0)

/-- Work that raises flags as it goes. -/
abbrev NM := StateM Flg

/-- OVF with INX; every rounding that saturates counts one saturation (log entry 113). -/
def raiseOvf : NM Unit := modify fun f => { f with ovf := true, inx := true, sats := f.sats + 1 }
def raiseUnf : NM Unit := modify fun f => { f with unf := true }
def raiseInx : NM Unit := modify fun f => { f with inx := true }

/-- INV with a cause code of R53; only the first cause is kept (R52). -/
def raiseInv (c : Nat) : NM Unit :=
  modify fun f => if f.inv then f else { f with inv := true, cause := c }

/-! ### Formats -/

/-- The eleven formats of R29. -/
inductive Fmt where
  | f4 | i4 | u4 | g4 | f8 | h8 | s8 | bf16 | fp16 | fp32 | bx32
  deriving DecidableEq, Repr

/-- The 4-bit format code (R29); none for a reserved code. -/
def Fmt.ofCode : Nat → Option Fmt
  | 0 => some .f4 | 1 => some .i4 | 2 => some .u4 | 3 => some .g4 | 4 => some .f8 | 5 => some .h8
  | 6 => some .s8 | 7 => some .bf16 | 8 => some .fp16 | 9 => some .fp32 | 10 => some .bx32
  | _ => none

def Fmt.code : Fmt → Nat
  | .f4 => 0 | .i4 => 1 | .u4 => 2 | .g4 => 3 | .f8 => 4 | .h8 => 5 | .s8 => 6 | .bf16 => 7
  | .fp16 => 8 | .fp32 => 9 | .bx32 => 10

/-- The four formats of the block pages (R29, R58: the code is also the page tag's FMT). -/
def Fmt.isFour : Fmt → Bool
  | .f4 | .i4 | .u4 | .g4 => true
  | _ => false

/-- Bytes of one element of a dense row-major tensor. -/
def Fmt.bytes : Fmt → Nat
  | .f8 | .h8 | .s8 => 1
  | .bf16 | .fp16 => 2
  | .fp32 => 4
  | _ => 0

/-- Fields of a floating-point format (R36): exponent bits, fraction bits, bias, and whether the top
exponent holds infinity and NaN (all but F8). -/
structure FloatFmt where
  ebits : Nat
  mbits : Nat
  bias : Nat
  hasInf : Bool
  deriving DecidableEq, Repr

def FloatFmt.f8 : FloatFmt := ⟨4, 3, 7, false⟩
def FloatFmt.h8 : FloatFmt := ⟨5, 2, 15, true⟩
def FloatFmt.bf16 : FloatFmt := ⟨8, 7, 127, true⟩
def FloatFmt.fp16 : FloatFmt := ⟨5, 10, 15, true⟩
def FloatFmt.fp32 : FloatFmt := ⟨8, 23, 127, true⟩

def Fmt.float? : Fmt → Option FloatFmt
  | .f8 => some .f8 | .h8 => some .h8 | .bf16 => some .bf16 | .fp16 => some .fp16
  | .fp32 => some .fp32 | _ => none

def FloatFmt.signBit (f : FloatFmt) : Nat := 2 ^ (f.ebits + f.mbits)
def FloatFmt.topExp (f : FloatFmt) : Nat := 2 ^ f.ebits - 1

/-- The canonical positive NaN of the format (R38). -/
def FloatFmt.nan (f : FloatFmt) : Nat :=
  if f.hasInf then f.topExp * 2 ^ f.mbits + 2 ^ (f.mbits - 1) else f.signBit - 1

/-- The code of the largest finite magnitude (R36). -/
def FloatFmt.maxCode (f : FloatFmt) : Nat :=
  if f.hasInf then f.topExp * 2 ^ f.mbits - 1 else f.signBit - 2

/-- The code of +infinity; only formats with one use it. -/
def FloatFmt.infCode (f : FloatFmt) : Nat := f.topExp * 2 ^ f.mbits

/-! ### Exact values -/

/-- An exact value: a NaN, an infinity, or a signed magnitude `num / den` with `den > 0`. The sign of a
zero is kept (R39). -/
inductive Ext where
  | nan
  | inf (neg : Bool)
  | fin (neg : Bool) (num den : Nat)
  deriving DecidableEq, Repr

/-- `2 ^ e` as a fraction. -/
def pow2Num (e : Int) : Nat := if e ≥ 0 then 2 ^ e.toNat else 1
def pow2Den (e : Int) : Nat := if e ≥ 0 then 1 else 2 ^ (-e).toNat

/-- The magnitude `m * 2 ^ e`. -/
def Ext.dyadic (neg : Bool) (m : Nat) (e : Int) : Ext := .fin neg (m * pow2Num e) (pow2Den e)

def Ext.zero : Ext := .fin false 0 1
def Ext.ofNat (n : Nat) : Ext := .fin false n 1
def Ext.ofInt (i : Int) : Ext := .fin (decide (i < 0)) i.natAbs 1

def Ext.isNan : Ext → Bool | .nan => true | _ => false
def Ext.isInf : Ext → Bool | .inf _ => true | _ => false
def Ext.isFinite : Ext → Bool | .fin _ _ _ => true | _ => false
def Ext.isZero : Ext → Bool | .fin _ n _ => n == 0 | _ => false
def Ext.sign : Ext → Bool | .nan => false | .inf s => s | .fin s _ _ => s

def Ext.neg : Ext → Ext
  | .nan => .nan
  | .inf s => .inf (!s)
  | .fin s n d => .fin (!s) n d

def Ext.abs : Ext → Ext
  | .nan => .nan
  | .inf _ => .inf false
  | .fin _ n d => .fin false n d

/-- `a < b` of two finite or infinite values; false where either is NaN. -/
def Ext.lt : Ext → Ext → Bool
  | .nan, _ => false
  | _, .nan => false
  | .inf s, .inf t => s && !t
  | .inf s, .fin _ _ _ => s
  | .fin _ _ _, .inf t => !t
  | .fin s n d, .fin t m e =>
    let x : Int := if s then -(n * e : Nat) else (n * e : Nat)
    let y : Int := if t then -(m * d : Nat) else (m * d : Nat)
    decide (x < y)

def Ext.le (a b : Ext) : Bool := !a.isNan && !b.isNan && !(Ext.lt b a)

/-- The exact product. A NaN operand gives NaN with cause 0x03; zero times infinity NaN with cause
0x01 (R47). -/
def extMul (a b : Ext) : NM Ext :=
  match a, b with
  | .nan, _ => do raiseInv 3; pure .nan
  | _, .nan => do raiseInv 3; pure .nan
  | .inf s, .inf t => pure (.inf (s != t))
  | .inf s, .fin t m _ => if m = 0 then do raiseInv 1; pure .nan else pure (.inf (s != t))
  | .fin s n _, .inf t => if n = 0 then do raiseInv 1; pure .nan else pure (.inf (s != t))
  | .fin s n d, .fin t m e => pure (.fin (s != t) (n * m) (d * e))

/-- The exact sum. Opposite infinities give NaN with cause 0x02; an exact zero sum of opposite signs is
+0 (R39, R47). -/
def extAdd (a b : Ext) : NM Ext :=
  match a, b with
  | .nan, _ => do raiseInv 3; pure .nan
  | _, .nan => do raiseInv 3; pure .nan
  | .inf s, .inf t => if s = t then pure (.inf s) else do raiseInv 2; pure .nan
  | .inf s, .fin _ _ _ => pure (.inf s)
  | .fin _ _ _, .inf t => pure (.inf t)
  | .fin s n d, .fin t m e =>
    if s = t then
      if d = e then pure (.fin s (n + m) d) else pure (.fin s (n * e + m * d) (d * e))
    else
      let x := if d = e then n else n * e
      let y := if d = e then m else m * d
      let den := if d = e then d else d * e
      if x = y then pure (.fin false 0 1)
      else if x > y then pure (.fin s (x - y) den) else pure (.fin t (y - x) den)

/-! ### Rounding onto a grid -/

/-- `floor (log2 (n / d))` for `n, d > 0`. -/
def floorLog2 (n d : Nat) : Int :=
  let k : Int := (Nat.log2 n : Int) - (Nat.log2 d : Int)
  if n * pow2Den k < d * pow2Num k then k - 1 else k

/-- Where a magnitude lies between its two grid neighbours: the code of the neighbour nearer zero, the
code of the other one, whether the nearer one's last significand bit is zero, and the distance from the
nearer one as the fraction `pos / span` of the gap. `pos = 0` where the magnitude is on the grid. -/
structure Nbr where
  inner : Nat
  outer : Nat
  innerEven : Bool
  pos : Nat
  span : Nat
  deriving DecidableEq, Repr

/-- Neighbours of `n / d` among zero and the normal magnitudes of a floating-point format (R44). Codes
are of the magnitude, without a sign. -/
def floatNbr (f : FloatFmt) (n d : Nat) : Nbr :=
  let emin : Int := 1 - (f.bias : Int)
  let minCode := 2 ^ f.mbits
  if n = 0 then ⟨0, minCode, true, 0, 1⟩
  else
    let e := floorLog2 n d
    if e < emin then
      -- between zero and the smallest normal
      ⟨0, minCode, true, n * pow2Den emin, d * pow2Num emin⟩
    else
      let u : Int := e - f.mbits
      let a := n * pow2Den u
      let b := d * pow2Num u
      let q := a / b
      let r := a % b
      let code := ((e + f.bias).toNat) * 2 ^ f.mbits + (q - 2 ^ f.mbits)
      ⟨code, code + 1, q % 2 == 0, r, b⟩

/-- Neighbours among the integers (I4, U4, BX32). -/
def intNbr (n d : Nat) : Nbr := ⟨n / d, n / d + 1, (n / d) % 2 == 0, n % d, d⟩

/-- Neighbours among F4's magnitudes, in halves: 0 1 2 3 4 6 8 12. -/
def f4Nbr (n d : Nat) : Nbr :=
  let h := 2 * n
  if h < 4 * d then ⟨h / d, h / d + 1, (h / d) % 2 == 0, h % d, d⟩
  else if h < 6 * d then ⟨4, 5, true, h - 4 * d, 2 * d⟩
  else if h < 8 * d then ⟨5, 6, false, h - 6 * d, 2 * d⟩
  else if h < 12 * d then ⟨6, 7, true, h - 8 * d, 4 * d⟩
  else ⟨7, 8, false, h - 12 * d, 4 * d⟩

/-- Neighbours among G4's magnitudes, in eighths: 0 1 2 4 8 16 32 64. -/
def g4Nbr (n d : Nat) : Nbr :=
  let h := 8 * n
  if h < d then ⟨0, 1, true, h, d⟩
  else if h < 2 * d then ⟨1, 2, false, h - d, d⟩
  else if h < 4 * d then ⟨2, 3, true, h - 2 * d, 2 * d⟩
  else if h < 8 * d then ⟨3, 4, false, h - 4 * d, 4 * d⟩
  else if h < 16 * d then ⟨4, 5, true, h - 8 * d, 8 * d⟩
  else if h < 32 * d then ⟨5, 6, false, h - 16 * d, 16 * d⟩
  else if h < 64 * d then ⟨6, 7, true, h - 32 * d, 32 * d⟩
  else ⟨7, 8, false, h - 64 * d, 64 * d⟩

/-- The rounding mode of a conversion with the draw SR uses (R45). -/
inductive Rnd where
  | rne
  | sr (rnd : Nat)
  deriving DecidableEq, Repr

/-- R45 and R46: true where the outer neighbour is chosen. -/
def roundsOut (m : Rnd) (b : Nbr) : Bool :=
  match m with
  | .rne => if 2 * b.pos = b.span then !b.innerEven else decide (b.span < 2 * b.pos)
  | .sr rnd => decide (2 ^ 16 ≤ b.pos * 2 ^ 16 / b.span + rnd)

/-- The last lines of R46: pick a neighbour and set INX and UNF. -/
def pickNbr (m : Rnd) (b : Nbr) : NM Nat := do
  if b.pos = 0 then pure b.inner
  else
    raiseInx
    if roundsOut m b then pure b.outer
    else
      if b.inner = 0 then raiseUnf
      pure b.inner

/-- `n / d` compared with the largest magnitude of a floating-point format. -/
def floatExceeds (f : FloatFmt) (n d : Nat) : Bool :=
  let mc := f.maxCode
  let e : Int := (mc / 2 ^ f.mbits : Nat) - (f.bias : Int) - f.mbits
  let sig := 2 ^ f.mbits + mc % 2 ^ f.mbits
  decide (n * pow2Den e > d * (sig * pow2Num e))

def signed (f : FloatFmt) (neg : Bool) (c : Nat) : Nat := if neg then c + f.signBit else c

/-- R46 for a floating-point destination. -/
def convertFloat (f : FloatFmt) (m : Rnd) (x : Ext) : NM Nat :=
  match x with
  | .nan => do raiseInv 3; pure f.nan
  | .inf s =>
    if f.hasInf then pure (signed f s f.infCode)
    else do raiseOvf; pure (signed f s f.maxCode)
  | .fin s n d =>
    if floatExceeds f n d then do raiseOvf; pure (signed f s f.maxCode)
    else do
      let c ← pickNbr m (floatNbr f n d)
      pure (signed f s c)

/-- R46 for F4: code 0x0 for every zero. -/
def convertF4 (m : Rnd) (x : Ext) : NM Nat :=
  match x with
  | .nan => do raiseInv 4; pure 0
  | .inf s => do raiseOvf; pure (if s then 15 else 7)
  | .fin s n d =>
    if n > 6 * d then do raiseOvf; pure (if s then 15 else 7)
    else do
      let c ← pickNbr m (f4Nbr n d)
      pure (if s && c != 0 then c + 8 else c)

/-- R46 for G4, whose element NaN is code 0x8. -/
def convertG4 (m : Rnd) (x : Ext) : NM Nat :=
  match x with
  | .nan => do raiseInv 3; pure 8
  | .inf s => do raiseOvf; pure (if s then 15 else 7)
  | .fin s n d =>
    if n > 8 * d then do raiseOvf; pure (if s then 15 else 7)
    else do
      let c ← pickNbr m (g4Nbr n d)
      pure (if s && c != 0 then c + 8 else c)

/-- R46 for I4: two's complement in four bits. -/
def convertI4 (m : Rnd) (x : Ext) : NM Nat :=
  match x with
  | .nan => do raiseInv 4; pure 0
  | .inf s => do raiseOvf; pure (if s then 8 else 7)
  | .fin s n d =>
    if n > (if s then 8 else 7) * d then do raiseOvf; pure (if s then 8 else 7)
    else do
      let c ← pickNbr m (intNbr n d)
      pure (if s then (16 - c) % 16 else c)

/-- R46 for U4: a negative value saturates to 0 with OVF. -/
def convertU4 (m : Rnd) (x : Ext) : NM Nat :=
  match x with
  | .nan => do raiseInv 4; pure 0
  | .inf s => do raiseOvf; pure (if s then 0 else 15)
  | .fin s n d =>
    if s && n != 0 then do raiseOvf; pure 0
    else if n > 15 * d then do raiseOvf; pure 15
    else pickNbr m (intNbr n d)

/-- R46 for a BX32 mantissa: none is the non-finite element. -/
def convertBx (m : Rnd) (x : Ext) : NM (Option Int) :=
  match x with
  | .nan => do raiseInv 3; pure none
  | .inf _ => do raiseInv 4; pure none
  | .fin s n d =>
    if n > (if s then 2 ^ 31 else 2 ^ 31 - 1) * d then do
      raiseOvf
      pure (some (if s then -(2 ^ 31 : Int) else 2 ^ 31 - 1))
    else do
      let c ← pickNbr m (intNbr n d)
      pure (some (if s then -(c : Int) else c))

/-- R46 for any tensor format but BX32 and S8, which have no element code of this kind. -/
def convertTo (f : Fmt) (m : Rnd) (x : Ext) : NM Nat :=
  match f with
  | .f4 => convertF4 m x
  | .i4 => convertI4 m x
  | .u4 => convertU4 m x
  | .g4 => convertG4 m x
  | .f8 => convertFloat .f8 m x
  | .h8 => convertFloat .h8 m x
  | .bf16 => convertFloat .bf16 m x
  | .fp16 => convertFloat .fp16 m x
  | _ => convertFloat .fp32 m x

/-- RNE_FP32 of an exact value: OVF, UNF and INX as R46 and R47 state. An exact NaN comes from an
operation that has already raised INV, so none is raised again. -/
def rne32 (x : Ext) : NM Nat :=
  match x with
  | .nan => pure FloatFmt.fp32.nan
  | x => convertFloat .fp32 .rne x

/-! ### Decoding -/

/-- The value of a floating-point code; a subnormal code reads as a zero of its sign (R36, R37). -/
def decodeFloat (f : FloatFmt) (c : Nat) : Ext :=
  let s := decide (c / f.signBit % 2 = 1)
  let e := c / 2 ^ f.mbits % 2 ^ f.ebits
  let m := c % 2 ^ f.mbits
  if e = 0 then .fin s 0 1
  else if f.hasInf && e = f.topExp then (if m = 0 then .inf s else .nan)
  else if !f.hasInf && e = f.topExp && m = 2 ^ f.mbits - 1 then .nan
  else .dyadic s (2 ^ f.mbits + m) ((e : Int) - f.bias - f.mbits)

def dec32 (c : Nat) : Ext := decodeFloat .fp32 c
def decBf16 (c : Nat) : Ext := decodeFloat .bf16 c

/-- The largest finite FP32 value. -/
def maxFp32 : Nat := 0x7F7FFFFF
def oneFp32 : Nat := 0x3F800000

/-- The 9-bit internal form of a four-bit code (R31 to R34, R42): bit 8 the sign, bits 7 to 4 the
exponent, bits 3 to 0 the significand. -/
def internalForm (f : Fmt) (c : Nat) : Nat :=
  let t : List Nat :=
    match f with
    | .f4 => [0x000, 0x068, 0x078, 0x07C, 0x088, 0x08C, 0x098, 0x09C,
              0x000, 0x168, 0x178, 0x17C, 0x188, 0x18C, 0x198, 0x19C]
    | .i4 => [0x000, 0x078, 0x088, 0x08C, 0x098, 0x09A, 0x09C, 0x09E,
              0x1A8, 0x19E, 0x19C, 0x19A, 0x198, 0x18C, 0x188, 0x178]
    | .u4 => [0x000, 0x078, 0x088, 0x08C, 0x098, 0x09A, 0x09C, 0x09E,
              0x0A8, 0x0A9, 0x0AA, 0x0AB, 0x0AC, 0x0AD, 0x0AE, 0x0AF]
    | _ => [0x000, 0x048, 0x058, 0x068, 0x078, 0x088, 0x098, 0x0A8,
            0x0FF, 0x148, 0x158, 0x168, 0x178, 0x188, 0x198, 0x1A8]
  t.getD (c % 16) 0

/-- The value of an internal form: (−1)^S × M × 2^(E − 10); 0x0FF is NaN (R42). -/
def internalValue (w : Nat) : Ext :=
  if w = 0x0FF then .nan
  else .dyadic (decide (w / 256 = 1)) (w % 16) ((w / 16 % 16 : Nat) - 10)

/-- The exact product of two internal forms (R42): none is NaN, whatever the other operand holds. -/
def internalProduct (a b : Nat) : Option Int :=
  if a = 0x0FF ∨ b = 0x0FF then none
  else
    -- scaled by 2^20, which the exponents never go below
    let m : Nat := (a % 16) * (b % 16) * 2 ^ (a / 16 % 16 + b / 16 % 16)
    some (if a / 256 = b / 256 then (m : Int) else -(m : Int))

/-- The value of a four-bit code (R31 to R34). -/
def decodeFour (f : Fmt) (c : Nat) : Ext := internalValue (internalForm f c)

/-- The value of a code of any element format but BX32. -/
def decodeElem (f : Fmt) (c : Nat) : Ext :=
  match f.float? with
  | some ff => decodeFloat ff c
  | none => decodeFour f c

/-- The largest positive grid value of a four-bit destination, the `L` of R62. -/
def gridMax : Fmt → Nat
  | .f4 => 6 | .i4 => 7 | .g4 => 8 | .u4 => 15 | _ => 0

/-! ### FP32 arithmetic, one rounding an operation (R45, R142) -/

def fadd (a b : Nat) : NM Nat := do rne32 (← extAdd (dec32 a) (dec32 b))
def fsub (a b : Nat) : NM Nat := do rne32 (← extAdd (dec32 a) (dec32 b).neg)
def fmul (a b : Nat) : NM Nat := do rne32 (← extMul (dec32 a) (dec32 b))

/-- `acc + a × b` with the product exact and one rounding (R145, R151). -/
def fmaEx (acc : Nat) (a b : Ext) : NM Nat := do
  let p ← extMul a b
  rne32 (← extAdd (dec32 acc) p)

/-- FP32 division. A finite non-zero value over zero saturates (R47). -/
def fdiv (a b : Nat) : NM Nat :=
  match dec32 a, dec32 b with
  | .nan, _ => do raiseInv 3; pure FloatFmt.fp32.nan
  | _, .nan => do raiseInv 3; pure FloatFmt.fp32.nan
  | .inf _, .inf _ => do raiseInv 6; pure FloatFmt.fp32.nan
  | .inf s, .fin t _ _ => rne32 (.inf (s != t))
  | .fin s _ _, .inf t => rne32 (.fin (s != t) 0 1)
  | .fin s n d, .fin t m e =>
    if m = 0 then
      if n = 0 then do raiseInv 6; pure FloatFmt.fp32.nan
      else do raiseOvf; pure (signed .fp32 (s != t) maxFp32)
    else rne32 (.fin (s != t) (n * e) (d * m))

/-- The negative of an FP32 code; that of a NaN is the canonical NaN (R38). -/
def fneg (a : Nat) : Nat :=
  if (dec32 a).isNan then FloatFmt.fp32.nan else if a < 2 ^ 31 then a + 2 ^ 31 else a - 2 ^ 31

/-- A free FP32 code as the module may write it: no subnormal, no infinity, and no NaN but the canonical one (R37,
R38, R47). -/
def legal32 (c : Nat) : Nat :=
  match dec32 c with
  | .nan => FloatFmt.fp32.nan
  | .inf s => signed .fp32 s maxFp32
  | .fin s n _ => if n = 0 then signed .fp32 s 0 else c

/-- The larger of two; the max of a NaN and any value is NaN (R144). Of +0 and −0, +0 (log entry 5). -/
def fmax (a b : Nat) : NM Nat :=
  match dec32 a, dec32 b with
  | .nan, _ => do raiseInv 3; pure FloatFmt.fp32.nan
  | _, .nan => do raiseInv 3; pure FloatFmt.fp32.nan
  | x, y =>
    if x.lt y then pure b
    else if y.lt x then pure a
    else if x.isZero && x.sign then pure b else pure a

/-! ### Correctly rounded functions (R143, R198) -/

/-- A function's exact result rounded to FP32 (R143): a non-zero one below the smallest normal becomes zero. -/
def rneFn (x : Ext) : NM Nat :=
  match x with
  | .fin s n d =>
    if n ≠ 0 ∧ n * pow2Den (-126) < d * pow2Num (-126) then do
      raiseInx; raiseUnf; pure (signed .fp32 s 0)
    else rne32 x
  | x => rne32 x

/-- Integer square root, one bit of the root a step from the top. -/
def isqrtAux (n : Nat) : Nat → Nat → Nat
  | 0, r => r
  | i + 1, r => if (r + 2 ^ i) * (r + 2 ^ i) ≤ n then isqrtAux n i (r + 2 ^ i) else isqrtAux n i r

def isqrt (n : Nat) : Nat := isqrtAux n (Nat.log2 n / 2 + 1) 0

/-- The square root of `n / d` as a fraction that rounds as the exact root does: 64 bits of root at
least and half a unit more where it is not exact. -/
def sqrtFrac (n d : Nat) : Ext :=
  let k := Nat.log2 d + 64
  let v := n * d * 2 ^ (2 * k)
  let q := isqrt v
  if q * q = v then .fin false q (d * 2 ^ k) else .fin false (2 * q + 1) (2 * d * 2 ^ k)

/-- sqrt, correctly rounded (R198). The sign of a zero is kept. -/
def fsqrt (a : Nat) : NM Nat :=
  match dec32 a with
  | .nan => do raiseInv 3; pure FloatFmt.fp32.nan
  | .inf s => if s then do raiseInv 5; pure FloatFmt.fp32.nan else rne32 (.inf false)
  | .fin s n d =>
    if n = 0 then pure (signed .fp32 s 0)
    else if s then do raiseInv 5; pure FloatFmt.fp32.nan
    else rne32 (sqrtFrac n d)

/-- rsqrt with the special inputs of R143. -/
def frsqrt (a : Nat) : NM Nat :=
  match dec32 a with
  | .nan => do raiseInv 3; pure FloatFmt.fp32.nan
  | .inf s => if s then do raiseInv 5; pure FloatFmt.fp32.nan else pure 0
  | .fin s n d =>
    if n = 0 then do raiseOvf; pure maxFp32
    else if s then do raiseInv 5; pure FloatFmt.fp32.nan
    else rneFn (sqrtFrac d n)

/-- Fraction bits of the fixed-point series below (log entry 6). -/
def fixBits : Nat := 320

/-- floor (2^320 × ln 2). -/
def ln2Fix : Nat := 0xb17217f7d1cf79abc9e3b39803f2f6af40f343267298b62d8a0d175b8baafa2be7b876206debac98

/-- floor (2^320 × 2 / sqrt π). -/
def twoOverSqrtPiFix : Nat := 0x120dd750429b6d11ae3a914fed7fd8688281341d7587cea2e7342b06199cc416180eb39f0b24e1e22

/-- Σ r^i / i! from the term `t` of index `i`. -/
def expSeries (r : Nat) : Nat → Nat → Nat → Nat → Nat
  | 0, _, _, acc => acc
  | k + 1, i, t, acc => expSeries r k (i + 1) (t * r / 2 ^ fixBits / i) (acc + t * r / 2 ^ fixBits / i)

/-- exp of a finite non-zero value, as a fraction that rounds as the exact function does. -/
def expFrac (s : Bool) (n d : Nat) : Ext :=
  if n > 128 * d then (if s then .fin false 1 (2 ^ 200) else .fin false (2 ^ 200) 1)
  else
    let x : Int := if s then -(n * 2 ^ fixBits / d : Nat) else (n * 2 ^ fixBits / d : Nat)
    let k : Int := x / (ln2Fix : Int)
    let r : Nat := (x - k * (ln2Fix : Int)).toNat
    let v := expSeries r 90 1 (2 ^ fixBits) (2 ^ fixBits)
    .fin false (v * pow2Num k) (2 ^ fixBits * pow2Den k)

/-- exp (R143). -/
def fexp (a : Nat) : NM Nat :=
  match dec32 a with
  | .nan => do raiseInv 3; pure FloatFmt.fp32.nan
  | .inf s => if s then pure 0 else rne32 (.inf false)
  | .fin s n d => if n = 0 then pure oneFp32 else rneFn (expFrac s n d)

/-- Σ (−1)^k x^(2k+1) / (k! (2k+1)): `t` is x^(2k+1)/k!. -/
def erfSeries (x2 : Nat) : Nat → Nat → Nat → Int → Int
  | 0, _, _, acc => acc
  | f + 1, k, t, acc =>
    let term : Int := (t / (2 * k + 1) : Nat)
    erfSeries x2 f (k + 1) (t * x2 / 2 ^ fixBits / (k + 1)) (if k % 2 = 0 then acc + term else acc - term)

/-- erf (R143); from 4 on the exact value rounds to 1. -/
def ferf (a : Nat) : NM Nat :=
  match dec32 a with
  | .nan => do raiseInv 3; pure FloatFmt.fp32.nan
  | .inf s => pure (signed .fp32 s oneFp32)
  | .fin s n d =>
    if n = 0 then pure (signed .fp32 s 0)
    else if n ≥ 4 * d then do raiseInx; pure (signed .fp32 s oneFp32)
    else
      let x := n * 2 ^ fixBits / d
      let v := erfSeries (x * x / 2 ^ fixBits) 170 0 x 0
      rneFn (.fin s (v.toNat * twoOverSqrtPiFix) (2 ^ (2 * fixBits)))

/-- 2 × Σ z^(2k+1) / (2k+1). -/
def atanhSeries (z2 : Nat) : Nat → Nat → Nat → Nat → Nat
  | 0, _, _, acc => 2 * acc
  | f + 1, k, t, acc => atanhSeries z2 f (k + 1) (t * z2 / 2 ^ fixBits) (acc + t / (2 * k + 1))

/-- The natural logarithm of `n / d > 0` in fixed point. -/
def logFix (n d : Nat) : Int :=
  let e := floorLog2 n d
  let mn := n * pow2Den e
  let md := d * pow2Num e
  let z := (mn - md) * 2 ^ fixBits / (mn + md)
  e * (ln2Fix : Int) + (atanhSeries (z * z / 2 ^ fixBits) 110 0 z 0 : Nat)

/-- The logarithm of zero: a free value the module may write, with the flags that follow from it (log entry 112). -/
def logOfZero : NM Nat :=
  let v := legal32 Config.logOfZero.toNat
  if (dec32 v).isNan then do raiseInv 5; pure v
  else if v % 2 ^ 31 = maxFp32 then do raiseOvf; pure v
  else do raiseInx; pure v

/-- log, correctly rounded (R149, XENT). -/
def flog (a : Nat) : NM Nat :=
  match dec32 a with
  | .nan => do raiseInv 3; pure FloatFmt.fp32.nan
  | .inf s => if s then do raiseInv 5; pure FloatFmt.fp32.nan else rne32 (.inf false)
  | .fin s n d =>
    if n = 0 then logOfZero
    else if s then do raiseInv 5; pure FloatFmt.fp32.nan
    else if n = d then pure 0
    else
      let v := logFix n d
      rne32 (.fin (decide (v < 0)) v.natAbs (2 ^ fixBits))

/-- Keep at most 400 significant bits of `m × 2^e`. -/
def trimFix (m : Nat) (e : Int) : Nat × Int :=
  let l := Nat.log2 m
  if l ≤ 400 then (m, e) else (m / 2 ^ (l - 400), e + (l - 400 : Nat))

/-- `acc × b^t` by squaring, on the bits of `t`, 48 of them (R199). -/
def powAux : Nat → Nat → Nat × Int → Nat × Int → Nat × Int
  | 0, _, _, acc => acc
  | f + 1, t, b, acc =>
    let acc' := if t % 2 = 1 then trimFix (acc.1 * b.1) (acc.2 + b.2) else acc
    if t / 2 = 0 then acc'
    else
      let b' := trimFix (b.1 * b.1) (b.2 + b.2)
      powAux f (t / 2) b' acc'

/-- `a ^ t` for FP32 `a` from 0 to below 1, one rounding (R198, R199). -/
def fpow (a t : Nat) : NM Nat :=
  match dec32 a with
  | .fin s n d =>
    if n = 0 then pure (if t = 0 then oneFp32 else 0)
    else
      let l := Nat.log2 d
      let r := powAux 48 t (n, -(l : Int)) (1, 0)
      if (Nat.log2 r.1 : Int) + r.2 < -200 then rne32 (.fin (s && t % 2 == 1) 1 (2 ^ 200))
      else rne32 (.dyadic (s && t % 2 == 1) r.1 r.2)
  | _ => do raiseInv 3; pure FloatFmt.fp32.nan

/-! ### Sums of R144 and R178 -/

/-- `f` over the list from the left. -/
def foldNM {α : Type} (f : Nat → α → NM Nat) : Nat → List α → NM Nat
  | acc, [] => pure acc
  | acc, x :: xs => do foldNM f (← f acc x) xs

/-- One level of the pairwise tree: neighbours combined, an odd one passed up unchanged. -/
def pairUp (f : Nat → Nat → NM Nat) : List Nat → NM (List Nat)
  | a :: b :: r => do
    let x ← f a b
    pure (x :: (← pairUp f r))
  | l => pure l

/-- `k` levels of the tree. -/
def treeLevels (f : Nat → Nat → NM Nat) : Nat → List Nat → NM (List Nat)
  | 0, l => pure l
  | k + 1, l => do treeLevels f k (← pairUp f l)

/-- The elements of lane `l`: positions l, l + 256, … (R144). -/
def laneElems (xs : List Nat) (l : Nat) : List Nat :=
  (List.range ((xs.length + 255 - l) / 256)).map fun i => xs.getD (l + 256 * i) 0

/-- The lane tree: 256 lane sums from +0, then eight levels (R144). -/
def laneSum (xs : List Nat) : NM Nat := do
  let lanes ← (List.range 256).mapM fun l => foldNM fadd 0 (laneElems xs l)
  let r ← treeLevels fadd 8 lanes
  pure (r.headD 0)

/-- The same tree with max; lanes without an element take no part (R144). -/
def laneMax (xs : List Nat) : NM Nat := do
  let lanes ← ((List.range 256).filter (· < xs.length)).mapM fun l =>
    match laneElems xs l with
    | [] => pure 0
    | y :: ys => foldNM fmax y ys
  let r ← treeLevels fmax 8 lanes
  pure (r.headD 0)

/-! ### The stochastic-rounding generator (R48) -/

def add32 (a b : Nat) : Nat := (a + b) % 2 ^ 32
def rotl32 (x r : Nat) : Nat := (x * 2 ^ r) % 2 ^ 32 + x / 2 ^ (32 - r)

/-- One round of R48: rotation amounts `a`, `b`, keys `k`, round number `r`. -/
def rndRound (k0 k1 k2 a b r : Nat) (x : Nat × Nat × Nat × Nat) : Nat × Nat × Nat × Nat :=
  let key := fun i => [k0, k1, k2].getD (i % 3) 0
  let x0 := add32 x.1 x.2.1
  let x1 := Nat.xor (rotl32 x.2.1 a) x0
  let x2 := add32 x.2.2.1 x.2.2.2
  let x3 := Nat.xor (rotl32 x.2.2.2 b) x2
  (add32 x0 (key (r + 1)), add32 x3 (key (r + 2)), add32 x2 (key r), add32 x1 (r + 1))

/-- rnd16 of R48. -/
def rnd16 (seed tensor elem step : Nat) : Nat :=
  let k0 := seed % 2 ^ 32
  let k1 := seed / 2 ^ 32 % 2 ^ 32
  let k2 := Nat.xor (Nat.xor k0 k1) 0x1BD11BDA
  let x0 := add32 (elem % 2 ^ 32) k0
  let x1 := add32 (tensor % 2 ^ 32) k1
  let x2 := add32 (step % 2 ^ 32) k2
  let x3 := add32 ((elem / 2 ^ 32 % 2 ^ 16) * 2 ^ 16 + step / 2 ^ 32 % 2 ^ 16) k0
  let s := rndRound k0 k1 k2 13 15 0 (x0, x1, x2, x3)
  let s := rndRound k0 k1 k2 26 6 1 s
  let s := rndRound k0 k1 k2 17 29 2 s
  let s := rndRound k0 k1 k2 16 24 3 s
  Nat.xor s.1 s.2.2.1 % 2 ^ 16

/-- The four inputs of the generator but the element (R49). -/
structure SrKey where
  seed : Nat
  tensor : Nat
  step : Nat
  deriving DecidableEq, Repr

/-- The draw for element `idx` of problem `prob` of a tensor of `elems` elements a problem (R49). -/
def SrKey.draw (k : SrKey) (prob elems idx : Nat) : Nat :=
  rnd16 k.seed k.tensor ((prob * elems + idx) % 2 ^ 48) k.step

end Sys2Proof.Machine
end

