-- ==== Sys2Proof/Machine/State.lean ====
section
/-! DEFINITION. Everything the spec gives the machine, as plain data: `Mach` is the module, `State` the
module and the queue of commands that wait to be taken. INVENTORY.md lists each piece with its rule. -/

namespace Sys2Proof.Machine

open Sys2Proof

/-- Why the machine stops with a fault. -/
inductive Fault where
  /-- Raised by every meaning for a command that is not well-formed: an operand names a unit the module does
  not have (a tile above 10,239, a journal above 63) or is wider than its field. No such command can reach
  the hardware. Safe. -/
  | illFormed
  deriving DecidableEq, Repr

/-- Why a command has no meaning. -/
inductive Refusal where
  /-- Raised by exec for an arm that has no meaning yet. Safe. -/
  | notModelled (mnemonic : String)
  /-- Raised by a meaning for an event of the module's own engines that the spec rules out in this state
  (a result of a command that does not run). Safe: the hardware takes no step there. -/
  | cannotOccur (why : String)
  deriving DecidableEq, Repr

/-! ### Engines -/

/-- A fetched command: its descriptor, its partition, the bay of its executing sequencer, when that
sequencer received it, and the stochastic-rounding seed latched at its start (R49). -/
structure Cmd where
  id : CmdId
  part : Nat
  desc : Bytes
  bay : Nat
  received : Nat
  seed : Nat
  deriving DecidableEq, Repr

/-- The five counters of an engine (R445). -/
structure Counts where
  busy : Nat
  work : Nat
  stalls : Nat
  gated : Nat
  sat : Nat
  deriving DecidableEq, Repr

/-- One engine's numerics (R51, R52) and counters (R445 to R447, R451). -/
structure Engine where
  /-- FLAGS: bit 0 OVF, 1 UNF, 2 INX, 3 INV. -/
  flags : Nat
  sats : Nat
  /-- The first-fault record, 256 bits. -/
  firstFault : Nat
  live : Counts
  beginLatch : Counts
  endLatch : Counts
  /-- The command of the run in progress. -/
  run : Option Cmd
  runCommandId : Nat
  units : Nat
  firstUnit : Nat
  /-- Runs begun since module start. -/
  runs : Nat
  /-- When the engine finished its last unit (R446). -/
  restedAt : Nat
  /-- Whether the last run was admitted to the trace when it began, and then whether sampling was above 1 (R451). -/
  traced : Option Bool
  deriving DecidableEq, Repr

/-! ### Commands -/

/-- A resolved handle entry (R237). -/
structure Handle where
  tensor : Nat
  fmt : Nat
  base : Nat
  bytes : Nat
  stride : Nat
  bayStride : Nat
  scale : Nat
  vector : Nat
  list : Nat
  scaleStride : Nat
  deriving DecidableEq, Repr

/-- One BX32 element: a mantissa with its residue nibble, or non-finite (R41). -/
abbrev BElem := Option (Int × Nat)

/-- A block on the reduction chain (R170): exponent, 64 elements, and whether it is poisoned (R176). -/
structure Block where
  exp : Int
  elems : List BElem
  poisoned : Bool
  deriving DecidableEq, Repr

/-- The first residue mismatch of a reduction (R175, R179). -/
structure ResidueFault where
  bay : Nat
  stage : Nat
  block : Nat
  elem : Nat
  deriving DecidableEq, Repr

/-- A REDUCE between its validation and its completion (R170 to R179). -/
structure ReduceWork where
  headroom : Nat
  /-- Blocks each chain position has processed. -/
  doneAt : List Nat
  /-- Blocks sent on: chain position they wait at, block number, block. Position Q is the chain end. -/
  links : List (Nat × Nat × Block)
  /-- Final blocks distributed so far, with the figures R169, R178 and R179 take from them. -/
  written : Nat
  log2max : List Int
  maxAbs : Ext
  normSq : Nat
  raises : Nat
  firstRaise : Nat
  nonfinite : Nat
  sats : Nat
  residue : Option ResidueFault
  poisonedBlocks : List Nat
  deriving DecidableEq, Repr

/-- A CAST after its latch (R66, R71 to R74, R81): the tensor scale, the outliers by element index, the U4
channel parameters (R64), and what its calipers have merged. -/
structure CastWork where
  scale : Nat
  twoPass : Bool
  unseeded : Bool
  listed : List Nat
  spilledAt : List Nat
  chans : List (Nat × Nat)
  zeroRange : Nat
  maxAbs : Nat
  outlierMax : Nat
  sats : Nat
  zeroBlocks : Nat
  nanBlocks : Nat
  hist : List Nat
  nanSeen : Bool
  infSeen : Bool
  deriving DecidableEq, Repr

/-- One list entry of an UPDATE with what its validation read once (R193, R194, R199): the entry, its
optimiser record, its freeze map (empty for none), NORM_SQ of its report, the constants η, λ, a1, a2, b1,
b2, and the per-tensor clip factor. -/
structure UpdEntry where
  raw : Bytes
  opt : Bytes
  freeze : Bytes
  normSq : Nat
  consts : List Nat
  clipT : Nat
  deriving DecidableEq, Repr

/-- What became of one shard (R203 to R211): list entry and chain position; whether it counts as applied,
was judged skewed, or met a record bound to another tensor; the sums W_SQ, G_SQ and U_SQ; the sum of
pass 1; its counts; whether a block of it was poisoned, and 1 or 2 where a gradient block failed R41. -/
structure Shard where
  entry : Nat
  pos : Nat
  applied : Bool
  skewed : Bool
  foreign : Bool
  wSq : Nat
  gSq : Nat
  uSq : Nat
  pass1 : Nat
  nonfinite : Nat
  frozen : Nat
  absent : Nat
  elements : Nat
  poisoned : Bool
  gradFault : Nat
  deriving DecidableEq, Repr

/-- An UPDATE that has been validated (R195, R204, R205). -/
structure UpdateWork where
  stamp : Nat
  globalMax : Nat
  veto : Bool
  entries : List UpdEntry
  shards : List Shard
  /-- 0 waiting for its units, 1 in pass 1 or the single pass, 2 in pass 2. -/
  phase : Nat
  /-- The global sum and its clip factor, FP32 codes (R198, R205). -/
  globalSq : Nat
  clip : Nat
  /-- Chain positions whose pass 2 is done, and those whose unit was reset (R215). -/
  doneAt : List Nat
  resetAt : List Nat
  /-- The layer table as check 3 of R195 found it; 0 for none (R213). -/
  layerTable : Nat
  deriving DecidableEq, Repr

/-- A tile dropped from a multicast group (R276): the offsets of the transfers outstanding at the drop, whose bytes
it lacks, and from where on it lacks everything. -/
structure Dropped where
  tile : Nat
  owed : List Nat
  next : Nat
  deriving DecidableEq, Repr

/-- A COPY after its validation (R268 to R276, R131). `src` and `dst` are the buffers' addresses, of which
`srcOff` and `dstOff` are offsets; for a multicast, `dst` is the offset within every tile store. -/
structure CopyWork where
  src : Nat
  srcOff : Nat
  dst : Nat
  dstOff : Nat
  len : Nat
  /-- Bytes issued and bytes written. -/
  issued : Nat
  done : Nat
  /-- Absolute deadline, none for a DEADLINE of 0. -/
  deadline : Option Nat
  stream : Nat
  /-- The fixed dry time an aged queue took (R270), and when its queue last issued or began to wait. -/
  aged : Option Nat
  waitedFrom : Nat
  multicast : Bool
  /-- Member tiles of a multicast group still in it, and those dropped. -/
  members : List Nat
  dropped : List Dropped
  /-- Commands in the recompute list (R129), and the number of the one running, 0 while fetching. -/
  count : Nat
  running : Nat
  /-- How the list command last run ended, until the next one starts: reason and DETAIL. -/
  subEnd : Option (Nat × Nat)
  lost : Bool
  deriving DecidableEq, Repr

/-- What a running command has in progress, by kind. -/
inductive Work where
  /-- Items dealt to work counters (R92): products, ROTATE, WIDE commands. -/
  | items
  /-- A product that re-executes its items on the wide units (R154): cluster and item left to run. -/
  | fallback (left : List (Nat × Nat))
  /-- A CAST that has not latched its scale (R71). -/
  | latching
  | casting (w : CastWork)
  | reducing (w : ReduceWork)
  | updating (w : UpdateWork)
  | copying (w : CopyWork)
  /-- A WAIT. For a seal (R360): the lines still to be sent, by bay the ACKED value that covers the lines
  sent, and by bay the number of its SEAL record. -/
  | waiting (lines : NSet) (needs : SMap Nat) (seals : SMap Nat)
  deriving DecidableEq, Repr

/-- A validated command that has not completed. -/
structure Act where
  cmd : Cmd
  /-- Handle entries as read at validation: by descriptor offset, with 64 added for the VECTOR and 128
  for the LIST of that handle (R236). -/
  handles : SMap Handle
  /-- Values read once at validation, by descriptor offset: scale words; 256 and above as `Operands`
  names them. -/
  values : SMap Nat
  /-- The freeze map, read whole (R128). -/
  freeze : Bytes
  work : Work
  /-- Clusters where a counter is still to be bound, with the range dealt to each (R91). -/
  toBind : List (Nat × Nat × Nat)
  flg : Flg
  poisoned : Bool
  /-- Faults met while running: reason and DETAIL (R252). -/
  faults : List (Nat × Nat)
  fellBack : Nat
  /-- Losses of an XENT by row: FP32 code and whether the row is ignored (R149). -/
  losses : SMap (Nat × Bool)
  deriving DecidableEq, Repr

/-- A bound work counter (R92), in the order of binding. -/
structure WorkCounter where
  cluster : Nat
  num : Nat
  cmd : CmdId
  kind : Nat
  next : Nat
  stop : Nat
  left : Nat
  deriving DecidableEq, Repr

/-- An item an engine runs (R18, R141). -/
structure Running where
  engine : Nat
  cmd : CmdId
  item : Nat
  deriving DecidableEq, Repr

/-- A finished item whose outputs wait for the outlier terms (R98): the FP32 values before them. -/
structure AddBack where
  cluster : Nat
  engine : Nat
  cmd : CmdId
  item : Nat
  vals : List Nat
  poisoned : Bool
  deriving DecidableEq, Repr

/-- A transfer outstanding in a bay's DMA engine (R269); `member` is the tile of a catch-up. -/
structure Transfer where
  bay : Nat
  ticket : Nat
  cmd : CmdId
  offset : Nat
  len : Nat
  member : Option Nat
  deriving DecidableEq, Repr

/-! ### Journals and rings -/

/-- The states of a journal, with the codes of R246. -/
inductive JState where
  | disabled | running | draining | stopped
  deriving DecidableEq, Repr

structure Journal where
  state : JState
  /-- PRODUCE as last read into the device cache. -/
  produce : Nat
  consumed : Nat
  completed : Nat
  /-- Whether CONSUMED or COMPLETED changed since the status line was written (R225). -/
  statusDue : Bool
  /-- A command with FENCE that has been fetched and not started (R244). -/
  held : Option Cmd
  /-- Reason codes of completed commands by sequence number (R244). -/
  reasons : SMap Nat
  deriving DecidableEq, Repr

structure Ring where
  /-- CONSUMED of the consumer line as last read (R227). -/
  consumed : Nat
  /-- Records not yet signalled, and when the first of them was written (R229). -/
  unsignalled : Nat
  firstAt : Nat
  deriving DecidableEq, Repr

/-- A record ready for its ring (R228), with the command it completes. -/
structure Rec where
  ring : Nat
  bytes : Bytes
  cmd : Option (CmdId × Nat)
  stalled : Bool
  deriving DecidableEq, Repr

/-! ### Memory, placement, lent store, protection -/

/-- Metadata of a module-memory line (R290): EPOCH and STATE, and the number of the session key it was sealed under
when it was written (R294). -/
structure LineMeta where
  epoch : Nat
  state : Nat
  key : Nat
  deriving DecidableEq, Repr

/-- Why a memory controller will rewrite a line (R300). -/
inductive WriteBack where
  | corrected | poison | blank
  deriving DecidableEq, Repr

/-- A placed object (R258): partition, entry, tier, base, rounded length, copies, MIRRORED. -/
structure Placed where
  part : Nat
  entry : Nat
  tier : Nat
  base : Nat
  len : Nat
  every : Bool
  mirrored : Bool
  deriving DecidableEq, Repr

/-- A bound lent piece (R265): home address, tile, piece number; PRESENT and DIRTY sectors. -/
structure Lent where
  part : Nat
  home : Nat
  tile : Nat
  piece : Nat
  present : NSet
  dirty : NSet
  deriving DecidableEq, Repr

/-- A bay's prefetch regulator (R272): tokens in thousandths of a byte, and when they were counted. -/
structure Bucket where
  milli : Nat
  at_ : Nat
  deriving DecidableEq, Repr

/-- An answer owed to a write whose check or creation takes its time (R334, R371). -/
structure Owed where
  path : Path
  index : Nat
  sub : Nat
  slotTime : Nat
  deriving DecidableEq, Repr

/-! ### Partitions -/

/-- P_STATE (R370). -/
inductive PState where
  | absent | keying | active | failed
  deriving DecidableEq, Repr

structure Partition where
  state : PState
  bays : NSet
  confidential : Bool
  /-- Draw numbers of the session's XTS key, tag key and KEM pair (R373), none while no session runs. -/
  keys : Option Nat
  /-- K_HM and K_MH (R377). -/
  bounce : Option (Nat × Nat)
  /-- Bays whose package is being rewritten blank before the session starts (R296). -/
  blanking : NSet
  /-- The answer owed to the PT_CREATE whose first session waits for them (R371). -/
  creator : Option Owed
  deriving DecidableEq, Repr

/-! ### Dictionary traffic -/

/-- A dictionary write that has passed checks 1 to 7 and waits for the end of its slot (R320). -/
structure SlotWrite where
  /-- Module time of the arrival. -/
  at_ : Nat
  path : Path
  index : Nat
  sub : Nat
  value : Nat
  fetch : Option FwFetch
  deriving DecidableEq, Repr

/-- A request answered after the writes of its slot (R320): a READ or DESCRIBE, or a WRITE that failed one of
checks 4 to 7 for a reason, whose answer carries the value held after the slot (R328). -/
structure SlotRead where
  at_ : Nat
  path : Path
  op : Nat
  index : Nat
  sub : Nat
  reason : Nat
  deriving DecidableEq, Repr

/-- A mailbox's registers (R323, R324). -/
structure Mailbox where
  intEn : Bool
  lastReason : Nat
  done : Bool
  busy : Bool
  vector : Nat
  vectorValid : Bool
  request : Bytes
  answer : Bytes
  deriving DecidableEq, Repr

/-- An MSI-X table entry's registers, and its pending bit (R340). -/
structure MsixEntry where
  addr : Nat
  data : Nat
  masked : Bool
  pending : Bool
  deriving DecidableEq, Repr

/-- An Umpor request accepted and not yet executed (R330). -/
structure UmporReq where
  src : Nat
  srcPort : Nat
  token : Nat
  body : Bytes
  deriving DecidableEq, Repr

/-- A cached answer (R330). -/
structure CachedAnswer where
  src : Nat
  port : Nat
  token : Nat
  at_ : Nat
  frame : Bytes
  deriving DecidableEq, Repr

/-- A notice that waits for its acknowledgement (R332). -/
structure Notice where
  token : Nat
  record : Bytes
  sends : Nat
  dueAt : Nat
  deriving DecidableEq, Repr

/-- A frame queued for a transmit opportunity: destination address, port, hop limit and payload. -/
structure OutFrame where
  dst : Nat
  port : Nat
  hop : Nat
  payload : Bytes
  deriving DecidableEq, Repr

/-! ### The pointing stream -/

/-- PS_STATE (R361). -/
inductive PairState where
  | unpaired | handshake | resync | paired | broken
  deriving DecidableEq, Repr

/-- A record the PRIMARY has sent and the MIRROR has not acknowledged (R355). -/
structure SentRecord where
  bay : Nat
  seq : Nat
  line : Option Nat
  sentAt : Nat
  deriving DecidableEq, Repr

structure Pair where
  state : PairState
  key : Option Nat
  /-- Sending or expected SEQ of each bay, and the ACKED value last sent or received. -/
  seq : SMap Nat
  ackedSeq : SMap Nat
  unacked : List SentRecord
  /-- Dirty mirrored lines in the order in which their bits were set (R357). -/
  queue : List Nat
  sweepLeft : NSet
  /-- HEARTBEAT as the partner last wrote it, and when (R354, R361). -/
  peerTime : Nat
  lastHeard : Nat
  lastBeat : Nat
  /-- MIRROR: when the first unacknowledged record of a bay was applied (R358). -/
  ackDue : SMap Nat
  /-- MIRROR: bays that have applied a SEAL of the step being sealed (R360). -/
  sealed : List (Nat × Nat)
  /-- Handshake: when it began, our nonce, our KEM draw, fragment numbers, the report hashes, the
  partner's encapsulation key, fragments gathered, and the fragments still to send (R385, R386). -/
  beganAt : Nat
  nonce : Nat
  kemDraw : Nat
  sentNumber : Nat
  seenNumber : Nat
  /-- NUMBER of the fragment whose ACK the writer waits for. -/
  awaiting : Option Nat
  hashM : Bytes
  hashP : Bytes
  confirmValue : Bytes
  gathered : Bytes
  outFrags : List Bytes
  /-- The answer owed to the PS_ENABLE write whose check runs. -/
  writer : Option Owed
  /-- MIRROR: CONFIRM has been sent. -/
  confirmed : Bool
  /-- PRIMARY: since when a write to a mirrored line is held (R359). -/
  heldSince : Option Nat
  deriving DecidableEq, Repr

/-! ### Power, start-up, trace -/

/-- BAY_STATE (R406). -/
inductive BayPower where
  | run | idle | sleep | off | failed
  deriving DecidableEq, Repr

structure Bay where
  power : BayPower
  /-- When the present power state was entered. -/
  since : Nat
  wakeAsked : Bool
  /-- When the wake was requested, and whether it has begun (R408, R409). -/
  wakeAt : Nat
  wakeStarted : Bool
  /-- Watchdog last restarted at (R25). -/
  watchdog : Nat
  epoch : Nat
  /-- Throttle level of the droop detectors, and the last detection (R413). -/
  droop : Nat
  droopAt : Nat
  retired : NSet
  scrubNext : Nat
  /-- CRC errors of each channel in this scrub period (R301). -/
  crcPeriod : List Nat
  bucket : Bucket
  nextTicket : Nat
  /-- What the module-wide counters of these names sum (R387): FENCE_DROPS, TR_DROPPED, TR_SENT and
  TR_FRAMES. -/
  fenceDrops : Nat
  trDropped : Nat
  trSent : Nat
  trFrames : Nat
  /-- When a reset of the update unit is over (R215, R245). -/
  updReset : Nat
  /-- The entry to B-OFF has begun: the stores' lent pieces are revoked, and a wake still cancels it (R408). -/
  leaving : Bool
  deriving DecidableEq, Repr

/-- MODULE_STATE (R410). -/
inductive ModState where
  | off | start | run | standby
  deriving DecidableEq, Repr

/-- Progress of a rule (R401): consecutive samples its condition held and failed, and whether it is
fired now. -/
structure RuleRun where
  held : Nat
  failed : Nat
  fired : Bool
  deriving DecidableEq, Repr

/-- The plinth's working values (R396 to R416). -/
structure Plinth where
  /-- Filtered inputs by input code (R398, R400), and the last raw samples of each site, newest first. -/
  filtered : SMap Nat
  siteHistory : SMap (List Nat)
  /-- RULES as of the last sample, and the progress of its rules (R401, R422). -/
  table : Nat
  rules : List RuleRun
  /-- Pin levels: MOD_EN high; PERST_N high (released); PRSNT_N high (not mated); the SLOT_ID strap. -/
  modEn : Bool
  perst : Bool
  prsnt : Bool
  strap : Nat
  /-- SLOT_ID as latched, and whether a sample has found the module mated since the input came (R478). -/
  slotId : Nat
  seated : Bool
  inputOn : Bool
  /-- Module time of the last sample and of the last governor interval. -/
  sampledAt : Nat
  governedAt : Nat
  /-- Rule 3 has fired since module start; THERMAL_CAP in mW (R416). -/
  thermalOn : Bool
  thermalMw : Nat
  /-- Governor level, and intervals with L = 15 and P > cap in a row (R415). -/
  level : Nat
  overCount : Nat
  /-- P_fix in mW; CAL as a fraction of mW for each unit of activity energy of a governor interval; the
  activity energy of this sample interval. -/
  pFix : Int
  calNum : Nat
  calDen : Nat
  activity : Nat
  /-- The window being gathered, its sums and counts by reading, and the last complete window (R388). -/
  windowNo : Nat
  windowSum : SMap (Int × Nat)
  lastWindow : SMap Nat
  rxInSecond : List Nat
  errInSecond : List Nat
  /-- Input energy below one mJ, in units of 10^-4 mJ. -/
  energyFrac : Nat
  /-- When the drain before STANDBY began (R411). -/
  draining : Option Nat
  /-- PLLs without lock, and since when. -/
  pllLost : SMap Nat
  /-- When a wake from B-OFF last began (R409). -/
  lastOffWake : Option Nat
  /-- The eFuse is closed, and the rails that are on (R396, R410, R426). -/
  eFuse : Bool
  rails : NSet
  /-- Time spent at throttle level 16, during which no tile watchdog runs, and since when it lasts (R438). -/
  pausedNs : Nat
  pausedSince : Option Nat
  deriving DecidableEq, Repr

/-- Start-up (R425 to R436). -/
structure Start where
  /-- Stage running now; none outside a start. -/
  stage : Option Nat
  beganAt : Nat
  halted : Bool
  fuses : Fuses
  badTest : NSet
  badClusters : NSet
  badBays : NSet
  holes : NSet
  /-- Logical tiles fenced in service since this start (TILES_FENCED). -/
  fenced : NSet
  fencedPrior : NSet
  loads : Nat
  lastRefusal : Nat
  fw : Bytes
  /-- What each bay adds to the stage reports, by stage × 32 + bay: its figures in the order of R428 (R387). -/
  figures : SMap (List Nat)
  deriving DecidableEq, Repr

/-- TR_STATE (R466). -/
inductive TrState where
  | off | capturing | triggered | sending | stopped | training
  deriving DecidableEq, Repr

/-- A GAP being gathered (R454 to R456): records dropped, cause bits, times of the first and last. -/
structure Gap where
  dropped : Nat
  cause : Nat
  first : Nat
  last : Nat
  deriving DecidableEq, Repr

/-- One capture queue (R454): a cluster's, or a bay-level engine's. -/
structure CapQueue where
  recs : List Bytes
  gap : Option Gap
  deriving DecidableEq, Repr

/-- A bay's trace buffer (R453 to R456): the pre (or only) region and the post region, oldest first,
each with the GAP it keeps. -/
structure TraceBuf where
  pre : List Bytes
  preGap : Option Gap
  post : List Bytes
  postGap : Option Gap
  deriving DecidableEq, Repr

structure Trace where
  state : TrState
  queues : SMap CapQueue
  bufs : SMap TraceBuf
  trigAt : Nat
  trainedAt : Nat
  frameSeq : Nat
  alignGroups : Nat
  nextBay : Nat
  /-- The frame last sent, as blocks: sync header and payload (R459). -/
  lastFrame : List (Nat × Bytes)
  /-- Scrambler register of each lane. -/
  scramblers : List Nat
  blocksSent : Nat
  deriving DecidableEq, Repr

/-! ### The module -/

/-- The module. -/
structure Mach where
  /-- Module time in ns (R393). -/
  now : Nat
  /-- Free values taken (log entry 2) and numbers drawn from the TRNG. -/
  freeCount : Nat
  drawCount : Nat
  /-- Values of the dictionary's objects that differ from their defaults, by index × 256 + subindex. -/
  dict : SMap Nat
  mem : List Host.Cell
  lines : SMap LineMeta
  /-- Valid and poisoned SRAM sectors, by device address div 32 (R288). -/
  valid : NSet
  poison : NSet
  /-- Host-memory bytes held poisoned, by device address div 32 (R346). -/
  hostPoison : NSet
  writeBacks : SMap WriteBack
  sramBacks : NSet
  dirty : NSet
  placed : List Placed
  lent : List Lent
  errorLog : List (Nat × Bytes)
  engines : SMap Engine
  received : List Cmd
  acts : List Act
  /-- The validated commands of recompute lists that have not started (R130). -/
  listed : List Act
  counters : List WorkCounter
  running : List Running
  addBacks : List AddBack
  transfers : List Transfer
  /-- Partitions with a transfer that waits on its regulator: since when, and when the last of its buckets will have
  filled, none where one cannot (R272). -/
  throttled : SMap (Nat × Option Nat)
  journals : SMap Journal
  rings : SMap Ring
  /-- The journal of each partition fetched last (R224). -/
  turn : SMap Nat
  ready : List Rec
  seqs : SMap Nat
  parts : SMap Partition
  slotWrites : List SlotWrite
  slotReads : List SlotRead
  mailboxes : SMap Mailbox
  msix : SMap MsixEntry
  umpor : List UmporReq
  cache : List CachedAnswer
  /-- Addresses whose neighbour is known, and those being solicited (R330). -/
  neighbours : NSet
  soliciting : NSet
  notices : List Notice
  nextToken : Nat
  outbox : List OutFrame
  /-- The frame the module sent last, and what it last returned to a host read: bytes, and the poison mark. -/
  lastSent : Option OutFrame
  returned : Bytes × Bool
  /-- The link-local address was found in use by another node (R330). -/
  addressTaken : Bool
  pair : Pair
  /-- Writes to mirrored lines accepted (R359): the model's own count. -/
  mirrorWrites : Nat
  /-- Lines held in the reserved part of the device cache (R344): the control line of journal j under j, the consumer
  line of ring r under 64 + r. -/
  devCache : SMap Bytes
  /-- The pointing window of BAR4 (R354), and the component registers of BAR2 that hold a value written (R340). -/
  window : List Host.Cell
  components : SMap Nat
  hdmCommitted : Option Nat
  hdmError : Bool
  /-- When a flag the module sets was last set, by `flagKey` (R322). -/
  flagAt : SMap Nat
  modState : ModState
  bays : SMap Bay
  plinth : Plinth
  start : Start
  tileWatchdogs : SMap Nat
  trace : Trace
  trngFailed : Bool
  deriving DecidableEq, Repr

/-- The module, and the commands that wait, first in, first out. -/
structure State extends Mach where
  pending : List Instr
  deriving DecidableEq, Repr

/-! ### Reset

Reset is the module with its 54 V input not applied: the values the spec gives at the first module start,
before any stage of it has run. What the spec gives no value is zero or empty (log entry 1). -/

def Counts.zero : Counts := ⟨0, 0, 0, 0, 0⟩

def Engine.reset : Engine := ⟨0, 0, 0, .zero, .zero, .zero, none, 0, 0, 0, 0, 0, none⟩

def Journal.reset : Journal := ⟨.disabled, 0, 0, 0, false, none, []⟩

def Ring.reset : Ring := ⟨0, 0, 0⟩

def Partition.reset : Partition := ⟨.absent, [], false, none, none, [], none⟩

def Mailbox.reset : Mailbox := ⟨false, 0, false, false, 0, false, [], []⟩

/-- A vector starts masked, as MSI-X has it (log entry 7). -/
def MsixEntry.reset : MsixEntry := ⟨0, 0, true, false⟩

def Pair.reset : Pair :=
  ⟨.unpaired, none, [], [], [], [], [], 0, 0, 0, [], [], 0, 0, 0, 0, 0, none, [], [], [], [], [], none, false, none⟩

def Bay.reset : Bay := ⟨.run, 0, false, 0, false, 0, 0, 0, 0, [], 0, [0, 0, 0, 0, 0, 0, 0, 0, 0], ⟨0, 0⟩, 0, 0, 0, 0, 0, 0, false⟩

/-- One rule of 16 bytes as a little-endian number (R399). -/
def ruleWord (input op action flags threshold hold arg : Nat) : Nat :=
  input + op * 2 ^ 8 + action * 2 ^ 16 + flags * 2 ^ 24 + threshold * 2 ^ 32 + hold * 2 ^ 64 + arg * 2 ^ 80

/-- Fixed rules 0 to 7 (R403) in the layout of R399 (log entry 8); rules 8 to 31 are zero. -/
def fixedRules : Nat :=
  ruleWord 0x63 1 8 1 0x42DC0000 0 0 + ruleWord 0x60 2 8 1 0x42200000 9 0 * 2 ^ 128 +
    ruleWord 0x60 1 8 1 0x42700000 9 0 * 2 ^ 256 + ruleWord 0x63 1 9 1 0x42BE0000 0 0 * 2 ^ 384 +
    ruleWord 0x70 3 10 1 0x3F800000 0 0 * 2 ^ 512 + ruleWord 0x71 3 7 1 0 0 0 * 2 ^ 640

def RuleRun.reset : RuleRun := ⟨0, 0, false⟩

def Plinth.reset : Plinth where
  filtered := []
  siteHistory := []
  table := fixedRules
  rules := List.replicate 32 .reset
  modEn := false
  perst := false
  prsnt := false
  strap := 0
  slotId := 0
  seated := false
  inputOn := false
  sampledAt := 0
  governedAt := 0
  thermalOn := false
  thermalMw := 1000000
  level := 0
  overCount := 0
  pFix := 0
  calNum := 0
  calDen := 1
  activity := 0
  windowNo := 0
  windowSum := []
  lastWindow := []
  rxInSecond := []
  errInSecond := []
  energyFrac := 0
  draining := none
  pllLost := []
  lastOffWake := none
  eFuse := false
  rails := []
  pausedNs := 0
  pausedSince := none

def Start.reset : Start := ⟨none, 0, false, ⟨0, 0, 0, 0, 0, []⟩, [], [], [], [], [], [], 0, 0, [], []⟩

def Trace.reset : Trace := ⟨.off, [], [], 0, 0, 0, 0, 0, [], [0, 0, 0, 0], 0⟩

def Mach.reset : Mach where
  now := 0
  freeCount := 0
  drawCount := 0
  dict := []
  mem := []
  lines := []
  valid := []
  poison := []
  hostPoison := []
  writeBacks := []
  sramBacks := []
  dirty := []
  placed := []
  lent := []
  errorLog := []
  engines := []
  received := []
  acts := []
  listed := []
  counters := []
  running := []
  addBacks := []
  transfers := []
  throttled := []
  journals := []
  rings := []
  turn := []
  ready := []
  seqs := []
  parts := []
  slotWrites := []
  slotReads := []
  mailboxes := []
  msix := []
  umpor := []
  cache := []
  neighbours := []
  soliciting := []
  notices := []
  nextToken := 0
  outbox := []
  lastSent := none
  returned := ([], false)
  addressTaken := false
  pair := .reset
  mirrorWrites := 0
  devCache := []
  window := []
  components := []
  hdmCommitted := none
  hdmError := false
  flagAt := []
  modState := .off
  bays := []
  plinth := .reset
  start := .reset
  tileWatchdogs := []
  trace := .reset
  trngFailed := false

def State.reset : State := { Mach.reset with pending := [] }

end Sys2Proof.Machine
end

