-- ==== Sys2Proof/Machine/Objects.lean ====
section
/-! DEFINITION. The object table of the dictionary (R311 to R315): every object with its type, access,
owner, size, default and PF0 restriction, from the object tables of R54, R68, R136, R161, R188, R218, R219,
R254, R282, R284, R308, R309, R316, R317, R336, R366 to R368, R389, R390, R420 to R424, R443, R444, R466 and
R469. The default of a fused or strapped object is what start-up wrote into `dict`. -/

namespace Sys2Proof.Machine

open Sys2Proof

/-- Types of R312. -/
inductive OType where
  | bool | u8 | u16 | u32 | u64 | f32 | str | blob
  deriving DecidableEq, Repr

/-- Access codes of R6. -/
inductive Access where
  | ro | rw | wo | w1c | rwl
  deriving DecidableEq, Repr

/-- Owner classes of R313. -/
inductive Owner where
  | host | mgmt | either
  deriving DecidableEq, Repr

/-- One row of an object table. -/
structure ObjRow where
  sub : Nat
  type : OType
  access : Access
  owner : Owner
  size : Nat
  default : Nat
  pf0 : Bool
  deriving DecidableEq, Repr

def OType.code : OType → Nat
  | .bool => 1 | .u8 => 2 | .u16 => 3 | .u32 => 4 | .u64 => 5 | .f32 => 7 | .str => 8 | .blob => 9

def Access.code : Access → Nat
  | .ro => 1 | .rw => 2 | .wo => 3 | .w1c => 4 | .rwl => 5

def Owner.code : Owner → Nat
  | .host => 1 | .mgmt => 2 | .either => 3

/-- The rows of the table whose first instance lies at an index. -/
def objRows : Nat → List ObjRow
  | 0x1000 => [⟨1, .str, .ro, .either, 16, 0x6b6f75726942, false⟩,
      ⟨2, .str, .ro, .either, 16, 0x4b30315420656c6c6561724b, false⟩,
      ⟨3, .str, .ro, .either, 16, 0x412d4b3031542d4c524b, false⟩,
      ⟨4, .str, .ro, .either, 4, 0x3141, false⟩, ⟨5, .u8, .ro, .either, 1, 0xa1, false⟩,
      ⟨6, .str, .ro, .either, 16, 0x0, false⟩, ⟨7, .u64, .ro, .either, 8, 0, false⟩,
      ⟨8, .u8, .ro, .either, 1, 0, false⟩, ⟨9, .u16, .ro, .either, 2, 0x100, false⟩,
      ⟨10, .u32, .ro, .either, 4, 0, false⟩, ⟨11, .u32, .ro, .either, 4, 0, false⟩,
      ⟨12, .u64, .ro, .either, 8, 0, false⟩]
  | 0x1010 => [⟨1, .bool, .rw, .either, 1, 1, false⟩, ⟨2, .u16, .rwl, .mgmt, 2, 61440, false⟩,
      ⟨3, .blob, .rwl, .mgmt, 16, 0x10000000000000000000000000002ff, false⟩,
      ⟨4, .u8, .ro, .either, 1, 0, false⟩, ⟨5, .bool, .wo, .either, 1, 0, false⟩,
      ⟨6, .u8, .ro, .either, 1, 0, false⟩, ⟨7, .u64, .ro, .either, 8, 0, false⟩,
      ⟨8, .u64, .ro, .either, 8, 0, false⟩, ⟨9, .u64, .ro, .either, 8, 0, false⟩,
      ⟨10, .u64, .ro, .either, 8, 0, false⟩, ⟨11, .u64, .ro, .either, 8, 0, false⟩]
  | 0x1100 => [⟨1, .u8, .ro, .either, 1, 0, false⟩, ⟨2, .bool, .rw, .mgmt, 1, 0, false⟩,
      ⟨3, .u32, .rw, .either, 4, 100000000, false⟩, ⟨4, .f32, .ro, .either, 4, 0x0, false⟩,
      ⟨5, .f32, .ro, .either, 4, 0x0, false⟩, ⟨6, .f32, .ro, .either, 4, 0x0, false⟩,
      ⟨7, .u64, .ro, .either, 8, 0, false⟩, ⟨8, .f32, .ro, .either, 4, 0x0, false⟩,
      ⟨9, .f32, .ro, .either, 4, 0x0, false⟩, ⟨10, .f32, .ro, .either, 4, 0x0, false⟩,
      ⟨16, .f32, .rw, .either, 4, 0x447a0000, false⟩, ⟨17, .f32, .ro, .either, 4, 0x447a0000, false⟩,
      ⟨18, .f32, .ro, .either, 4, 0x447a0000, false⟩, ⟨19, .u8, .ro, .either, 1, 0, false⟩,
      ⟨20, .u64, .ro, .either, 8, 0, false⟩, ⟨21, .f32, .rw, .mgmt, 4, 0x42be0000, false⟩,
      ⟨22, .u8, .ro, .either, 1, 0x0, false⟩, ⟨23, .u32, .w1c, .either, 4, 0, false⟩,
      ⟨24, .u64, .ro, .either, 8, 0, false⟩, ⟨25, .u32, .rw, .either, 4, 100000, false⟩,
      ⟨26, .u32, .rw, .either, 4, 100000000, false⟩]
  | 0x1101 => (List.range 24).map fun n => ⟨n + 1, .f32, .ro, .either, 4, 0, false⟩
  | 0x1102 => (List.range 24).map fun n => ⟨n + 1, .f32, .ro, .either, 4, 0, false⟩
  | 0x1103 => (List.range 32).map fun n => ⟨n + 1, .f32, .ro, .either, 4, 0, false⟩
  | 0x1108 => [⟨1, .blob, .rw, .mgmt, 512, fixedRules, false⟩, ⟨2, .u32, .w1c, .either, 4, 0, false⟩,
      ⟨3, .u32, .ro, .either, 4, 0, false⟩,
      ⟨4, .blob, .rw, .mgmt, 128, 0x6060600030303020202020202020202020202020202020202020202020202020202020202020200000000000000000303030303030303030303030303030303030303030303030303030303030303030303030303030303030303030303030303030303030303, false⟩]
  | 0x1200 => [⟨1, .u32, .ro, .either, 4, 3300000000, false⟩,
      ⟨2, .u32, .ro, .either, 4, 1650000000, false⟩, ⟨3, .u8, .ro, .either, 1, 0, false⟩,
      ⟨4, .u64, .ro, .either, 8, 0, false⟩]
  | 0x1400 => [⟨1, .u8, .ro, .either, 1, 0x0, false⟩, ⟨2, .u8, .ro, .either, 1, 0, false⟩,
      ⟨3, .u64, .ro, .either, 8, 0, false⟩, ⟨4, .u64, .rw, .host, 8, 0, true⟩,
      ⟨5, .u64, .rw, .host, 8, 0, true⟩, ⟨6, .bool, .wo, .host, 1, 0, true⟩,
      ⟨7, .u32, .rw, .mgmt, 4, 0, false⟩, ⟨8, .u32, .rw, .mgmt, 4, 0, false⟩,
      ⟨9, .u32, .rw, .either, 4, 1000000, false⟩, ⟨10, .u16, .wo, .either, 2, 0, false⟩,
      ⟨11, .u16, .ro, .either, 2, 0, false⟩, ⟨12, .blob, .ro, .either, 640, 0, false⟩,
      ⟨13, .u64, .ro, .either, 8, 0, false⟩, ⟨14, .bool, .wo, .mgmt, 1, 0, false⟩,
      ⟨15, .blob, .ro, .either, 640, 0, false⟩]
  | 0x1401 => (List.range 10).map fun n => ⟨n + 1, .blob, .ro, .either, 32, 0, false⟩
  | 0x1410 => [⟨1, .blob, .ro, .either, 132, 0, false⟩]
  | 0x1800 => [⟨1, .u16, .ro, .either, 2, 0, false⟩, ⟨2, .bool, .ro, .either, 1, 0, false⟩,
      ⟨3, .u8, .ro, .either, 1, 0x1, false⟩, ⟨4, .u64, .ro, .either, 8, 0, false⟩,
      ⟨5, .u64, .rw, .host, 8, 0, false⟩, ⟨6, .bool, .rw, .host, 1, 0, false⟩,
      ⟨7, .blob, .rwl, .host, 544, 0, false⟩, ⟨8, .blob, .rwl, .host, 544, 0, false⟩,
      ⟨9, .blob, .rwl, .host, 32, 0, false⟩, ⟨10, .blob, .rw, .host, 32, 0, false⟩,
      ⟨11, .u64, .rw, .host, 8, 0, false⟩, ⟨12, .bool, .wo, .host, 1, 0, false⟩,
      ⟨13, .u64, .ro, .either, 8, 0, false⟩, ⟨14, .u64, .ro, .either, 8, 0, false⟩,
      ⟨15, .bool, .wo, .either, 1, 0, false⟩]
  | 0x2000 => [⟨1, .blob, .ro, .either, 32, 0, false⟩, ⟨2, .blob, .ro, .either, 32, 0, false⟩,
      ⟨3, .blob, .ro, .either, 64, 0, false⟩, ⟨4, .blob, .ro, .either, 64, 0, false⟩,
      ⟨5, .u32, .ro, .either, 4, 0, false⟩, ⟨6, .u32, .ro, .either, 4, 0, false⟩,
      ⟨7, .u8, .ro, .either, 1, 0, false⟩, ⟨8, .u64, .ro, .either, 8, 0, false⟩,
      ⟨9, .blob, .rw, .host, 32, 0, true⟩]
  | 0x2010 => [⟨1, .u8, .rw, .host, 1, 0, true⟩, ⟨2, .u16, .rw, .host, 2, 0, true⟩,
      ⟨3, .bool, .rw, .host, 1, 0, true⟩, ⟨4, .bool, .wo, .host, 1, 0, true⟩,
      ⟨5, .bool, .wo, .host, 1, 0, true⟩, ⟨6, .u16, .ro, .either, 2, 0, false⟩,
      ⟨7, .blob, .ro, .either, 16, 0xFFFFFFFFFFFFFFFFFFFFFFFFFFFFFFFF, false⟩]
  | 0x2400 => [⟨1, .u64, .w1c, .either, 8, 0, false⟩, ⟨2, .u32, .rw, .host, 4, 0x0, false⟩,
      ⟨3, .u32, .rw, .mgmt, 4, 0x0, false⟩, ⟨4, .blob, .ro, .host, 48, 0, false⟩,
      ⟨5, .blob, .ro, .mgmt, 48, 0, false⟩]
  | 0x2410 => [⟨1, .u32, .rw, .host, 4, 4096, false⟩, ⟨2, .u32, .rw, .host, 4, 4096, false⟩,
      ⟨3, .f32, .rw, .host, 4, 0x3d4ccccd, false⟩, ⟨4, .u32, .rw, .host, 4, 256, false⟩,
      ⟨5, .u64, .ro, .either, 8, 0, false⟩, ⟨6, .u64, .ro, .either, 8, 0, false⟩,
      ⟨7, .u64, .ro, .either, 8, 0, false⟩, ⟨8, .u64, .ro, .either, 8, 0, false⟩,
      ⟨9, .u64, .ro, .either, 8, 0, false⟩, ⟨10, .u64, .ro, .either, 8, 0, false⟩]
  | 0x2800 => [⟨1, .u64, .rwl, .host, 8, 0, false⟩, ⟨2, .u32, .rwl, .host, 4, 0, false⟩,
      ⟨3, .bool, .rw, .host, 1, 0, false⟩, ⟨4, .f32, .rw, .host, 4, 0x40000000, false⟩,
      ⟨5, .f32, .rw, .host, 4, 0x3f800000, false⟩, ⟨6, .u64, .ro, .either, 8, 0, false⟩,
      ⟨7, .u64, .ro, .either, 8, 0, false⟩, ⟨8, .u64, .ro, .either, 8, 0, false⟩,
      ⟨9, .u64, .ro, .either, 8, 0, false⟩, ⟨10, .u64, .ro, .either, 8, 0, false⟩]
  | 0x3000 => [⟨1, .u64, .rwl, .host, 8, 0, false⟩, ⟨2, .u32, .rwl, .host, 4, 0, false⟩,
      ⟨3, .bool, .rw, .host, 1, 0, false⟩, ⟨4, .u32, .wo, .host, 4, 0, false⟩,
      ⟨5, .u64, .rw, .either, 8, 0xFFFFFFFFFFFFFFFF, true⟩,
      ⟨6, .u64, .rw, .either, 8, 0xFFFFFFFFFFFFFFFF, true⟩,
      ⟨7, .u64, .rw, .either, 8, 0xFFFFFFFFFFFFFFFF, true⟩,
      ⟨8, .u64, .rw, .either, 8, 0xFFFFFFFFFFFFFFFF, true⟩,
      ⟨9, .u64, .rw, .either, 8, 0xFFFFFFFFFFFFFFFF, true⟩, ⟨10, .u64, .ro, .either, 8, 0, false⟩,
      ⟨11, .u64, .ro, .either, 8, 0, false⟩, ⟨12, .u64, .ro, .either, 8, 0, false⟩,
      ⟨13, .u64, .ro, .either, 8, 0, false⟩, ⟨14, .u64, .ro, .either, 8, 0, false⟩,
      ⟨16, .u64, .rw, .host, 8, 0, true⟩, ⟨17, .u64, .rw, .host, 8, 0, true⟩,
      ⟨18, .u64, .rw, .host, 8, 0, true⟩, ⟨19, .u64, .rw, .host, 8, 0, true⟩,
      ⟨20, .u32, .rw, .either, 4, 0, true⟩, ⟨21, .u32, .rw, .either, 4, 65536, true⟩,
      ⟨22, .u64, .ro, .either, 8, 0, false⟩, ⟨23, .u64, .ro, .either, 8, 0, false⟩,
      ⟨24, .u32, .ro, .either, 4, 0, false⟩, ⟨25, .u64, .ro, .either, 8, 0, false⟩,
      ⟨26, .u64, .ro, .either, 8, 0, false⟩]
  | 0x3040 => [⟨1, .u64, .ro, .either, 8, 0, false⟩, ⟨2, .u64, .ro, .either, 8, 0, false⟩]
  | 0x3400 => [⟨1, .bool, .rw, .mgmt, 1, 1, false⟩, ⟨2, .u32, .rw, .mgmt, 4, 86400, false⟩,
      ⟨3, .u32, .rw, .mgmt, 4, 1024, false⟩, ⟨4, .blob, .ro, .mgmt, 512, 0, false⟩,
      ⟨5, .u8, .ro, .mgmt, 1, 0, false⟩, ⟨6, .bool, .wo, .mgmt, 1, 0, false⟩]
  | 0x3800 => [⟨1, .u64, .rw, .host, 8, 0, false⟩, ⟨2, .f32, .rw, .host, 4, 0x0, false⟩,
      ⟨3, .f32, .rw, .host, 4, 0x7f7fffff, false⟩, ⟨4, .bool, .rw, .host, 1, 0, false⟩,
      ⟨5, .u64, .rw, .host, 8, 0, false⟩]
  | 0x3810 => [⟨1, .u64, .ro, .either, 8, 0, false⟩, ⟨2, .u64, .ro, .either, 8, 0, false⟩,
      ⟨3, .u64, .ro, .either, 8, 0, false⟩, ⟨4, .u64, .ro, .either, 8, 0, false⟩,
      ⟨5, .u64, .ro, .either, 8, 0, false⟩, ⟨6, .u64, .ro, .either, 8, 0, false⟩]
  | 0x3820 => [⟨1, .u8, .rw, .host, 1, 4, false⟩, ⟨2, .u16, .rw, .host, 2, 32, false⟩,
      ⟨3, .u64, .ro, .either, 8, 0, false⟩, ⟨4, .u64, .ro, .either, 8, 0, false⟩,
      ⟨5, .u64, .ro, .either, 8, 0, false⟩, ⟨6, .u64, .ro, .either, 8, 0, false⟩,
      ⟨7, .u64, .ro, .either, 8, 0, false⟩, ⟨8, .u64, .ro, .either, 8, 0, false⟩]
  | 0x4000 => [⟨1, .u64, .rwl, .host, 8, 0, false⟩, ⟨2, .u32, .rwl, .host, 4, 64, false⟩,
      ⟨3, .u64, .rwl, .host, 8, 0, false⟩, ⟨4, .u64, .rwl, .host, 8, 0, false⟩,
      ⟨5, .u8, .rwl, .host, 1, 0xff, true⟩, ⟨6, .u8, .rwl, .host, 1, 0, false⟩,
      ⟨7, .bool, .rw, .host, 1, 0, false⟩, ⟨8, .u8, .ro, .either, 1, 0, false⟩,
      ⟨9, .u64, .ro, .either, 8, 0, false⟩, ⟨10, .u64, .ro, .either, 8, 0, false⟩,
      ⟨11, .u8, .ro, .either, 1, 0x0, false⟩, ⟨12, .u16, .ro, .either, 2, 0, false⟩]
  | 0x4040 => [⟨1, .u64, .rwl, .host, 8, 0, false⟩, ⟨2, .u32, .rwl, .host, 4, 64, false⟩,
      ⟨3, .u64, .rwl, .host, 8, 0, false⟩, ⟨4, .u8, .rwl, .host, 1, 0xff, true⟩,
      ⟨5, .u16, .rwl, .host, 2, 0xffff, false⟩, ⟨6, .u16, .rw, .host, 2, 1, false⟩,
      ⟨7, .u32, .rw, .host, 4, 0, false⟩, ⟨8, .bool, .rw, .host, 1, 0, false⟩,
      ⟨9, .u64, .ro, .either, 8, 0, false⟩, ⟨10, .u64, .ro, .either, 8, 0, false⟩]
  | 0x4080 => [⟨1, .u64, .rwl, .host, 8, 0, false⟩, ⟨2, .u32, .rwl, .host, 4, 0, false⟩,
      ⟨3, .u8, .rw, .host, 1, 0xff, false⟩]
  | 0x4090 => [⟨1, .u8, .rw, .host, 1, 0xff, true⟩]
  | 0x4800 => [⟨1, .u8, .ro, .either, 1, 0, false⟩, ⟨2, .u8, .ro, .either, 1, 0, false⟩,
      ⟨3, .u8, .ro, .either, 1, 0, false⟩, ⟨4, .u64, .ro, .either, 8, 0, false⟩,
      ⟨5, .u32, .rw, .host, 4, 50000000, true⟩, ⟨6, .u64, .ro, .either, 8, 0, false⟩,
      ⟨7, .u64, .ro, .either, 8, 0, false⟩, ⟨8, .u64, .ro, .either, 8, 0, false⟩]
  | 0x4810 => [⟨1, .u8, .rwl, .host, 1, 0xff, true⟩, ⟨2, .u64, .rwl, .host, 8, 0, true⟩,
      ⟨3, .u64, .rwl, .host, 8, 0, true⟩, ⟨4, .bool, .rw, .host, 1, 0, true⟩,
      ⟨5, .u64, .ro, .either, 8, 0, false⟩, ⟨6, .u64, .ro, .either, 8, 0, false⟩]
  | 0x4820 => [⟨1, .u8, .rwl, .host, 1, 0x1, true⟩, ⟨2, .u8, .rwl, .host, 1, 0xff, true⟩,
      ⟨3, .u64, .rwl, .host, 8, 0, true⟩, ⟨4, .u32, .rw, .host, 4, 10000000, true⟩,
      ⟨5, .u32, .rw, .host, 4, 10000000, true⟩, ⟨6, .bool, .rw, .host, 1, 0, true⟩,
      ⟨7, .u8, .ro, .either, 1, 0x0, false⟩, ⟨8, .u64, .ro, .either, 8, 0, false⟩,
      ⟨9, .u64, .ro, .either, 8, 0, false⟩, ⟨10, .u64, .ro, .either, 8, 0, false⟩,
      ⟨11, .u64, .ro, .either, 8, 0, false⟩, ⟨12, .u64, .ro, .either, 8, 0, false⟩,
      ⟨13, .u64, .ro, .either, 8, 0, false⟩]
  | 0x48F0 => [⟨1, .bool, .wo, .either, 1, 0, false⟩]
  | 0x5000 => [⟨1, .bool, .rw, .either, 1, 0, true⟩, ⟨2, .u8, .rwl, .either, 1, 1, true⟩,
      ⟨3, .u8, .rwl, .either, 1, 8, true⟩, ⟨4, .u32, .rw, .either, 4, 1000000, true⟩,
      ⟨5, .blob, .rw, .either, 128, 0x8000000000000000, true⟩, ⟨6, .u8, .rw, .either, 1, 0x3, true⟩,
      ⟨7, .u16, .rw, .either, 2, 1, true⟩, ⟨8, .u16, .rw, .either, 2, 0x0, true⟩,
      ⟨9, .u16, .rw, .either, 2, 0xffff, true⟩, ⟨10, .blob, .rw, .either, 16, 0, true⟩,
      ⟨11, .bool, .wo, .either, 1, 0, true⟩, ⟨12, .bool, .wo, .either, 1, 0, true⟩,
      ⟨13, .bool, .wo, .either, 1, 0, true⟩, ⟨14, .u8, .ro, .either, 1, 0, false⟩,
      ⟨15, .u64, .ro, .either, 8, 0, false⟩, ⟨16, .u64, .ro, .either, 8, 0, false⟩,
      ⟨17, .u64, .ro, .either, 8, 0, false⟩, ⟨18, .u64, .ro, .either, 8, 0, false⟩,
      ⟨19, .u64, .ro, .either, 8, 0, false⟩, ⟨20, .u32, .rw, .host, 4, 0, false⟩,
      ⟨21, .u32, .rw, .mgmt, 4, 0, false⟩, ⟨22, .blob, .ro, .host, 128, 0, false⟩,
      ⟨23, .blob, .ro, .mgmt, 128, 0, false⟩]
  | 0x5010 => [⟨1, .bool, .rw, .host, 1, 1, false⟩]
  | 0x50F0 => [⟨1, .bool, .wo, .either, 1, 0, false⟩]
  | 0x6000 => [⟨1, .u8, .ro, .either, 1, 0, false⟩, ⟨2, .u8, .ro, .either, 1, 0, false⟩,
      ⟨3, .f32, .ro, .either, 4, 0x0, false⟩, ⟨4, .f32, .ro, .either, 4, 0x0, false⟩,
      ⟨5, .u64, .ro, .either, 8, 0, false⟩, ⟨6, .u64, .ro, .either, 8, 0, false⟩,
      ⟨7, .bool, .rw, .either, 1, 0, false⟩]
  | 0x6010 => [⟨1, .u16, .ro, .either, 2, 0, false⟩, ⟨2, .u16, .ro, .either, 2, 0, false⟩,
      ⟨3, .u64, .ro, .either, 8, 0, false⟩, ⟨4, .u64, .ro, .either, 8, 0, false⟩]
  | 0x6030 => [⟨1, .u64, .ro, .either, 8, 0, false⟩, ⟨2, .u64, .ro, .either, 8, 0, false⟩,
      ⟨3, .u64, .ro, .either, 8, 0, false⟩, ⟨4, .u64, .ro, .either, 8, 0, false⟩,
      ⟨5, .u64, .ro, .either, 8, 0, false⟩, ⟨6, .u64, .ro, .either, 8, 0, false⟩,
      ⟨7, .u64, .ro, .either, 8, 0, false⟩, ⟨8, .u64, .ro, .either, 8, 0, false⟩,
      ⟨9, .u64, .ro, .either, 8, 0, false⟩, ⟨10, .u16, .rw, .mgmt, 2, 0, false⟩,
      ⟨11, .u8, .ro, .either, 1, 0, false⟩] ++
      (List.range 9).map fun k => ⟨0x10 + k, .u32, .ro, .either, 4, 0, false⟩
  | 0x6038 => [⟨1, .bool, .wo, .either, 1, 0, false⟩, ⟨2, .bool, .ro, .either, 1, 0, false⟩,
      ⟨3, .u64, .ro, .either, 8, 0, false⟩]
  | 0x6050 => [⟨1, .u64, .ro, .either, 8, 0, false⟩, ⟨2, .u64, .ro, .either, 8, 0, false⟩,
      ⟨3, .u64, .ro, .either, 8, 0, false⟩, ⟨4, .u64, .ro, .either, 8, 0, false⟩,
      ⟨5, .u64, .ro, .either, 8, 0, false⟩, ⟨6, .u64, .ro, .either, 8, 0, false⟩,
      ⟨7, .u64, .ro, .either, 8, 0, false⟩, ⟨8, .u64, .ro, .either, 8, 0, false⟩]
  | _ => []

/-- The instances of the indices of R315: first index, stride, count. -/
def objClass (index : Nat) : Option (Nat × Nat) :=
  let single := [0x1000, 0x1010, 0x1100, 0x1101, 0x1102, 0x1103, 0x1108, 0x1200, 0x1400, 0x1401, 0x2000,
    0x2010, 0x2400, 0x3400, 0x4090, 0x4800, 0x4810, 0x4820, 0x48F0, 0x5000, 0x50F0]
  let perPart := [0x1800, 0x2410, 0x2800, 0x3000, 0x3040, 0x3800, 0x3810, 0x3820, 0x4080, 0x5010]
  if single.contains index then some (index, 0)
  else
    match perPart.find? fun c => c ≤ index && index < c + 16 with
    | some c => some (c, index - c)
    | none =>
      if 0x4000 ≤ index ∧ index < 0x4040 then some (0x4000, index - 0x4000)
      else if 0x4040 ≤ index ∧ index < 0x4080 then some (0x4040, index - 0x4040)
      else if 0x1410 ≤ index ∧ index < 0x1410 + 160 then some (0x1410, index - 0x1410)
      else if 0x6000 ≤ index ∧ index < 0x7000 ∧ [0x00, 0x10, 0x30, 0x38, 0x50].contains (index % 256) then
        some (0x6000 + index % 256, (index - 0x6000) / 256)
      else none

/-- Whether instances of a class are numbered by partition, or by bay (R318). -/
def classPerPart (c : Nat) : Bool :=
  [0x1800, 0x2410, 0x2800, 0x3000, 0x3040, 0x3800, 0x3810, 0x3820, 0x4080, 0x5010].contains c

def classPerBay (c : Nat) : Bool := decide (0x6000 ≤ c)

/-- The row of an object. -/
def objRow (index sub : Nat) : Option ObjRow :=
  match objClass index with
  | some (c, _) => (objRows c).find? fun r => r.sub == sub
  | none => none

/-- The highest subindex assigned at an index, which subindex 0 holds (R311). -/
def topSub (index : Nat) : Nat :=
  match objClass index with
  | some (c, _) => (objRows c).foldl (fun a r => max a r.sub) 0
  | none => 0

/-- The key of an object in `dict`: instance `i` of the object named by class and subindex. -/
def oKey (o i : Nat) : Nat :=
  let c := o / 256
  ((if c < 0x6000 then c + i else c + i * 256) * 256) + o % 256

/-- Objects by name, as class × 256 + subindex. -/
def O.VENDOR : Nat := 0x100001
def O.PRODUCT : Nat := 0x100002
def O.PART_NUMBER : Nat := 0x100003
def O.STEPPING : Nat := 0x100004
def O.STEPPING_CODE : Nat := 0x100005
def O.SERIAL : Nat := 0x100006
def O.EUI48 : Nat := 0x100007
def O.SLOT_ID : Nat := 0x100008
def O.DICT_VERSION : Nat := 0x100009
def O.ROM_VERSION : Nat := 0x10000A
def O.FW_VERSION : Nat := 0x10000B
def O.MODULE_TIME : Nat := 0x10000C
def O.FLD_ENABLE : Nat := 0x101001
def O.FLD_PORT : Nat := 0x101002
def O.MGMT_PEER : Nat := 0x101003
def O.PLCA_NODE : Nat := 0x101004
def O.FLD_RESET : Nat := 0x101005
def O.FLD_LINK : Nat := 0x101006
def O.FLD_RX : Nat := 0x101007
def O.FLD_TX : Nat := 0x101008
def O.FLD_DISCARDS : Nat := 0x101009
def O.NOTICES_LOST : Nat := 0x10100A
def O.DUPLICATES : Nat := 0x10100B
def O.MODULE_STATE : Nat := 0x110001
def O.STANDBY : Nat := 0x110002
def O.STANDBY_DRAIN : Nat := 0x110003
def O.INPUT_VOLTAGE : Nat := 0x110004
def O.INPUT_CURRENT : Nat := 0x110005
def O.INPUT_POWER : Nat := 0x110006
def O.ENERGY : Nat := 0x110007
def O.JUNCTION : Nat := 0x110008
def O.COOLANT_IN : Nat := 0x110009
def O.COOLANT_OUT : Nat := 0x11000A
def O.POWER_CAP : Nat := 0x110010
def O.CAP_EFFECTIVE : Nat := 0x110011
def O.THERMAL_CAP : Nat := 0x110012
def O.THROTTLE_LEVEL : Nat := 0x110013
def O.THROTTLE_NS : Nat := 0x110014
def O.T_THROTTLE : Nat := 0x110015
def O.SHUTDOWN_CAUSE : Nat := 0x110016
def O.ALERT_CAUSE : Nat := 0x110017
def O.SHUTDOWNS : Nat := 0x110018
def O.BAY_SLEEP_AFTER : Nat := 0x110019
def O.BAY_OFF_AFTER : Nat := 0x11001A
def O.RULES : Nat := 0x110801
def O.RULE_FIRED : Nat := 0x110802
def O.RULE_ACTIVE : Nat := 0x110803
def O.FILTER : Nat := 0x110804
def O.A_CLOCK_HZ : Nat := 0x120001
def O.NET_CLOCK_HZ : Nat := 0x120002
def O.PLL_LOCK : Nat := 0x120003
def O.PLL_UNLOCKS : Nat := 0x120004
def O.START_STAGE : Nat := 0x140001
def O.START_RESULT : Nat := 0x140002
def O.STARTS : Nat := 0x140003
def O.FW_SOURCE : Nat := 0x140004
def O.FW_BYTES : Nat := 0x140005
def O.FW_LOAD : Nat := 0x140006
def O.ARM_ERR_LIMIT : Nat := 0x140007
def O.MEM_ERR_LIMIT : Nat := 0x140008
def O.TILE_WATCHDOG : Nat := 0x140009
def O.FENCE_TILE : Nat := 0x14000A
def O.TILES_FENCED : Nat := 0x14000B
def O.HOLE_MAP_LO : Nat := 0x14000C
def O.FENCE_DROPS : Nat := 0x14000D
def O.CLEAR_PRIOR : Nat := 0x14000E
def O.HOLE_MAP_HI : Nat := 0x14000F
def O.SLOT_MAP : Nat := 0x141001
def O.P_BAYS : Nat := 0x180001
def O.P_CONFIDENTIAL : Nat := 0x180002
def O.P_STATE : Nat := 0x180003
def O.P_SESSION : Nat := 0x180004
def O.SR_SEED : Nat := 0x180005
def O.BOUNCE_ENABLE : Nat := 0x180006
def O.KEM_CT_LO : Nat := 0x180007
def O.KEM_CT_HI : Nat := 0x180008
def O.KEY_CONFIRM : Nat := 0x180009
def O.ATTEST_NONCE : Nat := 0x18000A
def O.ATTEST_DEST : Nat := 0x18000B
def O.ATTEST : Nat := 0x18000C
def O.BOUNCE_SEQ : Nat := 0x18000D
def O.BOUNCE_TAG_FAILS : Nat := 0x18000E
def O.P_RESET : Nat := 0x18000F
def O.VENDOR_KEY_HASH : Nat := 0x200001
def O.IDENTITY_KEY_HASH : Nat := 0x200002
def O.ROM_MEASUREMENT : Nat := 0x200003
def O.FW_MEASUREMENT : Nat := 0x200004
def O.FW_SVN : Nat := 0x200005
def O.MIN_SVN : Nat := 0x200006
def O.TRNG_STATE : Nat := 0x200007
def O.TRNG_FAILS : Nat := 0x200008
def O.PAIR_PEER_ID : Nat := 0x200009
def O.PT_SELECT : Nat := 0x201001
def O.PT_BAYS : Nat := 0x201002
def O.PT_CONFIDENTIAL : Nat := 0x201003
def O.PT_CREATE : Nat := 0x201004
def O.PT_DELETE : Nat := 0x201005
def O.PT_EXISTS : Nat := 0x201006
def O.BAY_OWNER : Nat := 0x201007
def O.NUM_SUMMARY : Nat := 0x240001
def O.SELECT_HOST : Nat := 0x240002
def O.SELECT_MGMT : Nat := 0x240003
def O.ENGINE_NUM_HOST : Nat := 0x240004
def O.ENGINE_NUM_MGMT : Nat := 0x240005
def O.FB_CAST_LIMIT : Nat := 0x241001
def O.FB_OVF_LIMIT : Nat := 0x241002
def O.ALARM_FRACTION : Nat := 0x241003
def O.ALARM_MIN_PRODUCTS : Nat := 0x241004
def O.STEP_TALLY : Nat := 0x241005
def O.TRACKED_STEP : Nat := 0x241006
def O.FALLBACKS : Nat := 0x241007
def O.FALLBACKS_AT_VALIDATION : Nat := 0x241008
def O.RECIPE_ALARMS : Nat := 0x241009
def O.ALARM_STEP : Nat := 0x24100A
def O.SCALE_TABLE : Nat := 0x280001
def O.SCALE_ENTRIES : Nat := 0x280002
def O.SCALE_ENABLE : Nat := 0x280003
def O.MARGIN : Nat := 0x280004
def O.OUTLIER_TAU : Nat := 0x280005
def O.TWO_PASS_CASTS : Nat := 0x280006
def O.OUTLIER_SPILL : Nat := 0x280007
def O.ZERO_RANGE_CHANNELS : Nat := 0x280008
def O.SCALE_LOST : Nat := 0x280009
def O.UNSEEDED_FAULTS : Nat := 0x28000A
def O.PLACE_TABLE : Nat := 0x300001
def O.PLACE_ENTRIES : Nat := 0x300002
def O.PLACE_ENABLE : Nat := 0x300003
def O.PLACE_COMMIT : Nat := 0x300004
def O.Q_TILE : Nat := 0x300005
def O.Q_CLUSTER : Nat := 0x300006
def O.Q_LENT : Nat := 0x300007
def O.Q_MODULE : Nat := 0x300008
def O.Q_HOST : Nat := 0x300009
def O.U_TILE : Nat := 0x30000A
def O.U_CLUSTER : Nat := 0x30000B
def O.U_LENT : Nat := 0x30000C
def O.U_MODULE : Nat := 0x30000D
def O.U_HOST : Nat := 0x30000E
def O.HOST_WIN0_BASE : Nat := 0x300010
def O.HOST_WIN0_LEN : Nat := 0x300011
def O.HOST_WIN1_BASE : Nat := 0x300012
def O.HOST_WIN1_LEN : Nat := 0x300013
def O.PF_RATE : Nat := 0x300014
def O.PF_BURST : Nat := 0x300015
def O.PF_THROTTLED_NS : Nat := 0x300016
def O.MC_DROPS : Nat := 0x300017
def O.LENT_PIECES : Nat := 0x300018
def O.REVOKES : Nat := 0x300019
def O.REVOKE_BYTES : Nat := 0x30001A
def O.RECOMPUTES : Nat := 0x304001
def O.FETCHES_IN_TIME : Nat := 0x304002
def O.SCRUB_ENABLE : Nat := 0x340001
def O.SCRUB_PERIOD : Nat := 0x340002
def O.DIE_RETIRE_LIMIT : Nat := 0x340003
def O.ERROR_LOG : Nat := 0x340004
def O.ERROR_LOG_NEXT : Nat := 0x340005
def O.CLEAR_COUNTS : Nat := 0x340006
def O.STEP_COUNTER : Nat := 0x380001
def O.STEP_SIZE : Nat := 0x380002
def O.GLOBAL_CLIP_MAX : Nat := 0x380003
def O.NONFINITE_VETO : Nat := 0x380004
def O.LAYER_TABLE : Nat := 0x380005
def O.UPDATES : Nat := 0x381001
def O.STEP_SKEWS : Nat := 0x381002
def O.VETOES : Nat := 0x381003
def O.FROZEN_SKIPS : Nat := 0x381004
def O.FROZEN_NOOPS : Nat := 0x381005
def O.NONFINITE_SKIPS : Nat := 0x381006
def O.HEADROOM : Nat := 0x382001
def O.EXPORT_K : Nat := 0x382002
def O.REDUCES : Nat := 0x382003
def O.SCALE_RAISED_CMDS : Nat := 0x382004
def O.RAISED_BLOCKS : Nat := 0x382005
def O.RESIDUE_FAULTS : Nat := 0x382006
def O.NONFINITE_ELEMENTS : Nat := 0x382007
def O.EXPORTED_ENTRIES : Nat := 0x382008
def O.J_BASE : Nat := 0x400001
def O.J_SIZE : Nat := 0x400002
def O.J_CONTROL : Nat := 0x400003
def O.J_STATUS : Nat := 0x400004
def O.J_PARTITION : Nat := 0x400005
def O.J_RING : Nat := 0x400006
def O.J_ENABLE : Nat := 0x400007
def O.J_STATE : Nat := 0x400008
def O.J_CONSUMED : Nat := 0x400009
def O.J_COMPLETED : Nat := 0x40000A
def O.J_STOP_REASON : Nat := 0x40000B
def O.J_IN_FLIGHT : Nat := 0x40000C
def O.C_BASE : Nat := 0x404001
def O.C_SIZE : Nat := 0x404002
def O.C_CONSUMER : Nat := 0x404003
def O.C_PARTITION : Nat := 0x404004
def O.C_MSIX : Nat := 0x404005
def O.C_MOD_COUNT : Nat := 0x404006
def O.C_MOD_NS : Nat := 0x404007
def O.C_ENABLE : Nat := 0x404008
def O.C_WRITTEN : Nat := 0x404009
def O.C_STALLS : Nat := 0x40400A
def O.HANDLE_TABLE : Nat := 0x408001
def O.HANDLE_ENTRIES : Nat := 0x408002
def O.EVENT_RING : Nat := 0x408003
def O.MODULE_EVENT_RING : Nat := 0x409001
def O.LINK_STATE : Nat := 0x480001
def O.LINK_WIDTH : Nat := 0x480002
def O.LINK_SPEED : Nat := 0x480003
def O.LINK_DOWNS : Nat := 0x480004
def O.HOST_READ_TIMEOUT : Nat := 0x480005
def O.LINK_FAILS : Nat := 0x480006
def O.POISON_IN : Nat := 0x480007
def O.POISON_OUT : Nat := 0x480008
def O.HDM_PARTITION : Nat := 0x481001
def O.HDM_DEVICE_BASE : Nat := 0x481002
def O.HDM_SIZE : Nat := 0x481003
def O.HDM_ENABLE : Nat := 0x481004
def O.HDM_HOST_BASE : Nat := 0x481005
def O.HDM_DROPS : Nat := 0x481006
def O.PS_ROLE : Nat := 0x482001
def O.PS_PARTITION : Nat := 0x482002
def O.PS_PEER_BAR4 : Nat := 0x482003
def O.PS_LAG_BOUND : Nat := 0x482004
def O.PS_PEER_TIMEOUT : Nat := 0x482005
def O.PS_ENABLE : Nat := 0x482006
def O.PS_STATE : Nat := 0x482007
def O.PS_RECORDS_SENT : Nat := 0x482008
def O.PS_RECORDS_APPLIED : Nat := 0x482009
def O.PS_HOLD_NS : Nat := 0x48200A
def O.PS_RESYNC_LEFT : Nat := 0x48200B
def O.PS_LAST_SEAL : Nat := 0x48200C
def O.PS_REJECTS : Nat := 0x48200D
def O.PS_RESET : Nat := 0x48F001
def O.TRACE_ENABLE : Nat := 0x500001
def O.TR_MODE : Nat := 0x500002
def O.TR_POST : Nat := 0x500003
def O.TR_POST_NS : Nat := 0x500004
def O.TR_FILTER : Nat := 0x500005
def O.TR_KINDS : Nat := 0x500006
def O.TR_SAMPLE : Nat := 0x500007
def O.TR_LAYER_LO : Nat := 0x500008
def O.TR_LAYER_HI : Nat := 0x500009
def O.TR_TRIG : Nat := 0x50000A
def O.TR_FIRE : Nat := 0x50000B
def O.TR_FINISH : Nat := 0x50000C
def O.TR_RESTART : Nat := 0x50000D
def O.TR_STATE : Nat := 0x50000E
def O.TR_TRIG_TIME : Nat := 0x50000F
def O.TR_CAPTURED : Nat := 0x500010
def O.TR_DROPPED : Nat := 0x500011
def O.TR_SENT : Nat := 0x500012
def O.TR_FRAMES : Nat := 0x500013
def O.CTR_SELECT_HOST : Nat := 0x500014
def O.CTR_SELECT_MGMT : Nat := 0x500015
def O.CTR_VIEW_HOST : Nat := 0x500016
def O.CTR_VIEW_MGMT : Nat := 0x500017
def O.TR_CONSENT : Nat := 0x501001
def O.TRACE_RESET : Nat := 0x50F001
def O.BAY_STATE : Nat := 0x600001
def O.BAY_FAIL_CAUSE : Nat := 0x600002
def O.BAY_POWER : Nat := 0x600003
def O.BAY_TEMP : Nat := 0x600004
def O.BAY_WAKES : Nat := 0x600005
def O.DROOP_EVENTS : Nat := 0x600006
def O.BAY_OFF_OK : Nat := 0x600007
def O.DMA_OUTSTANDING : Nat := 0x601001
def O.DMA_QUEUES : Nat := 0x601002
def O.DMA_BYTES : Nat := 0x601003
def O.DEADLINE_MISSES : Nat := 0x601004
def O.MEM_CORRECTED : Nat := 0x603001
def O.MEM_UNCORRECTABLE : Nat := 0x603002
def O.TAG_FAILS : Nat := 0x603003
def O.SRAM_CORRECTED : Nat := 0x603004
def O.SRAM_UNCORRECTABLE : Nat := 0x603005
def O.SRAM_ADDRESS_ERRORS : Nat := 0x603006
def O.POISON_MOVES : Nat := 0x603007
def O.POISON_FAULTS : Nat := 0x603008
def O.SCRUB_PASSES : Nat := 0x603009
def O.DIE_RETIRED : Nat := 0x60300A
def O.KEY_EPOCH : Nat := 0x60300B
def O.UPD_RESET : Nat := 0x603801
def O.UPD_BUSY : Nat := 0x603802
def O.UPD_ELEMENTS : Nat := 0x603803
def O.TR_BAY_CAPTURED : Nat := 0x605008

end Sys2Proof.Machine
end

