-- ==== Sys2Proof/Machine/Ops.lean ====
section
/-! DEFINITION. The named operations every meaning is built from: sparse maps, numbers and bytes, the
objects of the dictionary, device addresses, memory with its carriers of poison, records, events and
notices, and what an engine keeps of the work it did. -/

namespace Sys2Proof.Machine

open Sys2Proof

/-- The outcome of a meaning on the module. -/
abbrev Res := Host.Outcome Mach Fault Refusal

/-! ### Sparse maps and sets -/

/-- The value at a key. -/
def mget {α : Type} : SMap α → Nat → Option α
  | [], _ => none
  | (k, v) :: r, x => if x = k then some v else if x < k then none else mget r x

/-- The map with a key set; the keys stay strictly rising. -/
def mset {α : Type} : SMap α → Nat → α → SMap α
  | [], x, v => [(x, v)]
  | (k, w) :: r, x, v =>
    if x = k then (k, v) :: r else if x < k then (x, v) :: (k, w) :: r else (k, w) :: mset r x v

/-- The map without a key. -/
def mdel {α : Type} : SMap α → Nat → SMap α
  | [], _ => []
  | (k, w) :: r, x => if x = k then r else if x < k then (k, w) :: r else (k, w) :: mdel r x

/-- The value at a key, or a default. -/
def mgetD {α : Type} (m : SMap α) (x : Nat) (d : α) : α := (mget m x).getD d

def smem : NSet → Nat → Bool
  | [], _ => false
  | k :: r, x => if x = k then true else if x < k then false else smem r x

def sadd : NSet → Nat → NSet
  | [], x => [x]
  | k :: r, x => if x = k then k :: r else if x < k then x :: k :: r else k :: sadd r x

def sdel : NSet → Nat → NSet
  | [], _ => []
  | k :: r, x => if x = k then r else if x < k then k :: r else k :: sdel r x

/-- A value put before the first one it may precede. -/
def insertBy {α : Type} (before : α → α → Bool) (x : α) : List α → List α
  | [] => [x]
  | y :: r => if before x y then x :: y :: r else y :: insertBy before x r

/-- A list in order, equals in the order they had. -/
def sortBy {α : Type} (before : α → α → Bool) (l : List α) : List α := l.foldr (insertBy before) []

/-- Bits set in a mask, ascending. -/
def bitsOf (n mask : Nat) : List Nat := (List.range n).filter fun b => mask.testBit b

def maskOf (s : List Nat) : Nat := s.foldl (fun a b => a ||| 2 ^ b) 0

/-! ### Numbers and bytes -/

/-- The bytes of a number, least significant first (R30). -/
def leBytes : Nat → Nat → Bytes
  | 0, _ => []
  | n + 1, x => BitVec.ofNat 8 x :: leBytes n (x / 256)

/-- The number a byte string holds, least significant byte first. -/
def leNat : Bytes → Nat
  | [] => 0
  | b :: r => b.toNat + 256 * leNat r

/-- `n` bytes at an offset, zeros beyond the end. -/
def bytesAt (b : Bytes) (o n : Nat) : Bytes := (List.range n).map fun i => b.getD (o + i) 0

/-- A little-endian field of `n` bytes at an offset. -/
def fld (b : Bytes) (o n : Nat) : Nat := leNat (bytesAt b o n)

/-- Bits `lo` to `lo + n − 1` of a number. -/
def bits (x lo n : Nat) : Nat := x / 2 ^ lo % 2 ^ n

def zerosB (n : Nat) : Bytes := List.replicate n 0

/-- Overwrite `n` bytes of a byte string. -/
def patch (b : Bytes) (o : Nat) (v : Bytes) : Bytes :=
  b.take o ++ v ++ b.drop (o + v.length)

def asciiBytes (s : String) : Bytes := s.toList.map fun c => BitVec.ofNat 8 c.toNat

def ceilDiv (a b : Nat) : Nat := (a + b - 1) / b

/-- A two's-complement field of `n` bits. -/
def toSigned (n x : Nat) : Int := if x < 2 ^ (n - 1) then (x : Int) else (x : Int) - (2 ^ n : Nat)
def ofSigned (n : Nat) (x : Int) : Nat := (x % (2 ^ n : Nat)).toNat

/-! ### Objects -/

/-- An object's value: what `dict` holds, else its default. -/
def Mach.objAt (m : Mach) (index sub : Nat) : Nat :=
  match mget m.dict (index * 256 + sub) with
  | some v => v
  | none => ((objRow index sub).map (·.default)).getD 0

/-- An object by name and instance. -/
def Mach.obj (m : Mach) (o i : Nat) : Nat :=
  let k := oKey o i
  m.objAt (k / 256) (k % 256)

def Mach.setObjAt (m : Mach) (index sub v : Nat) : Mach :=
  let d := ((objRow index sub).map (·.default)).getD 0
  let k := index * 256 + sub
  { m with dict := if v = d then mdel m.dict k else mset m.dict k v }

def Mach.setObj (m : Mach) (o i v : Nat) : Mach :=
  let k := oKey o i
  m.setObjAt (k / 256) (k % 256) v

/-- A counter raised by `n`; it stops at the largest value of its size. -/
def Mach.bump (m : Mach) (o i n : Nat) : Mach :=
  let k := oKey o i
  let size := ((objRow (k / 256) (k % 256)).map (·.size)).getD 8
  m.setObj o i (min (m.obj o i + n) (2 ^ (8 * size) - 1))

/-- Every object of an index back to its default. -/
def Mach.defaultIndex (m : Mach) (index : Nat) : Mach :=
  { m with dict := m.dict.filter fun e => e.1 / 256 != index }

/-! ### Free values and draws -/

/-- A value the spec does not state: an opaque constant at the next count (log entry 2). -/
def Mach.free (m : Mach) : Nat × Mach :=
  ((Config.freeValue m.freeCount).toNat, { m with freeCount := m.freeCount + 1 })

/-- The module is in RUN: below it only the plinth, or the start, acts (R28, R410). -/
def Mach.inRun (m : Mach) : Bool := m.modState == .run

/-- Module time brought to a time or past it: it advances by 10 ns in RUN and by 125 ns outside it (R391, R393). -/
def Mach.upTo (m : Mach) (t : Nat) : Mach :=
  let g := if m.inRun then 10 else 125
  { m with now := m.now + ceilDiv (t - m.now) g * g }

/-- The next draw of the TRNG, by its number (R373). -/
def Mach.drawNo (m : Mach) : Nat × Mach := (m.drawCount, { m with drawCount := m.drawCount + 1 })

/-! ### Parts of the state by number -/

def Mach.bay (m : Mach) (b : Nat) : Bay := mgetD m.bays b .reset
def Mach.setBay (m : Mach) (b : Nat) (v : Bay) : Mach := { m with bays := mset m.bays b v }
def Mach.part (m : Mach) (p : Nat) : Partition := mgetD m.parts p .reset
def Mach.setPart (m : Mach) (p : Nat) (v : Partition) : Mach := { m with parts := mset m.parts p v }
def Mach.journal (m : Mach) (j : Nat) : Journal := mgetD m.journals j .reset
def Mach.setJournal (m : Mach) (j : Nat) (v : Journal) : Mach := { m with journals := mset m.journals j v }
def Mach.ringOf (m : Mach) (r : Nat) : Ring := mgetD m.rings r .reset
def Mach.setRing (m : Mach) (r : Nat) (v : Ring) : Mach := { m with rings := mset m.rings r v }
def Mach.engine (m : Mach) (e : Nat) : Engine := mgetD m.engines e .reset
def Mach.setEngine (m : Mach) (e : Nat) (v : Engine) : Mach := { m with engines := mset m.engines e v }
def Mach.mailbox (m : Mach) (f : Nat) : Mailbox := mgetD m.mailboxes f .reset
def Mach.setMailbox (m : Mach) (f : Nat) (v : Mailbox) : Mach := { m with mailboxes := mset m.mailboxes f v }

def Partition.exists_ (p : Partition) : Bool := p.state != .absent

/-- The partition that holds a bay (R369). -/
def Mach.bayPart (m : Mach) (b : Nat) : Option Nat :=
  ((List.range 16).find? fun p => smem (m.part p).bays b)

/-! ### Engine identifiers (R10 to R12) -/

def tileEngine (tile kind : Nat) : Nat :=
  tile / 640 * 2 ^ 20 + tile / 64 % 10 * 2 ^ 16 + tile % 64 * 2 ^ 8 + kind
def wideEngine (cluster : Nat) : Nat := cluster / 10 * 2 ^ 20 + cluster % 10 * 2 ^ 16 + 0xFF04
def bayEngine (bay kind : Nat) : Nat := bay * 2 ^ 20 + 0xFFF00 + kind

/-- R12: whether an identifier names an engine. -/
def engineOk (e : Nat) : Bool :=
  let k := e % 256
  let t := e / 256 % 256
  let c := e / 2 ^ 16 % 16
  decide (e < 2 ^ 24) &&
    (if k ≤ 3 then decide (c < 10 ∧ t < 64)
     else if k = 4 then decide (c < 10 ∧ t = 0xFF)
     else decide (k ≤ 7 ∧ c = 0xF ∧ t = 0xFF))

def engineBay (e : Nat) : Nat := e / 2 ^ 20
def engineCluster (e : Nat) : Nat := e / 2 ^ 20 * 10 + e / 2 ^ 16 % 16
def engineTile (e : Nat) : Nat := engineCluster e * 64 + e / 256 % 256
def engineKind (e : Nat) : Nat := e % 256

/-! ### Device addresses (R256, R257) -/

/-- The tiers a device address can name. -/
inductive Tier where
  | module | cluster | tile | host
  deriving DecidableEq, Repr

/-- The tier of a legal address; none where R257 refuses it. -/
def tierOf (a : Nat) : Option Tier :=
  let t := a / 2 ^ 56
  let r := a % 2 ^ 56
  if a ≥ 2 ^ 64 then none
  else if t = 0 then (if r < 2 ^ 40 then some .module else none)
  else if t = 1 then (if r < 160 * 2 ^ 21 then some .cluster else none)
  else if t = 2 then (if r < 10240 * 2 ^ 18 ∧ r % 2 ^ 18 < 196608 then some .tile else none)
  else if t = 0x80 then some .host
  else none

def addrBay (a : Nat) : Nat :=
  match tierOf a with
  | some .module => a / 2 ^ 36
  | some .cluster => a % 2 ^ 56 / 2 ^ 21 / 10
  | some .tile => a % 2 ^ 56 / 2 ^ 18 / 640
  | _ => 0

/-- The unit of storage an address lies in: package, cluster or tile. -/
def addrUnit (a : Nat) : Nat :=
  match tierOf a with
  | some .module => a / 2 ^ 36
  | some .cluster => a % 2 ^ 56 / 2 ^ 21
  | some .tile => a % 2 ^ 56 / 2 ^ 18
  | _ => 0

/-- The offset of an address in its unit, and the size of a unit. -/
def addrOff (a : Nat) : Nat :=
  match tierOf a with
  | some .module => a % 2 ^ 36
  | some .cluster => a % 2 ^ 21
  | some .tile => a % 2 ^ 18
  | _ => a % 2 ^ 56

def Tier.size : Tier → Nat
  | .module => 2 ^ 36 | .cluster => 2 ^ 21 | .tile => 196608 | .host => 2 ^ 56

def hostBase : Nat := 0x80 * 2 ^ 56
def clusterAddr (c o : Nat) : Nat := 2 ^ 56 + c * 2 ^ 21 + o
def tileAddr (t o : Nat) : Nat := 2 * 2 ^ 56 + t * 2 ^ 18 + o

/-- Bytes from an address to the end of its unit. -/
def roomAt (a : Nat) : Nat :=
  match tierOf a with
  | some t => t.size - addrOff a
  | none => 0

/-- Whether trace holds the trace regions (R453). -/
def Mach.traceOn (m : Mach) : Bool := m.obj O.TRACE_ENABLE 0 == 1

/-- A trace region holds the last 512 KiB of the stores of clusters-in-bay 0 to 7 while tracing. A range of
cluster store runs on from one cluster into the next. -/
def inTraceRegion (a len : Nat) : Bool :=
  match tierOf a with
  | some .cluster =>
    let lo := a % 2 ^ 56
    let first := lo / 2 ^ 21
    (List.range ((lo + len - 1) / 2 ^ 21 + 1 - first)).any fun i =>
      let u := first + i
      decide (u % 10 < 8 ∧ lo < (u + 1) * 2 ^ 21 ∧ u * 2 ^ 21 + 0x180000 < lo + len)
  | _ => false

/-- The host windows of a partition: base and length (R257, R282). -/
def Mach.hostWindows (m : Mach) (p : Nat) : List (Nat × Nat) :=
  [(m.obj O.HOST_WIN0_BASE p, m.obj O.HOST_WIN0_LEN p), (m.obj O.HOST_WIN1_BASE p, m.obj O.HOST_WIN1_LEN p)]

/-- Whether the addresses of a range of module memory or cluster store, which run on from one package or
cluster into the next (R256), lie in bays of a partition. -/
def inBays (bays : NSet) (a len size per : Nat) : Bool :=
  let first := a % 2 ^ 56 / size
  let last := (a % 2 ^ 56 + len - 1) / size
  decide (last < 16 * per) && (List.range (last / per + 1 - first / per)).all fun i => smem bays (first / per + i)

/-- Whether `len` bytes at an address belong to a partition (R257): each of them in one of its bays, or all
within one of its host windows. -/
def Mach.belongs (m : Mach) (p a len : Nat) : Bool :=
  match tierOf a with
  | some .host =>
    (m.hostWindows p).any fun w => w.1 ≤ addrOff a && addrOff a + len ≤ w.1 + w.2
  | some .tile => smem (m.part p).bays (addrBay a) && decide (addrOff a + len ≤ 196608)
  | some .cluster => inBays (m.part p).bays a (max 1 len) (2 ^ 21) 10 && !(m.traceOn && inTraceRegion a (max 1 len))
  | some .module => inBays (m.part p).bays a (max 1 len) (2 ^ 36) 1
  | none => false

/-- Whether the first byte belongs, for the ranges R195 tests at their two ends. -/
def Mach.belongs1 (m : Mach) (p a : Nat) : Bool := m.belongs p a 1

def rangesOverlap (a n b k : Nat) : Bool := decide (a < b + k ∧ b < a + n ∧ 0 < n ∧ 0 < k)

/-! ### Memory cells -/

/-- A byte of memory; an unlisted one is zero (R288, R295, R296; host memory by log entry 9). -/
def Memory.get : List Host.Cell → Nat → Byte
  | [], _ => 0
  | (k, v) :: r, x => if x = k then v else if x < k then 0 else Memory.get r x

/-- Memory with one byte set, in canonical form. -/
def Memory.set : List Host.Cell → Nat → Byte → List Host.Cell
  | [], x, v => if v = 0 then [] else [(x, v)]
  | (k, w) :: r, x, v =>
    if x = k then (if v = 0 then r else (k, v) :: r)
    else if x < k then (if v = 0 then (k, w) :: r else (x, v) :: (k, w) :: r)
    else (k, w) :: Memory.set r x v

/-- Memory with consecutive bytes set. -/
def Memory.setAll : List Host.Cell → Nat → Bytes → List Host.Cell
  | m, _, [] => m
  | m, a, b :: r => Memory.setAll (Memory.set m a b) (a + 1) r

/-- Addresses strictly rising, from a bound, and no zero entry. -/
def Memory.sortedFrom : Nat → List Host.Cell → Bool
  | _, [] => true
  | lo, (k, v) :: r => decide (lo ≤ k) && v != 0 && Memory.sortedFrom (k + 1) r

/-- The canonical form of memory. -/
def Memory.wf (m : List Host.Cell) : Bool := Memory.sortedFrom 0 m

/-! ### Carriers (R288, R293, R295, R302) -/

def lineOf (a : Nat) : Nat := a / 256
def sectorOf (a : Nat) : Nat := a / 32

/-- A line never written in this model carries epoch 0: blank (R296). -/
def Mach.lineMeta (m : Mach) (l : Nat) : LineMeta := mgetD m.lines l ⟨0, 0x60, 0⟩

/-- The session key a line written now is sealed under: that of its bay's partition (R294). -/
def Mach.lineKey (m : Mach) (l : Nat) : Nat :=
  match m.bayPart (l / 2 ^ 28) with
  | some p => (m.part p).keys.getD 0
  | none => 0

def Mach.epochOf (m : Mach) (l : Nat) : Nat := (m.bay (l / 2 ^ 28)).epoch

/-- Whether a line holds data of the current session, as its reader sees it (R295, R299). -/
def Mach.lineLive (m : Mach) (l : Nat) : Bool :=
  (m.lineMeta l).epoch != 0 && (m.lineMeta l).epoch == m.epochOf l &&
    mget m.writeBacks l != some .blank

/-- Whether a line reads poisoned: marked, or found uncorrectable and waiting to be marked (R299). -/
def Mach.linePoisoned (m : Mach) (l : Nat) : Bool :=
  mget m.writeBacks l == some .poison || (m.lineLive l && decide ((m.lineMeta l).state ≥ 128))

/-- The lent piece a module-memory address is held in, if any (R265). -/
def Mach.lentAt (m : Mach) (a : Nat) : Option Lent :=
  m.lent.find? fun l => l.home == a / 32768 * 32768

def Lent.addr (l : Lent) (a : Nat) : Nat := tileAddr l.tile (l.piece * 32768 + a % 32768)

/-- Whether a tile is a hole: never mapped, or fenced (R431, R439). -/
def Mach.isHole (m : Mach) (t : Nat) : Bool := smem m.start.holes t

/-- Whether an SRAM sector reads poisoned: its P bit with V set, or its tile is a hole (R288, R439). -/
def Mach.sectorPoisoned (m : Mach) (s : Nat) : Bool :=
  (decide (s / 2 ^ 51 = 2) && m.isHole (s % 2 ^ 51 / 2 ^ 13)) || (smem m.valid s && smem m.poison s)

/-- Where the byte at an address is held: its lent piece where the sector is present there. -/
def Mach.homeOf (m : Mach) (a : Nat) : Nat :=
  match m.lentAt a with
  | some l => if smem l.present (a % 32768 / 32) then l.addr a else a
  | none => a

/-- Whether the carrier of the byte at an address is poisoned. -/
def Mach.bytePoisoned (m : Mach) (a : Nat) : Bool :=
  let h := m.homeOf a
  match h / 2 ^ 56 with
  | 0 => m.linePoisoned (lineOf h)
  | 0x80 => smem m.hostPoison (sectorOf h)
  | _ => m.sectorPoisoned (sectorOf h)

/-- The byte at an address as an engine reads it. A line written poisoned delivers its zero plaintext (R302); what
any other poisoned carrier of the module delivers beside its mark is open (log entry 34). -/
def Mach.rdByte (m : Mach) (a : Nat) : Byte :=
  let h := m.homeOf a
  match h / 2 ^ 56 with
  | 0 =>
    if m.linePoisoned (lineOf h) then
      (if (m.lineMeta (lineOf h)).state = 0xC0 ∧ mget m.writeBacks (lineOf h) ≠ some .poison then 0
       else Config.poisonByte h m.freeCount)
    else if m.lineLive (lineOf h) then Memory.get m.mem h else 0
  | 0x80 => Memory.get m.mem h
  | _ =>
    if m.sectorPoisoned (sectorOf h) then Config.poisonByte h m.freeCount
    else if smem m.valid (sectorOf h) then Memory.get m.mem h else 0

def Mach.rd (m : Mach) (a n : Nat) : Bytes := (List.range n).map fun i => m.rdByte (a + i)
def Mach.rdNat (m : Mach) (a n : Nat) : Nat := leNat (m.rd a n)

/-- Whether any byte of a range reads poisoned: one test a sector. -/
def Mach.rdPoison (m : Mach) (a n : Nat) : Bool :=
  n != 0 && (List.range ((a + n - 1) / 32 - a / 32 + 1)).any fun i => m.bytePoisoned ((a / 32 + i) * 32)

/-! ### Writes -/

/-- Whether a line lies in one of a placed object's copies. -/
def Mach.holdsLine (m : Mach) (o : Placed) (l : Nat) : Bool :=
  if o.every then
    (m.part o.part).bays.any fun b =>
      let base := o.base % 2 ^ 36 + b * 2 ^ 36
      decide (base ≤ l * 256 ∧ l * 256 < base + o.len)
  else decide (o.base ≤ l * 256 ∧ l * 256 < o.base + o.len)

/-- Whether a line lies in a MIRRORED object, whose writes set DIRTY (R263). -/
def Mach.isMirrored (m : Mach) (l : Nat) : Bool := m.placed.any fun o => o.mirrored && o.tier == 4 && m.holdsLine o l

/-- Whether a line lies in a MIRRORED object of PS_PARTITION, whose lines the stream sends (R353). -/
def Mach.isStreamed (m : Mach) (l : Nat) : Bool :=
  m.placed.any fun o => o.mirrored && o.tier == 4 && o.part == m.obj O.PS_PARTITION 0 && m.holdsLine o l

/-- The DIRTY bit of a mirrored line is set, and the line joins the end of its queue if it was clear (R263, R357); a
write to a line of the stream is counted (R359). -/
def Mach.setDirty (m : Mach) (l : Nat) : Mach :=
  if m.isMirrored l then
    let m := if m.isStreamed l then { m with mirrorWrites := m.mirrorWrites + 1 } else m
    if smem m.dirty l then m
    else { m with dirty := sadd m.dirty l, pair := { m.pair with queue := m.pair.queue ++ [l] } }
  else m

/-- One module-memory line written: bytes at an offset, merged with the line as it reads (R302); a whole
line replaces whatever it held (R305). -/
def Mach.putLine (m : Mach) (l o : Nat) (v : Bytes) (poison : Bool) : Mach :=
  let whole := decide (o = 0 ∧ v.length = 256)
  let bad := poison || (!whole && m.linePoisoned l)
  let old := if m.lineLive l && !m.linePoisoned l then (List.range 256).map fun i => Memory.get m.mem (l * 256 + i)
    else zerosB 256
  let data := if bad then zerosB 256 else patch old o v
  { m with
    mem := Memory.setAll m.mem (l * 256) data
    lines := mset m.lines l ⟨m.epochOf l, if bad then 0xC0 else 0, m.lineKey l⟩
    writeBacks := mdel m.writeBacks l }

/-- The same by the module's own engines, which sets DIRTY where the line is mirrored (R263). -/
def Mach.wrLine (m : Mach) (l o : Nat) (v : Bytes) (poison : Bool) : Mach := (m.putLine l o v poison).setDirty l

def sectorBay (s : Nat) : Nat := addrBay (s * 32)

/-- A write to a hole's store is counted for its bay (R439). -/
def Mach.countDrop (m : Mach) (b : Nat) : Mach :=
  m.setBay b { m.bay b with fenceDrops := min ((m.bay b).fenceDrops + 1) (2 ^ 64 - 1) }

/-- One SRAM sector written (R288): the pending write-backs of the words it touches are dropped (R287). Writes to the
store of a hole are discarded and counted (R439). -/
def Mach.wrSector (m : Mach) (s o : Nat) (v : Bytes) (poison : Bool) : Mach :=
  if s / 2 ^ 51 = 2 ∧ m.isHole (s % 2 ^ 51 / 2 ^ 13) then m.countDrop (sectorBay s)
  else
    let whole := decide (o = 0 ∧ v.length = 32)
    let bad := poison || (!whole && smem m.valid s && smem m.poison s)
    let old := if smem m.valid s then (List.range 32).map fun i => Memory.get m.mem (s * 32 + i) else zerosB 32
    { m with
      mem := Memory.setAll m.mem (s * 32) (patch old o v)
      valid := sadd m.valid s
      poison := if bad then sadd m.poison s else sdel m.poison s
      sramBacks := m.sramBacks.filter fun a =>
        !(a / 32 == s && (!smem m.valid s || rangesOverlap (s * 32 + o) v.length a 8)) }

/-- Host memory written by posted writes: the bytes of one write carry one mark (R346). -/
def Mach.wrHost (m : Mach) (a : Nat) (v : Bytes) (poison : Bool) : Mach :=
  let ss := (List.range ((a + v.length - 1) / 32 - a / 32 + 1)).map (a / 32 + ·)
  { m with
    mem := Memory.setAll m.mem a v
    hostPoison := if v.isEmpty then m.hostPoison
      else if poison then ss.foldl sadd m.hostPoison else ss.foldl sdel m.hostPoison }

/-- PRESENT and DIRTY bits of sectors of a lent piece are set (R265). -/
def Mach.markLent (m : Mach) (home : Nat) (present dirty : List Nat) : Mach :=
  { m with lent := m.lent.map fun (x : Lent) =>
      if x.home = home then { x with present := present.foldl sadd x.present, dirty := dirty.foldl sadd x.dirty } else x }

/-- A sector of a lent piece is filled with what the home line holds, as `m` reads it (R265). -/
def Mach.fillSector (m : Mach) (l : Lent) (line : Nat) (s : Mach) (i : Nat) : Mach :=
  let bad := m.linePoisoned line
  let d := (List.range 32).map fun k =>
    if m.lineLive line && !bad then Memory.get m.mem (line * 256 + i * 32 + k) else (0 : Byte)
  s.wrSector (sectorOf (l.addr (line * 256 + i * 32))) 0 d bad

/-- The sectors of a line that a lent piece does not hold, filled from the home line (R265). -/
def Mach.fillLent (m : Mach) (l : Lent) (a : Nat) : Mach :=
  let first := a % 32768 / 256 * 8
  let missing := (List.range 8).filter fun i => !smem l.present (first + i)
  (missing.foldl (m.fillSector l (lineOf a)) m).markLent l.home (missing.map (first + ·)) []

/-- The bytes of a write that fall in one sector of a lent piece are written there (R265). -/
def Mach.putSector (l : Lent) (a : Nat) (v : Bytes) (poison : Bool) (s : Mach) (k : Nat) : Mach :=
  let lo := max (k * 32) a
  let hi := min (k * 32 + 32) (a + v.length)
  s.wrSector (sectorOf (l.addr lo)) (lo % 32) ((v.drop (lo - a)).take (hi - lo)) poison

/-- A piece of a write that lies in one 32-byte sector or one 256-byte line. -/
def Mach.wrPiece (m : Mach) (a : Nat) (v : Bytes) (poison : Bool) : Mach :=
  match a / 2 ^ 56 with
  | 0 =>
    match m.lentAt a with
    | none => m.wrLine (lineOf a) (a % 256) v poison
    | some l =>
      -- a lent piece is written sector by sector, PRESENT and DIRTY set on each; a part of a sector that is not
      -- present is merged with its home line, which is read first (R265)
      let ss := (List.range ((a + v.length - 1) / 32 - a / 32 + 1)).map (a / 32 + ·)
      let part := fun (k : Nat) => decide (k * 32 < a ∨ a + v.length < k * 32 + 32)
      let m := if ss.any fun k => part k && !smem l.present (k * 32 % 32768 / 32) then m.fillLent l a else m
      let held := ss.map (· * 32 % 32768 / 32)
      ((ss.foldl (Mach.putSector l a v poison) m).markLent l.home held held).setDirty (lineOf a)
  | 0x80 => m.wrHost a v poison
  | _ => m.wrSector (sectorOf a) (a % 32) v poison

/-- A read of a range fills the lines of lent pieces of which it needs a sector that is not present (R265). -/
def Mach.fillRead (m : Mach) (a n : Nat) : Mach :=
  if n = 0 ∨ 0 < a / 2 ^ 56 ∨ m.lent.isEmpty then m
  else
    (List.range ((a + n - 1) / 256 - a / 256 + 1)).foldl (fun s i =>
      let line := a / 256 + i
      match s.lentAt (line * 256) with
      | none => s
      | some l =>
        let missing := (List.range 8).any fun k =>
          rangesOverlap (line * 256 + 32 * k) 32 a n && !smem l.present (line % 128 * 8 + k)
        if missing then s.fillLent l (line * 256) else s) m

/-- The pieces of a range that end at multiples of `g`: address and bytes. -/
def splitAt (g : Nat) : Nat → Nat → Bytes → List (Nat × Bytes)
  | 0, _, _ => []
  | f + 1, a, v =>
    if v.isEmpty then []
    else
      let n := min (g - a % g) v.length
      (a, v.take n) :: splitAt g f (a + n) (v.drop n)

/-- Bytes written from an address, all with one poison mark. -/
def Mach.wr (m : Mach) (a : Nat) (v : Bytes) (poison : Bool) : Mach :=
  if a / 2 ^ 56 = 0x80 then (if v.isEmpty then m else m.wrHost a v poison)
  else
    let g := if a / 2 ^ 56 = 0 then 256 else 32
    (splitAt g (v.length + 1) a v).foldl (fun s p => s.wrPiece p.1 p.2 poison) m

def Mach.wrNat (m : Mach) (a n v : Nat) : Mach := m.wr a (leBytes n v) false

/-- Marks a range of carriers poisoned without data, as a faulted output is left (R175, R304). -/
def Mach.wrPoison (m : Mach) (a n : Nat) : Mach := m.wr a (zerosB n) true

/-- A bulk invalidate of the stores that satisfy a test on their sectors (R289). -/
def Mach.invalidate (m : Mach) (f : Nat → Bool) : Mach :=
  { m with
    valid := m.valid.filter fun s => !f s
    poison := m.poison.filter fun s => !f s
    mem := m.mem.filter fun c => !(decide (0 < c.1 / 2 ^ 56 ∧ c.1 / 2 ^ 56 < 0x80) && f (c.1 / 32)) }

/-! ### What an engine keeps of its work (R51, R52, R445) -/

def commandId (c : CmdId) : Nat := c.journal % 64 * 2 ^ 26 + c.seq % 2 ^ 26

/-- The first-fault record of R52. -/
def faultRecord (now engine : Nat) (c : Cmd) (cause row col problem : Nat) : Nat :=
  1 + engine * 2 ^ 24 + commandId c.id * 2 ^ 48 + fld c.desc 4 2 * 2 ^ 80 + fld c.desc 6 2 * 2 ^ 96 +
    cause * 2 ^ 112 + problem % 2 ^ 24 * 2 ^ 120 + row % 2 ^ 24 * 2 ^ 144 + col % 2 ^ 24 * 2 ^ 168 +
    now % 2 ^ 64 * 2 ^ 192

def sat32 (n : Nat) : Nat := min n 0xFFFFFFFF
def sat64 (n : Nat) : Nat := min n (2 ^ 64 - 1)

/-! ### When flags were set (R55, R322) -/

/-- The place of an engine's flag bit, and of a bit of an object, in `flagAt`. -/
def engineFlag (e k : Nat) : Nat := e * 8 + k
def objFlag (o k : Nat) : Nat := 2 ^ 40 + o * 256 + k

def Mach.noteFlag (m : Mach) (k : Nat) : Mach := { m with flagAt := mset m.flagAt k m.now }

/-- Whether a flag was set at a time or later. -/
def Mach.setSince (m : Mach) (k t : Nat) : Bool :=
  match mget m.flagAt k with
  | some x => decide (t ≤ x)
  | none => false

/-- An engine takes the flags and saturations of work it did for a command; an INV finds its first-fault
record free or leaves it (R51, R52). -/
def Mach.raise (m : Mach) (e : Nat) (c : Cmd) (f : Flg) (row col problem : Nat) : Mach :=
  let g := m.engine e
  let m := (bitsOf 4 f.bits).foldl (fun s k => s.noteFlag (engineFlag e k)) m
  m.setEngine e { g with
    flags := g.flags ||| f.bits
    sats := sat32 (g.sats + f.sats)
    firstFault := if f.inv && g.firstFault % 2 == 0 then faultRecord m.now e c f.cause row col problem
      else g.firstFault
    live := { g.live with sat := sat64 (g.live.sat + f.sats) } }

/-! ### Records, events, notices (R248 to R253, R332) -/

/-- The bytes of a record before its PHASE is known. -/
def recordBytes (cmdId kind code reason detail flags layer operator_ problem step sats specific began ended
    source seq cmdSeq : Nat) : Bytes :=
  leBytes 4 cmdId ++ leBytes 1 kind ++ leBytes 1 code ++ leBytes 1 reason ++ leBytes 1 detail ++
    leBytes 2 flags ++ leBytes 2 layer ++ leBytes 2 operator_ ++ leBytes 3 problem ++ leBytes 1 0 ++
    leBytes 6 step ++ leBytes 4 sats ++ leBytes 4 specific ++ leBytes 6 began ++ leBytes 6 ended ++
    leBytes 4 source ++ leBytes 8 seq ++ leBytes 6 cmdSeq ++ leBytes 2 0

/-- The next SEQ of a source (R253). -/
def Mach.nextSeq (m : Mach) (source : Nat) : Nat × Mach :=
  let n := mgetD m.seqs source 0
  (n, { m with seqs := mset m.seqs source (n + 1) })

/-- The field-network function is enabled and holds its address (R317, R330). -/
def Mach.fieldOn (m : Mach) : Bool := m.obj O.FLD_ENABLE 0 == 1 && !m.addressTaken

/-- An Umpor header (R331); TIME is set when the frame is sent. -/
def umporHeader (kind token len : Nat) : Bytes :=
  leBytes 2 0x4D55 ++ leBytes 1 1 ++ leBytes 1 kind ++ leBytes 2 token ++ leBytes 2 len ++ zerosB 8

/-- A frame queued for a transmit opportunity, with hop limit 255 (R330). One for a neighbour that is not known has it
solicited anew. -/
def Mach.queueFrame (m : Mach) (dst port : Nat) (payload : Bytes) : Mach :=
  { m with outbox := m.outbox ++ [⟨dst, port, 255, payload⟩], soliciting := sdel m.soliciting dst }

/-- The frame of a waiting notice is queued (R332). -/
def Mach.sendNotice (m : Mach) (token : Nat) (record : Bytes) : Mach :=
  m.queueFrame (m.obj O.MGMT_PEER 0) (m.obj O.FLD_PORT 0) (umporHeader 4 token 64 ++ record)

/-- A NOTICE for a record (R332): queued for sending, or given up where sixteen wait. While the interface is off, or an
earlier notice has not been sent, it waits unsent: notices are sent in the order of their records. -/
def Mach.notify (m : Mach) (record : Bytes) : Mach :=
  if m.notices.length ≥ 16 then m.bump O.NOTICES_LOST 0 1
  else
    let token := m.nextToken
    let on := m.fieldOn && m.notices.all fun n => decide (0 < n.sends)
    let m := { m with
      notices := m.notices ++ [if on then ⟨token, record, 1, m.now + 10000000⟩ else ⟨token, record, 0, m.now⟩]
      nextToken := (token + 1) % 65536 }
    if on then m.sendNotice token record else m

/-- Whether a ring takes records. -/
def Mach.ringOn (m : Mach) (r : Nat) : Bool := decide (r < 64) && m.obj O.C_ENABLE r == 1

/-- A ring is full (R228). -/
def Mach.ringFull (m : Mach) (r : Nat) : Bool := decide ((m.ringOf r).consumed + m.obj O.C_SIZE r ≤ m.obj O.C_WRITTEN r)

/-- A record waits for a full ring (R228). -/
def Mach.ringStalled (m : Mach) (r : Nat) : Bool := m.ready.any fun x => x.ring == r && x.stalled

/-- A record becomes ready for a ring; one that finds the ring full, or others waiting for it, waits and is counted
(R228). -/
def Mach.pushRec (m : Mach) (r : Nat) (b : Bytes) (cmd : Option (CmdId × Nat)) : Mach :=
  let waits := m.ringOn r && (m.ringFull r || m.ringStalled r)
  let m := { m with ready := m.ready ++ [⟨r, b, cmd, waits⟩] }
  if waits then m.bump O.C_STALLS r 1 else m

/-- An event record from a source: to each of its rings that is enabled, and as a notice always (R250,
R332). One that a command causes carries the command's fields (R248). -/
def Mach.eventTo (m : Mach) (source : Nat) (rings : List Nat) (cause : Option Cmd)
    (code reason specific sats step cmdSeq : Nat) : Mach :=
  let sq := m.nextSeq source
  let b := recordBytes (cause.elim 0 fun c => commandId c.id) 2 code reason 0 0 (cause.elim 0 fun c => fld c.desc 4 2)
    (cause.elim 0 fun c => fld c.desc 6 2) (cause.elim 0 fun c => fld c.desc 14 3) step sats specific m.now m.now source
    sq.1 cmdSeq
  let m := sq.2
  ((rings.filter m.ringOn).foldl (fun s r => s.pushRec r b none) m).notify b

def Mach.event (m : Mach) (source ring code reason specific sats step cmdSeq : Nat) : Mach :=
  m.eventTo source [ring] none code reason specific sats step cmdSeq

def sourceModule : Nat := 4 * 2 ^ 24
def sourcePart (p : Nat) : Nat := 3 * 2 ^ 24 + p
def sourceJournal (j : Nat) : Nat := 2 ^ 24 + j
def sourceEngine (e : Nat) : Nat := 2 * 2 ^ 24 + e

/-- An event of the module (R250). -/
def Mach.moduleEvent (m : Mach) (code specific : Nat) : Mach :=
  m.event sourceModule (m.obj O.MODULE_EVENT_RING 0) code 0 specific 0 0 0

/-- A bit of a cause object is set. -/
def Mach.setCause (m : Mach) (o bit : Nat) : Mach := (m.setObj o 0 (m.obj o 0 ||| 2 ^ bit)).noteFlag (objFlag o bit)

def Mach.alert (m : Mach) (bit : Nat) : Mach := m.setCause O.ALERT_CAUSE bit

/-! ### The error log (R310) -/

/-- An entry of the error log: KIND, bay, channels, source and address. -/
def Mach.logError (m : Mach) (kind bay channels source addr : Nat) : Mach :=
  let e := leBytes 8 m.now ++ leBytes 1 kind ++ leBytes 1 bay ++ leBytes 2 channels ++ leBytes 2 0 ++
    leBytes 1 source ++ leBytes 1 0 ++ leBytes 8 addr ++ zerosB 8
  let n := m.obj O.ERROR_LOG_NEXT 0
  let m := { m with
    errorLog := mset m.errorLog n e
    plinth := { m.plinth with errInSecond := m.plinth.errInSecond ++ [m.now] } }
  m.setObj O.ERROR_LOG_NEXT 0 ((n + 1) % 16)

/-! ### Writes held for the mirror (R359) -/

/-- The PRIMARY accepts no write to a mirrored line now: a record has been unacknowledged for PS_LAG_BOUND. -/
def Mach.psLagging (m : Mach) : Bool :=
  m.pair.state == .paired && m.obj O.PS_ROLE 0 == 1 &&
    m.pair.unacked.any fun r => decide (r.sentAt + m.obj O.PS_LAG_BOUND 0 ≤ m.now)

/-- A write is held: its engine stalls. -/
def Mach.holdWrite (m : Mach) : Mach :=
  { m with pair := { m.pair with heldSince := some (m.pair.heldSince.getD m.now) } }

/-- The hold is over where the mirror no longer lags. -/
def Mach.releaseHold (m : Mach) : Mach :=
  match m.pair.heldSince with
  | some t =>
    if m.psLagging then m
    else { m.bump O.PS_HOLD_NS 0 (m.now - t) with pair := { m.pair with heldSince := none } }
  | none => m

/-- Work of an engine that may write: held whole where it would write a mirrored line that is not accepted. -/
def heldWrites (r : Mach → Res) (m : Mach) : Res :=
  match r m with
  | .next m' => if m.psLagging && m'.mirrorWrites != m.mirrorWrites then .next m.holdWrite else .next m'
  | x => x

/-! ### Lifting to the state with its queue -/

/-- A meaning run on the module: the queue is untouched and time does not go back (R393). -/
def State.lift (r : Mach → Res) (s : State) : Host.Outcome State Fault Refusal :=
  match r s.toMach with
  | .next m => .next { m with now := max s.now m.now, pending := s.pending }
  | .fault f => .fault f
  | .refused f => .refused f

end Sys2Proof.Machine
end

