-- ==== Sys2Proof/Machine/Secded.lean ====
section
/-! DEFINITION. The SEC-DED code of the SRAM words (R285, R286): its columns, check bits and syndrome, and what a
read makes of the syndrome. R285 states what the columns must satisfy and no more; which they are is open (log
entry 123). -/

namespace Sys2Proof.Machine

open Sys2Proof

/-- Bits set in an 8-bit column. -/
def columnWeight (c : Nat) : Nat := ((List.range 8).filter fun k => c.testBit k).length

/-- `n` columns taken from some, each once. -/
def pickColumns : Nat → Nat → List Nat → List Nat
  | 0, _, _ => []
  | n + 1, i, l =>
    let k := Config.secdedPick i % l.length
    l.getD k 0 :: pickColumns n (i + 1) (l.eraseIdx k)

/-- `n` columns of even weight, none in the span of those before it. -/
def pickIndependent : Nat → Nat → List Nat → List Nat
  | 0, _, _ => []
  | n + 1, i, span =>
    let l := (List.range 256).filter fun c => columnWeight c % 2 == 0 && !span.contains c
    let c := l.getD (Config.secdedPick i % l.length) 0
    c :: pickIndependent n (i + 1) (span ++ span.map (Nat.xor c))

/-- The check columns: check bit k is bit k of the syndrome. -/
def checkColumns : List Nat := (List.range 8).map (2 ^ ·)

/-- The data columns: odd weight, and no check column. -/
def dataColumns : List Nat :=
  pickColumns 64 0 ((List.range 256).filter fun c => columnWeight c % 2 == 1 && decide (1 < columnWeight c))

/-- The hash columns: even weight, linearly independent. -/
def hashColumns : List Nat := pickIndependent 7 64 [0]

/-- The exclusive-or of the columns whose bit is set in a number. -/
def columnSum (cols : List Nat) (x : Nat) : Nat :=
  (cols.zipIdx.filter fun c => x.testBit c.2).foldl (fun s c => Nat.xor s c.1) 0

/-- The 7-bit hash of a word address: the exclusive-or of its 7-bit slices (R285). -/
def addressHash : Nat → Nat → Nat
  | 0, _ => 0
  | n + 1, a => Nat.xor (a % 128) (addressHash n (a / 128))

/-- The hash of an SRAM word. -/
def wordHash (addr : Nat) : Nat := addressHash 10 (Config.dieWord (addr / 8))

/-- The eight check bits a word is stored with. -/
def checkBits (word hash : Nat) : Nat := Nat.xor (columnSum dataColumns word) (columnSum hashColumns hash)

/-- The syndrome of a read of a word: what its cells deliver, against its check bits and the hash of the word reached. -/
def syndrome (word hash : Nat) (o : WordObs) : Nat :=
  Nat.xor (checkBits (Nat.xor word (o.flips % 2 ^ 64)) (Nat.xor hash o.hash))
    (Nat.xor (checkBits word hash) (o.flips / 2 ^ 64))

/-- What a read makes of its syndrome (R286). -/
inductive WordClass where
  | clean | oneBit | oddWeight | evenWeight
  deriving DecidableEq, Repr

def classify (s : Nat) : WordClass :=
  if s = 0 then .clean
  else if dataColumns.contains s || checkColumns.contains s then .oneBit
  else if columnWeight s % 2 = 1 then .oddWeight
  else .evenWeight

/-- The outcome of the read of a word. -/
def wordClass (word hash : Nat) (o : WordObs) : WordClass := classify (syndrome word hash o)

/-- A read of a word that met nothing is clean. -/
theorem wordClass_clean (word hash : Nat) : wordClass word hash ⟨0, 0⟩ = .clean := by
  simp [wordClass, classify, syndrome]

end Sys2Proof.Machine
end

