-- ==== Sys2Proof/Machine/Operands.lean ====
section
/-! DEFINITION. The operand forms of commands: the descriptor and its fields (R231 to R235), handles
(R236, R237), the common checks (R238), spans and areas, and the layouts of four-bit pages, dense tensors,
side vectors and lists as the engines address them (R56 to R60, R65, R82). -/

namespace Sys2Proof.Machine

open Sys2Proof

/-- A check answers nothing, or the reason code and DETAIL of R251. -/
abbrev Chk := Except (Nat × Nat)

def rFIELD : Nat := 3
def rSTATE : Nat := 1
def rBOUND : Nat := 2
def rFORMAT : Nat := 4
def rQUOTA : Nat := 5
def rOVERLAP : Nat := 6
def rRESOURCE : Nat := 7
def rOWNER : Nat := 8
def rPREEMPTED : Nat := 9
def rPARTITION : Nat := 0x0A
def rUNSEEDED : Nat := 0x0B
def rSTEPSKEW : Nat := 0x0C
def rPOISON : Nat := 0x0D
def rRESIDUE : Nat := 0x0E
def rTILELOST : Nat := 0x0F
def rKEY : Nat := 0x10
def rSIGNATURE : Nat := 0x11
def rLINK : Nat := 0x12

def need (ok : Bool) (reason detail : Nat) : Chk Unit := if ok then .ok () else .error (reason, detail)

/-! ### Descriptor fields -/

def Cmd.f (c : Cmd) (o n : Nat) : Nat := fld c.desc o n
def Cmd.opcode (c : Cmd) : Nat := c.f 0 1
def Cmd.opflags (c : Cmd) : Nat := c.f 2 2
def Cmd.layer (c : Cmd) : Nat := c.f 4 2
def Cmd.operator (c : Cmd) : Nat := c.f 6 2
def Cmd.step (c : Cmd) : Nat := c.f 8 6
def Cmd.problem (c : Cmd) : Nat := c.f 14 3
def Cmd.spanFirst (c : Cmd) : Nat := if c.opcode = 9 then c.f 58 1 else c.f 29 1
def Cmd.spanCount (c : Cmd) : Nat := if c.opcode = 9 then c.f 59 1 else c.f 30 1
def Cmd.span (c : Cmd) : List Nat := (List.range c.spanCount).map (c.spanFirst + ·)
def Cmd.itemRows (c : Cmd) : Nat := bits c.opflags 6 10 * 8
def Cmd.rotCode (c : Cmd) : Nat := bits c.opflags 3 3
def Cmd.axis (c : Cmd) : Nat := bits c.opflags 2 1
def Cmd.fallbackOk (c : Cmd) : Bool := c.opflags.testBit 1
def Cmd.gradient (c : Cmd) : Bool := c.opflags.testBit 0
def Cmd.chain (c : Cmd) : List Nat := bitsOf 16 (c.f 29 2)
def Cmd.multicastFlag (c : Cmd) : Bool := c.opflags.testBit 5
/-- The work areas in bytes: offset and length (R234). -/
def Cmd.tileArea (c : Cmd) : Nat × Nat := (c.f 58 2 * 32, c.f 56 2 * 32)
def Cmd.clusterArea (c : Cmd) : Nat × Nat := (c.f 62 2 * 32, c.f 60 2 * 32)
def Cmd.srKey (c : Cmd) (tensor : Nat) : SrKey := ⟨c.seed, tensor, c.step⟩
def Cmd.commandId (c : Cmd) : Nat := Machine.commandId c.id

/-- The row of the command table a descriptor belongs to: its opcode and, where one opcode has several
rows, the field that tells them apart; none where no row does (R230, R149, R192, R180, R233). -/
def rowOf (c : Cmd) : Option (Nat × Nat) :=
  let o := c.opcode
  if o = 6 then (if 1 ≤ c.f 31 1 ∧ c.f 31 1 ≤ 12 then some (6, c.f 31 1) else none)
  else if o = 8 then (if c.f 31 1 = 1 ∨ c.f 31 1 = 2 then some (8, c.f 31 1) else none)
  else if o = 9 then some (9, if c.multicastFlag then 1 else 0)
  else if o = 10 then (if c.opflags % 4 < 3 then some (10, c.opflags % 4) else none)
  else if o = 11 then some (11, c.opflags % 2)
  else if o = 13 then (if c.f 31 1 = 1 ∨ c.f 31 1 = 2 then some (13, c.f 31 1) else none)
  else if 1 ≤ o ∧ o ≤ 14 then some (o, 0)
  else none

/-! ### Which handles a descriptor names (R232, R235) -/

/-- WIDE: the offsets of its slots with whether each must be non-null, may be, or must be null. -/
inductive SlotRule where
  | must | may | no
  deriving DecidableEq, Repr

/-- The slots S0 to S4 of R235 by OP. -/
def wideSlots (op : Nat) : List (Nat × SlotRule) :=
  let z := fun l => [32, 36, 40, 44, 48].zip l
  if op = 4 then z [.must, .must, .must, .no, .must]
  else if op = 5 then z [.must, .must, .must, .must, .must]
  else if op = 6 then z [.must, .may, .must, .no, .no]
  else if op = 7 then z [.must, .may, .must, .must, .must]
  else if op = 9 then z [.must, .must, .must, .must, .must]
  else if op = 12 then z [.must, .no, .must, .no, .no]
  else z [.must, .must, .must, .no, .no]

/-- The handle fields of a descriptor by opcode. -/
def handleFields (c : Cmd) : List Nat :=
  match c.opcode with
  | 1 | 2 => [32, 36, 40, 44, 48]
  | 3 => [32, 36, 40, 44, 48, 52]
  | 4 => [32, 36, 40]
  | 5 => [32, 36]
  | 6 => [32, 36, 40, 44, 48]
  | 7 => [32, 36, 40, 44]
  | 8 => [40]
  | 9 => [32, 36]
  | 11 => [32]
  | 12 => [32, 36]
  | 13 => [32, 36]
  | 14 => [32, 36, 40, 44]
  | _ => []

/-! ### Common check 1 (R231 to R235, R238): the fields in ascending offset (log entry 10) -/

def zeroAt (c : Cmd) (o n : Nat) : Nat × Bool := (o, c.f o n == 0)

/-- Reserved fields one after another, each a field of its own (R232, R251): from an offset, by their lengths. -/
def zeroCells (c : Cmd) : Nat → List Nat → List (Nat × Bool)
  | _, [] => []
  | o, n :: r => zeroAt c o n :: zeroCells c (o + n) r

/-- R234: an area with its offset of the field. -/
def areaOk (c : Cmd) (o limit : Nat) : Nat × Bool :=
  (o, c.f o 2 != 0xFFFF && decide (c.f (o + 2) 2 + c.f o 2 ≤ limit))

def itemBlocksOk (c : Cmd) : Bool := decide (1 ≤ bits c.opflags 6 10 ∧ bits c.opflags 6 10 ≤ 512)

/-- The fields of a descriptor with whether each is allowed. -/
def fieldTests (c : Cmd) : List (Nat × Bool) :=
  let o := c.opflags
  let head : Bool → Bool → List (Nat × Bool) := fun flags prob =>
    [(0, (rowOf c).isSome || decide (1 ≤ c.opcode ∧ c.opcode ≤ 14)), (1, decide (c.f 1 1 < 2)), (2, flags),
     (14, c.problem != 0xFFFFFF && (!prob || c.problem == 0)), (17, c.f 17 3 == 0)]
  let product := itemBlocksOk c && bits o 2 4 == 0
  match c.opcode with
  | 1 | 2 => head product false ++ [zeroAt c 31 1, zeroAt c 52 4, areaOk c 56 6144, areaOk c 60 65536]
  | 3 => head product false ++ [zeroAt c 31 1, areaOk c 56 6144, areaOk c 60 65536]
  | 4 => head (itemBlocksOk c && decide (c.rotCode ≤ 4) && !o.testBit 1) false ++
      [zeroAt c 26 3, (31, decide (c.f 31 1 < 4)), zeroAt c 48 4, zeroAt c 52 4, areaOk c 56 6144, areaOk c 60 65536]
  | 5 => head (itemBlocksOk c && decide (1 ≤ c.rotCode ∧ c.rotCode ≤ 4) && !o.testBit 1) false ++
      [zeroAt c 26 3, zeroAt c 31 1] ++ zeroCells c 40 [4, 4, 4, 4] ++ [areaOk c 56 6144, areaOk c 60 65536]
  | 6 =>
    let op := c.f 31 1
    let usesP0 := op = 4 ∨ op = 5 ∨ op = 6 ∨ op = 7 ∨ op = 8
    head (decide (o / 256 < 4) && bits o 1 7 == 0) false ++
      [(26, op == 11 || c.f 26 3 == 0)] ++
      ((wideSlots op).map fun s => (s.1, match s.2 with
        | .must => c.f s.1 4 != 0
        | .may => true
        | .no => c.f s.1 4 == 0)) ++
      [(52, decide usesP0 || c.f 52 4 == 0), (56, op == 7 || c.f 56 4 == 0), areaOk c 60 65536]
  | 7 => head (decide (o < 2)) true ++ [zeroAt c 26 3] ++ zeroCells c 48 [4, 4, 8]
  | 8 => head (o == 0) true ++ zeroCells c 23 [3, 3] ++ zeroCells c 44 [4, 4, 4, 8]
  | 9 => head (decide (o / 64 = 0) &&
        (if c.f 40 8 = 0 then o % 32 == 0 else decide (1 ≤ o % 32 ∧ o % 32 ≤ 16))) false ++ [zeroAt c 61 3]
  | 10 => head (decide (o < 3)) true ++
      [(20, o != 1 || decide (c.f 20 1 < 64)), zeroAt c 27 5] ++ zeroCells c 36 [4, 8, 4, 6, 1, 1, 1, 3]
  | 11 => head (decide (o < 2)) true ++ zeroCells c 24 [2, 6] ++ zeroCells c 36 [4, 8, 4, 6, 1, 1, 1, 3]
  | 12 => head (o == 0) false ++ zeroCells c 20 [6, 6] ++ zeroCells c 40 [8, 4, 6, 1, 1, 1, 3]
  | 13 => head (o == 0) true ++ zeroCells c 26 [3, 2] ++ [zeroAt c 52 4]
  | 14 => head (decide (o < 2)) true ++ [zeroAt c 26 3, zeroAt c 56 8]
  | _ => [(0, false)]

/-- Handle numbers below HANDLE_ENTRIES (R236). -/
def handleTests (m : Mach) (c : Cmd) : List (Nat × Bool) :=
  (handleFields c).map fun o => (o, c.f o 4 == 0 || decide (c.f o 4 < m.obj O.HANDLE_ENTRIES c.part))

/-- The lowest offset of a field that fails (log entry 10). -/
def firstBad (l : List (Nat × Bool)) : Option Nat :=
  l.foldl (fun acc t => if t.2 then acc else some (match acc with | some o => min o t.1 | none => t.1)) none

/-! ### Handles -/

/-- A handle entry as the sequencer reads it: the handle, whether a field of it is not allowed (a reserved byte
set, BYTES all ones, an address that is none: R237, R241, R257), and whether the read is poisoned (R240). -/
def Mach.readHandle (m : Mach) (p h : Nat) : Handle × Bool × Bool :=
  let a := m.obj O.HANDLE_TABLE p + h * 64
  let b := m.rd a 64
  (⟨fld b 0 4, fld b 4 1 % 16, fld b 8 8, fld b 16 8, fld b 24 8, fld b 32 8, fld b 40 8, fld b 48 4,
    fld b 52 4, fld b 56 8⟩, fld b 5 3 != 0 || decide (fld b 4 1 ≥ 16) || fld b 16 8 == 2 ^ 64 - 1 ||
      (tierOf (fld b 8 8)).isNone || (fld b 40 8 != 0 && (tierOf (fld b 40 8)).isNone),
    m.rdPoison a 64)

/-- Whether the VECTOR and LIST of a handle field are used by the command (R86, R114, R65, R81). -/
def usesSide (c : Cmd) (o : Nat) : Bool :=
  match c.opcode with
  | 1 | 2 | 3 => o == 32 || o == 36
  | _ => false

/-- Whether a field names the per-bay output copies, the one use of BAY_STRIDE (R237). -/
def perBay (c : Cmd) (o : Nat) : Bool := (c.opcode == 7 || c.opcode == 14) && o == 36

/-- One handle read with its reserved fields checked, poison first (R240). -/
def readOne (m : Mach) (c : Cmd) (o num : Nat) : Chk Handle :=
  if num ≥ m.obj O.HANDLE_ENTRIES c.part then .error (rFIELD, o)
  else
    let r := m.readHandle c.part num
    if r.2.2 then .error (rPOISON, o)
    else if r.2.1 ∨ (r.1.bayStride ≠ 0 ∧ perBay c o = false) then .error (rFIELD, o)
    else .ok r.1

/-- A handle named as a vector or a list, which must name none of its own (R237). -/
def readSide (m : Mach) (c : Cmd) (o num : Nat) : Chk Handle := do
  let h ← readOne m c o num
  need (h.vector == 0 && h.list == 0 && h.bayStride == 0) rFIELD o
  pure h

/-- The vector or list a handle names, read and checked whether or not the command uses it (R236, R237). -/
def readNamed (m : Mach) (c : Cmd) (o key num : Nat) : Chk (SMap Handle) :=
  if num = 0 then pure []
  else do
    let v ← readSide m c o num
    pure (if usesSide c o then [(key, v)] else [])

/-- Every handle entry of a command, each read once: by offset, with vector and list beside it where it uses them. -/
def readHandles (m : Mach) (c : Cmd) : List Nat → Chk (SMap Handle)
  | [] => pure []
  | o :: r => do
    if c.f o 4 = 0 then readHandles m c r
    else
      let h ← readOne m c o (c.f o 4)
      let vs ← readNamed m c o (o + 64) h.vector
      let ls ← readNamed m c o (o + 128) h.list
      let rest ← readHandles m c r
      pure (((o, h) :: (vs ++ ls)).foldl (fun acc x => mset acc x.1 x.2) rest)

def Handle.at_ (h : Handle) (p : Nat) : Nat := h.base + p * h.stride
def Handle.scaleAt (h : Handle) (p : Nat) : Nat := h.scale + p * h.scaleStride

/-- R257: the addresses a handle gives for a problem are legal. -/
def Handle.addrOk (h : Handle) (p : Nat) : Bool :=
  (tierOf h.base).isSome && (tierOf (h.at_ p)).isSome

def Act.h (a : Act) (o : Nat) : Option Handle := mget a.handles o
def Act.v (a : Act) (o : Nat) : Nat := mgetD a.values o 0

/-! ### Operands in host memory (R345, R346) -/

def isHost (a : Nat) : Bool := tierOf a == some .host

/-- The fields of the buffers a running command reads. -/
def readFields (c : Cmd) : List Nat :=
  match c.opcode with
  | 1 | 2 | 3 => [32, 36]
  | 6 =>
    let op := c.f 31 1
    if op = 5 ∨ op = 7 then [32, 36, 44]
    else if op = 9 then [32, 36, 44, 48]
    else if op = 12 then [32]
    else [32, 36]
  | _ => [32]

/-- The fields of the buffers a running command writes. -/
def writeFields (c : Cmd) : List Nat :=
  match c.opcode with
  | 1 | 2 | 3 => [40]
  | 4 => [36, 40]
  | 5 | 9 => [36]
  | 6 => if c.f 31 1 = 9 then [40] else [40, 48]
  | _ => []

/-- The first of some fields whose buffer, vector or list lies in host memory, among the handles held. -/
def hostField (hs : SMap Handle) (p : Nat) (fs : List Nat) : Option Nat :=
  (hs.find? fun x => fs.contains (x.1 % 64) && isHost (x.2.at_ p)).map (·.1 % 64)

/-- The fields a command reads now: its shadows once it falls back (R154). -/
def Act.reads (a : Act) : List Nat :=
  match a.work with
  | .fallback _ => [44, 48]
  | _ => readFields a.cmd

def Act.hostInput (a : Act) : Option Nat := hostField a.handles a.cmd.problem a.reads
def Act.hostEnd (a : Act) : Option Nat := hostField a.handles a.cmd.problem (a.reads ++ writeFields a.cmd)

/-- A read of a field's buffer in host memory that was delivered poisoned (R346; log entry 32). -/
def Mach.countPoisonedField (m : Mach) (hs : SMap Handle) (p o : Nat) : Mach :=
  let bad := fun (h : Handle) => isHost (h.at_ p) &&
    m.hostPoison.any fun s => decide (h.at_ p < s * 32 + 32 ∧ s * 32 < h.at_ p + h.bytes)
  if hs.any fun x => x.1 % 64 == o && bad x.2 then m.bump O.POISON_IN 0 1 else m

/-! ### Four-bit tensors in their pages (R56 to R60) -/

def blocksOf (n : Nat) : Nat := ceilDiv n 8
def gridBlocks (rows cols : Nat) : Nat := blocksOf rows * blocksOf cols
def pagesOf (blocks : Nat) : Nat := ceilDiv blocks 31

/-- A four-bit tensor as a command reads it: its format, first page, stored rows and columns, whether the
reader sees it transposed, its tensor scale, and its side or line-sum vector and list. -/
structure Four where
  fmt : Fmt
  base : Nat
  rows : Nat
  cols : Nat
  transposed : Bool
  scale : Nat
  vector : Nat
  list : Nat
  count : Nat
  deriving DecidableEq, Repr

/-- Address of the page of block `b`, and the offset of its scale and its data there. -/
def blockPage (base b : Nat) : Nat := base + b / 31 * 1024
def scaleAddr (base b : Nat) : Nat := blockPage base b + b % 31
def dataAddr (base b : Nat) : Nat := blockPage base b + 32 + b % 31 * 32

/-- The block number that holds view position (r, c), and the element within it. -/
def Four.locate (t : Four) (r c : Nat) : Nat × Nat :=
  let sr := if t.transposed then c else r
  let sc := if t.transposed then r else c
  (sr / 8 * blocksOf t.cols + sc / 8, sr % 8 * 8 + sc % 8)

/-- The code at view position (r, c); pad elements read as zero (R56). -/
def Four.code (m : Mach) (t : Four) (r c : Nat) : Nat :=
  let vr := if t.transposed then t.cols else t.rows
  let vc := if t.transposed then t.rows else t.cols
  if r ≥ vr ∨ c ≥ vc then 0
  else
    let l := t.locate r c
    let b := (m.rdByte (dataAddr t.base l.1 + l.2 / 2)).toNat
    if l.2 % 2 = 0 then b % 16 else b / 16

/-- The S8 code of the view block that holds (r, c) (R60). -/
def Four.s8 (m : Mach) (t : Four) (r c : Nat) : Nat := (m.rdByte (scaleAddr t.base (t.locate r c).1)).toNat

/-- Whether the block that holds view position (r, c), or its scale, reads poisoned. -/
def Four.blockPoisoned (m : Mach) (t : Four) (r c : Nat) : Bool :=
  let b := (t.locate r c).1
  m.rdPoison (scaleAddr t.base b) 1 || m.rdPoison (dataAddr t.base b) 32

/-- Row-major index of a view position in the stored tensor (R82). -/
def Four.storedIndex (t : Four) (r c : Nat) : Nat :=
  if t.transposed then c * t.cols + r else r * t.cols + c

/-- A page tag: FMT, ROT, AXIS, PEELED (R58). -/
def tagAddr (base page : Nat) : Nat := base + page * 1024 + 31

/-! ### Dense tensors -/

/-- Address of element `i` of a dense row-major tensor. -/
def denseAddr (f : Fmt) (base i : Nat) : Nat := base + i * f.bytes

def rdElem (m : Mach) (f : Fmt) (base i : Nat) : Nat := m.rdNat (denseAddr f base i) f.bytes

/-- The element as an FP32 code: exact for every format the wide unit and the cast unit read (R142). -/
def toFp32 (f : Fmt) (c : Nat) : NM Nat := rne32 (decodeElem f c)

/-- An element's FP32 code, with a NaN as the canonical NaN and no flag of its own. -/
def elem32 (f : Fmt) (c : Nat) : Nat := (toFp32 f c Flg.none).1

/-- An FP32 value converted to the format of a dense output: RNE, or SR for a gradient (R45, R99). An
FP32 output is written as it stands. -/
def outCode (f : Fmt) (rnd : Rnd) (v : Nat) : NM Nat :=
  match f with
  | .fp32 => pure v
  | _ =>
    match f.float? with
    | some ff => convertFloat ff rnd (dec32 v)
    | none => pure 0

/-! ### Dealing (R90, R91) -/

/-- First and last + 1 of the range dealt to cluster `j` of a span of `n` for `items` items. -/
def dealt (items n j : Nat) : Nat × Nat := (j * items / n, (j + 1) * items / n)

/-- The non-empty ranges of a span. -/
def dealAll (c : Cmd) (items : Nat) : List (Nat × Nat × Nat) :=
  ((List.range c.spanCount).map fun j =>
    (c.spanFirst + j, (dealt items c.spanCount j).1, (dealt items c.spanCount j).2)).filter
      fun r => r.2.1 < r.2.2

/-- SPAN_COUNT 1 to 160 and the span within 160 clusters (R86), as fields at two offsets. -/
def checkSpan (c : Cmd) (oFirst : Nat) : Chk Unit := do
  need (decide (1 ≤ c.spanCount ∧ c.spanCount ≤ 160)) rFIELD (oFirst + 1)
  need (decide (c.spanFirst + c.spanCount ≤ 160)) rFIELD oFirst

/-- Every cluster of the span lies in a bay of the partition. -/
def spanBelongs (m : Mach) (c : Cmd) : Bool := c.span.all fun k => smem (m.part c.part).bays (k / 10)

def count24 (x : Nat) : Bool := decide (1 ≤ x ∧ x < 0xFFFFFF)

/-- The format of a handle, where its code is one of R29. -/
def Handle.format (h : Handle) : Option Fmt := Fmt.ofCode h.fmt

end Sys2Proof.Machine
end

