-- ==== Sys2Proof/Machine/Trace.lean ====
section
/-! DEFINITION. Trace: runs of engines and their counters (R446), what is captured (R450 to R452), the
queues, buffers and the trigger (R453 to R458), and the trace link with its frames (R459 to R462). -/

namespace Sys2Proof.Machine

open Sys2Proof

def TrState.code : TrState → Nat
  | .off => 0 | .capturing => 1 | .triggered => 2 | .sending => 3 | .stopped => 4 | .training => 5

/-! ### Admission (R450 to R452) -/

/-- One TR_FILTER entry against an engine identifier. -/
def filterMatches (w e : Nat) : Bool :=
  w / 2 ^ 63 % 2 == 1 && (w % 2 ^ 24 &&& (w / 2 ^ 32 % 2 ^ 24)) == (e &&& (w / 2 ^ 32 % 2 ^ 24))

def Mach.filterAdmits (m : Mach) (e : Nat) : Bool :=
  (List.range 16).any fun i => filterMatches (bits (m.obj O.TR_FILTER 0) (64 * i) 64) e

/-- R452: a bay of a consenting partition, or of none. -/
def Mach.bayConsents (m : Mach) (b : Nat) : Bool :=
  match m.bayPart b with
  | some p => m.obj O.TR_CONSENT p == 1
  | none => true

/-- R451: run number `r` is sampled. -/
def Mach.sampled (m : Mach) (r : Nat) : Bool := r % max 1 (m.obj O.TR_SAMPLE 0) == 0

/-! ### The trigger (R457) -/

/-- The trigger fires at a time, once, in TRIGGER_CENTRED mode while CAPTURING. -/
def Mach.fireTrigger (m : Mach) (t : Nat) : Mach :=
  if m.obj O.TR_MODE 0 = 2 ∧ m.trace.state = .capturing then
    { m with trace := { m.trace with state := .triggered, trigAt := t } }.setObj O.TR_TRIG_TIME 0 t
  else m

/-- An event source of TR_TRIG by its bit (R467). -/
def Mach.triggerOn (m : Mach) (bit : Nat) : Mach :=
  if (m.obj O.TR_TRIG 0).testBit bit then m.fireTrigger m.now else m

/-- Flags raised by an engine, with the INV trigger (R51, R457). -/
def Mach.flags (m : Mach) (e : Nat) (c : Cmd) (f : Flg) (row col problem : Nat) : Mach :=
  let m := m.raise e c f row col problem
  if f.inv && m.filterAdmits e then m.triggerOn 1 else m

/-- Whether TR_TRIG's RECORD source matches a record (R467). -/
def trigMatches (trig kind layer op : Nat) : Bool :=
  trig.testBit 0 && bits trig 8 8 == kind &&
    (layer &&& bits trig 32 16) == (bits trig 16 16 &&& bits trig 32 16) &&
    (op &&& bits trig 64 16) == (bits trig 48 16 &&& bits trig 64 16)

/-! ### Records, gaps, queues and buffers -/

/-- A BEGIN or END record (R448); SEQ is set when it is issued. -/
def traceRecord (kind flags now e : Nat) (c : Cmd) (units : Nat) (d : Counts) (first : Nat) : Bytes :=
  leBytes 1 kind ++ leBytes 1 flags ++ leBytes 2 c.layer ++ leBytes 2 c.operator ++ leBytes 6 now ++
    leBytes 4 (sourceEngine e) ++ zerosB 8 ++ leBytes 4 c.commandId ++ leBytes 1 c.opcode ++ leBytes 1 0 ++
    leBytes 2 (min units 0xFFFF) ++ leBytes 4 (sat32 d.busy) ++ leBytes 8 d.work ++
    leBytes 4 (sat32 d.stalls) ++ leBytes 4 (sat32 d.gated) ++ leBytes 4 (sat32 d.sat) ++
    leBytes 4 first ++ zerosB 4

/-- A GAP record (R448). -/
def gapRecord (bay : Nat) (g : Gap) : Bytes :=
  leBytes 1 3 ++ zerosB 5 ++ leBytes 6 g.first ++ leBytes 4 (sourceEngine (bayEngine bay 7)) ++ zerosB 8 ++
    leBytes 4 (sat32 g.dropped) ++ leBytes 1 g.cause ++ zerosB 3 ++ leBytes 6 g.last ++ zerosB 26

/-- One more record dropped, at a time, for a cause bit. -/
def gapAdd (g : Option Gap) (n cause t0 t1 : Nat) : Option Gap :=
  match g with
  | none => some ⟨n, cause, t0, t1⟩
  | some g => some ⟨g.dropped + n, g.cause ||| cause, g.first, t1⟩

/-- Two gaps joined, the older first. -/
def gapJoin (a b : Option Gap) : Option Gap :=
  match a, b with
  | none, x => x
  | x, none => x
  | some g, some h => some ⟨g.dropped + h.dropped, g.cause ||| h.cause, g.first, h.last⟩

/-- A record absorbed by a gap: a GAP record adds its own count and causes (R456). -/
def gapAbsorb (g : Option Gap) (r : Bytes) (cause : Nat) : Option Gap :=
  if fld r 0 1 = 3 then gapJoin g (some ⟨fld r 24 4, fld r 28 1 ||| cause, fld r 6 6, fld r 32 6⟩)
  else gapAdd g 1 cause (fld r 6 6) (fld r 6 6)

/-- The capture queue of an engine: its cluster's, or its own for a bay-level engine (R454). -/
def capQueueOf (e : Nat) : Nat :=
  if engineKind e ≤ 4 then engineCluster e else 1000 + engineBay e * 4 + (engineKind e - 5)

def queueLimit (q : Nat) : Nat := if q < 1000 then 64 else 8
def queueBay (q : Nat) : Nat := if q < 1000 then q / 10 else (q - 1000) / 4

def Mach.capQueue (m : Mach) (q : Nat) : CapQueue := mgetD m.trace.queues q ⟨[], none⟩
def Mach.traceBuf (m : Mach) (b : Nat) : TraceBuf := mgetD m.trace.bufs b ⟨[], none, [], none⟩
def Mach.setCapQueue (m : Mach) (q : Nat) (v : CapQueue) : Mach :=
  { m with trace := { m.trace with queues := mset m.trace.queues q v } }
def Mach.setTraceBuf (m : Mach) (b : Nat) (v : TraceBuf) : Mach :=
  { m with trace := { m.trace with bufs := mset m.trace.bufs b v } }

/-- Records of a bay counted in its GAP records. -/
def Mach.countDropped (m : Mach) (b n : Nat) : Mach :=
  m.setBay b { m.bay b with trDropped := min ((m.bay b).trDropped + n) (2 ^ 64 - 1) }

/-- A frame of a bay sent, with its records. -/
def Mach.countFrame (m : Mach) (b n : Nat) : Mach :=
  m.setBay b { m.bay b with
    trSent := min ((m.bay b).trSent + n) (2 ^ 64 - 1)
    trFrames := min ((m.bay b).trFrames + 1) (2 ^ 64 - 1) }

def Mach.captureOn (m : Mach) : Bool := m.trace.state == .capturing || m.trace.state == .triggered

/-- Whether a run that begins now is captured (R450 to R452); its END follows its BEGIN (R451). -/
def Mach.admits (m : Mach) (e : Nat) (c : Cmd) (runNo : Nat) : Bool :=
  decide (m.obj O.TR_LAYER_LO 0 ≤ c.layer ∧ c.layer ≤ m.obj O.TR_LAYER_HI 0) && m.filterAdmits e && m.sampled runNo &&
    (m.captureOn || (m.trace.state == .stopped && m.obj O.TR_MODE 0 == 0))

/-- A record of an admitted run captured for an engine (R450): into its queue, or counted as dropped where the queue
is full. After capture has stopped in STOP mode it joins its bay's GAP (R455). `above` is whether sampling was above 1,
`t` the record's TIME. -/
def Mach.capture (m : Mach) (e kind : Nat) (c : Cmd) (above : Bool) (t units : Nat) (d : Counts) (first : Nat) : Mach :=
  let admitted := (m.obj O.TR_KINDS 0).testBit (kind - 1) && m.bayConsents (engineBay e)
  if !admitted then m
  else if m.captureOn then
    let q := capQueueOf e
    let cq := m.capQueue q
    let hit := m.obj O.TR_MODE 0 == 2 && m.trace.state == .capturing &&
      trigMatches (m.obj O.TR_TRIG 0) kind c.layer c.operator
    let fl := (if hit then 1 else 0) + (if above then 2 else 0)
    let r := traceRecord kind fl t e c units d first
    if cq.recs.length ≥ queueLimit q then
      (m.setCapQueue q { cq with gap := gapAdd cq.gap 1 1 t t }).countDropped (engineBay e) 1
    else
      let m := m.setCapQueue q { cq with recs := cq.recs ++ [r] }
      if hit then m.fireTrigger t else m
  else if m.trace.state == .stopped && m.obj O.TR_MODE 0 == 0 then
    let b := engineBay e
    let u := m.traceBuf b
    (m.setTraceBuf b { u with preGap := gapAdd u.preGap 1 2 t t }).countDropped b 1
  else m

/-- Records a region holds beside its reserved slot (R455). -/
def Mach.preLimit (m : Mach) : Nat :=
  if m.obj O.TR_MODE 0 = 2 then (16 - m.obj O.TR_POST 0) * 4096 - 1 else 65535
def Mach.postLimit (m : Mach) : Nat := m.obj O.TR_POST 0 * 4096 - 1

/-- A record written into a bay's buffer (R455, R456). -/
def Mach.bufPut (m : Mach) (b : Nat) (r : Bytes) : Mach :=
  let t := m.traceBuf b
  let real := decide (fld r 0 1 ≠ 3)
  let captured := fun (s : Mach) =>
    if real then s.bump O.TR_BAY_CAPTURED b 1 else s
  let drop := fun (s : Mach) (x : Bytes) => if fld x 0 1 = 3 then s else s.countDropped b 1
  if m.obj O.TR_MODE 0 = 2 ∧ m.trace.state ≠ .capturing then
    if t.post.length ≥ m.postLimit then drop (m.setTraceBuf b { t with postGap := gapAbsorb t.postGap r 2 }) r
    else captured (m.setTraceBuf b { t with post := t.post ++ [r] })
  else if m.obj O.TR_MODE 0 = 0 then
    if t.pre.length ≥ m.preLimit then
      let m := drop (m.setTraceBuf b { t with preGap := gapAbsorb t.preGap r 2 }) r
      { m with trace := { m.trace with state := .stopped } }
    else
      let m := captured (m.setTraceBuf b { t with pre := t.pre ++ [r] })
      -- the region is full now: capture stops in every bay
      if t.pre.length + 1 ≥ m.preLimit then { m with trace := { m.trace with state := .stopped } } else m
  else
    match t.pre with
    | old :: rest =>
      if t.pre.length ≥ m.preLimit then
        captured (drop (m.setTraceBuf b { t with pre := rest ++ [r], preGap := gapAbsorb t.preGap old 4 }) old)
      else captured (m.setTraceBuf b { t with pre := t.pre ++ [r] })
    | [] => captured (m.setTraceBuf b { t with pre := [r] })

/-- The queues of a bay in the order they enter its buffer (R454). -/
def bayQueues (b : Nat) : List Nat := (List.range 10).map (b * 10 + ·) ++ (List.range 3).map (1000 + b * 4 + ·)

/-- TRACE_QUEUE_DRAIN: the first queue of the bay that holds anything writes its next record, a GAP for
what it dropped before it (R454). -/
def traceQueueDrain (b : Nat) (m : Mach) : Res :=
  if !m.inRun then .next m else
  match (bayQueues b).find? fun q => !(m.capQueue q).recs.isEmpty || (m.capQueue q).gap.isSome with
  | none => .next m
  | some q =>
    let cq := m.capQueue q
    let m := match cq.gap with
      | some g => m.bufPut b (gapRecord b g)
      | none => m
    match cq.recs with
    | [] => .next (m.setCapQueue q ⟨[], none⟩)
    | r :: rest => .next ((m.setCapQueue q ⟨rest, none⟩).bufPut b r)

/-- Records waiting in a bay's buffer, in the order they are sent, each gap where it lies (R456, R461). -/
def Mach.toSend (m : Mach) (b : Nat) : List Bytes :=
  let t := m.traceBuf b
  let g := fun (x : Option Gap) => match x with | some g => [gapRecord b g] | none => []
  let pre := if m.obj O.TR_MODE 0 == 0 && (match t.preGap with | some x => decide (x.cause < 8) | none => true)
    then t.pre ++ g t.preGap else g t.preGap ++ t.pre
  pre ++ t.post ++ g t.postGap

/-- Capture resumes after a stop in STOP mode: a bay's GAP of the stop takes its place behind the records before it,
where there is room for it (R455). -/
def Mach.keepGap (m : Mach) (b : Nat) (t : TraceBuf) : TraceBuf :=
  match t.preGap with
  | some g => if g.cause < 8 ∧ t.pre.length < m.preLimit then { t with pre := t.pre ++ [gapRecord b g], preGap := none }
    else t
  | none => t

/-- Empty a bay's buffer, its records lost to an invalidate (R458). -/
def Mach.invalidateTrace (m : Mach) (b : Nat) : Mach :=
  let all := m.toSend b
  if all.isEmpty then m
  else
    let g := all.foldl (fun g r => gapAbsorb g r 8) none
    let g := g.map fun x => { x with cause := 8 }
    let n := (all.filter fun r => fld r 0 1 != 3).length
    (m.setTraceBuf b ⟨[], g, [], none⟩).countDropped b n

/-! ### Runs (R446) -/

def Counts.sub (a b : Counts) : Counts :=
  ⟨a.busy - b.busy, a.work - b.work, a.stalls - b.stalls, a.gated - b.gated, a.sat - b.sat⟩

/-- The run in progress on an engine ends at a time: its counters are latched and its END captured. -/
def Mach.endRunAt (m : Mach) (e t : Nat) : Mach :=
  let g := m.engine e
  match g.run with
  | none => m
  | some c =>
    let m := m.setEngine e { g with run := none, endLatch := g.live }
    match g.traced with
    | some above => m.capture e 2 c above t g.units (g.live.sub g.beginLatch) g.firstUnit
    | none => m

/-- A run ends when the engine finished its last unit. -/
def Mach.endRun (m : Mach) (e : Nat) : Mach := m.endRunAt e (m.engine e).restedAt

/-- A run cut short ends when the engine stops. -/
def Mach.stopRun (m : Mach) (e : Nat) : Mach := m.endRunAt e m.now

/-- A run begins: the counters are latched, and its BEGIN is captured where the run is admitted. -/
def Mach.beginRun (m : Mach) (e : Nat) (c : Cmd) (unit : Nat) : Mach :=
  let g := m.engine e
  let first := if engineKind e = 6 ∨ engineKind e = 7 then 0xFFFFFFFF else unit
  let above := decide (1 < m.obj O.TR_SAMPLE 0)
  let traced := if m.admits e c g.runs then some above else none
  let m := m.setEngine e { g with
    run := some c, beginLatch := g.live, endLatch := .zero, runCommandId := c.commandId,
    units := 1, firstUnit := first, runs := g.runs + 1, traced := traced }
  if traced.isSome then m.capture e 1 c above m.now 0 .zero first else m

/-- An engine starts a unit of a command: a run begins unless one of that command is in progress, and one of another
command ends. -/
def Mach.startUnit (m : Mach) (e : Nat) (c : Cmd) (unit : Nat) : Mach :=
  let g := m.engine e
  if g.run.map (·.id) = some c.id then m.setEngine e { g with units := sat32 (g.units + 1) }
  else (m.endRun e).beginRun e c unit

/-- A unit is finished: what the engine spent and did is added to its counters (R445). -/
def Mach.spend (m : Mach) (e : Nat) (s : Spent) (work : Nat) : Mach :=
  let g := m.engine e
  m.setEngine e { g with restedAt := m.now, live := { g.live with
    busy := sat64 (g.live.busy + s.busy), work := sat64 (g.live.work + work),
    stalls := sat64 (g.live.stalls + s.stalls), gated := sat64 (g.live.gated + s.gated) } }

/-- What a unit of a bay-level engine costs in network cycles is timing, and free: STALLS and GATED count BUSY cycles
(R445; log entry 122). -/
def Mach.freeSpent (m : Mach) : Spent × Mach :=
  let b := m.free
  let s := b.2.free
  let g := s.2.free
  (⟨b.1, s.1 % (b.1 + 1), g.1 % (b.1 + 1)⟩, g.2)

/-- A unit of a bay-level engine is finished. -/
def Mach.spendFree (m : Mach) (e work : Nat) : Mach :=
  let s := m.freeSpent
  s.2.spend e s.1 work

/-! ### The link (R459 to R462) -/

/-- One bit of the reflected CRC-32 (R461). -/
def crc32Bit (c : Nat) : Nat := if c % 2 = 1 then Nat.xor (c / 2) 0xEDB88320 else c / 2
def crc32Byte (c : Nat) (b : Byte) : Nat :=
  (List.range 8).foldl (fun x _ => crc32Bit x) (Nat.xor c b.toNat)
def crc32 (bs : Bytes) : Nat := Nat.xor (bs.foldl crc32Byte 0xFFFFFFFF) 0xFFFFFFFF

/-- The self-synchronous scrambler x^58 + x^39 + 1 on one bit: its register holds the last 58 output bits,
the newest in bit 0. -/
def scrambleBit (st : Nat) (b : Bool) : Nat × Bool :=
  let o := b != (st.testBit 38 != st.testBit 57)
  ((st * 2 + (if o then 1 else 0)) % 2 ^ 58, o)

/-- A 64-bit payload, lowest byte and lowest bit first (log entry 14). -/
def scramble (st : Nat) (p : Bytes) : Nat × Bytes :=
  let v := leNat p
  let r := (List.range 64).foldl (fun (x : Nat × Nat) i =>
    let s := scrambleBit x.1 (v.testBit i)
    (s.1, if s.2 then x.2 + 2 ^ i else x.2)) (st, 0)
  (r.1, leBytes 8 r.2)

/-- Blocks put on the lanes in turn: block k of the stream on lane k mod 4. -/
def Trace.send (t : Trace) : List (Nat × Bytes) → Trace
  | [] => t
  | (sync, p) :: r =>
    let lane := t.blocksSent % 4
    let x := scramble (t.scramblers.getD lane 0) p
    Trace.send { t with
      scramblers := t.scramblers.set lane x.1
      blocksSent := t.blocksSent + 1
      lastFrame := t.lastFrame ++ [(sync, x.2)] } r

/-- Data blocks of a record, eight bytes each. -/
def recordBlocks (r : Bytes) : List (Nat × Bytes) := (List.range 8).map fun i => (1, bytesAt r (8 * i) 8)

/-- Nothing waits in any queue or buffer. -/
def Mach.traceEmpty (m : Mach) : Bool :=
  (List.range 16).all fun b => (m.toSend b).isEmpty && (bayQueues b).all fun q =>
    (m.capQueue q).recs.isEmpty && (m.capQueue q).gap.isNone

/-- In TRIGGER_CENTRED mode the last record sent ends the sending (R466). -/
def Mach.tryStop (m : Mach) : Mach :=
  if m.trace.state = .sending ∧ m.traceEmpty then { m with trace := { m.trace with state := .stopped } } else m

/-- Up to 64 records of a bay are issued with their SEQs and sent as one frame (R449, R461). -/
def Mach.sendTraceFrame (m : Mach) (b : Nat) : Mach :=
  let all := m.toSend b
  let now := all.take 64
  let left := all.drop 64
  let issued := now.foldl (fun (x : Mach × List Bytes) r =>
    let sq := x.1.nextSeq (fld r 12 4)
    (sq.2, x.2 ++ [patch r 16 (leBytes 8 sq.1)])) (m, [])
  let m := issued.1
  let data := issued.2.flatMap recordBlocks
  let payload := data.flatMap (·.2)
  let startB : Bytes := leBytes 1 0x78 ++ leBytes 1 1 ++ leBytes 4 m.trace.frameSeq ++
    leBytes 1 now.length ++ leBytes 1 b
  let endB : Bytes := leBytes 1 0x87 ++ leBytes 4 (crc32 payload) ++ zerosB 3
  let tr := { m.trace with lastFrame := [], frameSeq := (m.trace.frameSeq + 1) % 2 ^ 32, nextBay := (b + 1) % 16 }
  let m := { m with trace := tr.send ([(2, startB)] ++ data ++ [(2, endB)]) }
  let m := m.setTraceBuf b ⟨left, none, [], none⟩
  m.countFrame b now.length

/-- TRACE_FRAME_SEND: the next bay in turn that holds records sends up to 64 of them as one frame, each
issued with its source's next SEQ (R449, R461). -/
def traceFrameSend (m : Mach) : Res :=
  let mode := m.obj O.TR_MODE 0
  let sending := if mode = 2 then m.trace.state == .sending
    else m.trace.state == .capturing || m.trace.state == .stopped
  if !sending || !m.inRun then .next m
  else
    match ((List.range 16).map fun i => (m.trace.nextBay + i) % 16).find? fun b => !(m.toSend b).isEmpty with
    | none => .next m.tryStop
    | some b => .next (m.sendTraceFrame b).tryStop

/-- TRACE_ALIGN: four ALIGN blocks, one on each lane (R459, R460). -/
def traceAlign (m : Mach) : Res :=
  if m.trace.state = .off ∨ !m.inRun then .next m
  else
    let g := m.trace.alignGroups
    let blocks := (List.range 4).map fun i =>
      ((2 : Nat), leBytes 1 0x4B ++ leBytes 1 i ++ leBytes 4 g ++ zerosB 2)
    let tr := { m.trace with lastFrame := [], alignGroups := (g + 1) % 2 ^ 32 }
    .next { m with trace := tr.send blocks }

/-- TRACE_CAPTURE_END: TR_POST_NS after the trigger (R457). -/
def traceCaptureEnd (m : Mach) : Res :=
  if m.trace.state = .triggered then
    let m := m.upTo (m.trace.trigAt + m.obj O.TR_POST_NS 0)
    .next { m with trace := { m.trace with state := .sending } }.tryStop
  else .next m

/-- TRACE_TRAINING_END: 100 µs after training began (R462). -/
def traceTrainingEnd (m : Mach) : Res :=
  if m.trace.state = .training then
    let m := m.upTo (m.trace.trainedAt + 100000)
    .next { m with trace := { m.trace with state := .capturing } }
  else .next m

/-- Training begins: frames are counted from 0 again (R461, R462). -/
def Mach.startTraining (m : Mach) : Mach :=
  { m with trace := { m.trace with
      state := .training, trainedAt := m.now, frameSeq := 0, alignGroups := 0, nextBay := 0, lastFrame := [],
      trigAt := 0, blocksSent := 0, scramblers := [0, 0, 0, 0], queues := [], bufs := [] } }

end Sys2Proof.Machine
end

