-- ==== Sys2Proof/Machine/Sched.lean ====
section
/-! DEFINITION. What every command shares: the rules of the plinth that act on bays (R399 to R402, R414), the bay power
states a command keeps up (R404 to R408), completion and its record (R248 to R253), work counters (R92, R93), and what
the reads of engines meet (R286, R299). -/

namespace Sys2Proof.Machine

open Sys2Proof

def cannot (why : String) : Res := .refused (.cannotOccur why)

def Mach.act? (m : Mach) (id : CmdId) : Option Act := m.acts.find? fun a => decide (a.cmd.id = id)

def Mach.setAct (m : Mach) (a : Act) : Mach :=
  { m with acts := m.acts.map fun x => if x.cmd.id = a.cmd.id then a else x }

/-! ### Rules of the plinth (R399, R402) -/

/-- A rule of the plinth's table. -/
structure Rule where
  input : Nat
  op : Nat
  action : Nat
  flags : Nat
  threshold : Nat
  hold : Nat
  arg : Nat
  zero : Nat
  deriving DecidableEq, Repr

def ruleOf (table n : Nat) : Rule :=
  let w := bits table (128 * n) 128
  ⟨bits w 0 8, bits w 8 8, bits w 16 8, bits w 24 8, bits w 32 32, bits w 64 16, bits w 80 16, bits w 96 32⟩

/-- A rule as the plinth last sampled with it. -/
def Mach.rule (m : Mach) (n : Nat) : Rule := ruleOf m.plinth.table n

def Mach.ruleFired (m : Mach) (n : Nat) : Bool :=
  match m.plinth.rules[n]? with
  | some r => r.fired
  | none => false

/-- The rules fired now with a given action. -/
def Mach.firedRules (m : Mach) (action : Nat) : List Rule :=
  ((List.range 32).filter fun n => m.ruleFired n && (m.rule n).action == action).map m.rule

/-- Bays held at or above B-IDLE by WAKE rules, and those that SLEEP rules put to sleep. -/
def Mach.wakeMask (m : Mach) : Nat := (m.firedRules 5).foldl (fun a r => a ||| r.arg) 0
def Mach.sleepMask (m : Mach) : Nat := (m.firedRules 6).foldl (fun a r => a ||| r.arg) 0

/-- A bay's throttle level (R414). -/
def Mach.bayLevel (m : Mach) (b : Nat) : Nat :=
  ((m.firedRules 4).map (·.arg)).foldl max (max m.plinth.level (m.bay b).droop)

/-! ### Bays that work (R404 to R408, R414) -/

/-- Whether the engines of a bay's control domain issue: the module runs with its core PLL locked, the bay is not FAILED,
and its throttle level leaves cycles to issue in (R395, R404, R405, R414). -/
def Mach.issues (m : Mach) (b : Nat) : Bool :=
  m.inRun && (mget m.plinth.pllLost 0).isNone && (m.bay b).power != .failed && decide (m.bayLevel b < 16)

/-- Whether the engines of a bay's switched domain issue: the bay is in B-RUN too (R404). -/
def Mach.bayReady (m : Mach) (b : Nat) : Bool := (m.bay b).power == .run && m.issues b

/-- Bays whose clusters or reduction node a command names (R404, R407): the update units and the DMA engines, of the
control domain, name none. -/
def Cmd.unitBays (c : Cmd) : List Nat :=
  (List.range 16).filter fun b => match c.opcode with
    | 1 | 2 | 3 | 4 | 5 | 6 => c.span.any fun k => k / 10 == b
    | 7 | 14 => c.chain.contains b
    | 9 => c.multicastFlag && c.span.any fun k => k / 10 == b
    | 13 => c.bay == b
    | _ => false

/-- Bays whose tile or cluster stores hold bytes of a range: those of its addresses, or of the lent pieces that hold
parts of it (R265). -/
def Mach.storeBays (m : Mach) (a n : Nat) : List Nat :=
  match tierOf a with
  | some .tile => [addrBay a]
  | some .cluster => (List.range 16).filter fun b => decide (addrBay a ≤ b ∧ b ≤ addrBay (a + n - 1))
  | some .module => (m.lent.filter fun l => rangesOverlap l.home 32768 a n).map (·.tile / 640)
  | _ => []

/-- The buffer a command names at a handle field, by its key among the handles read. -/
def Cmd.buffer (c : Cmd) (key : Nat) (h : Handle) : Nat × Nat :=
  if c.opcode = 9 then
    if key = 32 then (h.at_ c.problem + c.f 20 6, c.f 52 6) else (h.at_ c.problem + c.f 26 6, c.f 52 6)
  else (h.at_ c.problem, h.bytes)

/-- The gradient copies an UPDATE list names by raw address (R193). -/
def gradAddresses (c : Cmd) (raws : List Bytes) : List Nat :=
  raws.flatMap fun r => (List.range c.chain.length).map fun q => fld r 64 8 + q * fld r 72 8

/-- The bays a command names, with the handles and the UPDATE entries it has read: their clusters, their reduction
nodes or their stores (R407). -/
def Mach.namedBays (m : Mach) (c : Cmd) (hs : SMap Handle) (raws : List Bytes) : List Nat :=
  c.unitBays ++ (hs.flatMap fun x => m.storeBays (c.buffer x.1 x.2).1 (c.buffer x.1 x.2).2) ++
    (gradAddresses c raws).flatMap fun a => m.storeBays a 1

/-- The bays named by a command that has been fetched and not validated: by the handles as they read now. -/
def Mach.cmdBays (m : Mach) (c : Cmd) : List Nat :=
  let hs := match readHandles m c (handleFields c) with
    | .ok hs => hs
    | .error _ => []
  let raws := if c.opcode = 8 then (List.range (c.f 20 3)).map fun i => m.rd (c.f 32 8 + 128 * i) 128 else []
  m.namedBays c hs raws

/-- The bays named by a validated command. -/
def Mach.actBays (m : Mach) (a : Act) : List Nat :=
  m.namedBays a.cmd a.handles (match a.work with
    | .updating w => w.entries.map (·.raw)
    | _ => [])

/-- Whether a command that names a bay is between the start of its validation and its completion (R407). -/
def Mach.bayBusy (m : Mach) (b : Nat) : Bool :=
  m.received.any (fun c => (m.cmdBays c).contains b) || m.acts.any (fun a => (m.actBays a).contains b) ||
    m.listed.any fun a => (m.actBays a).contains b

/-- A bay enters B-SLEEP; `since` is when the entry ends (R407). -/
def Mach.bayToSleep (m : Mach) (b : Nat) : Mach := m.setBay b { m.bay b with power := .sleep, since := m.now + 1000 }

def Mach.maySleep (m : Mach) (b : Nat) : Bool :=
  m.inRun && (m.bay b).power == .idle && !(m.bay b).wakeAsked && !(m.bay b).leaving && !m.wakeMask.testBit b

/-- A bay of B-IDLE enters B-SLEEP at once while a SLEEP rule that names it is fired (R402). -/
def Mach.obeySleep (m : Mach) (b : Nat) : Mach :=
  if m.sleepMask.testBit b && m.maySleep b then m.bayToSleep b else m

/-- Every idle bay in B-RUN enters B-IDLE at once (R407). -/
def Mach.settle (m : Mach) : Mach :=
  (List.range 16).foldl (fun s b =>
    let y := s.bay b
    if y.power = .run ∧ s.modState = .run ∧ !s.bayBusy b then
      (s.setBay b { y with power := .idle, since := s.now, wakeAsked := false, wakeStarted := false }).obeySleep b
    else s) m

/-- A wake is requested of a bay that is not running; it cancels an entry to B-OFF whose revocation has begun (R408). -/
def Mach.askWake (m : Mach) (b : Nat) : Mach :=
  let y := m.bay b
  match y.power with
  | .idle | .sleep | .off =>
    if y.wakeAsked then m else m.setBay b { y with wakeAsked := true, wakeAt := m.now, leaving := false }
  | _ => m

def Mach.wakeBays (m : Mach) (bs : List Nat) : Mach := bs.foldl Mach.askWake m

/-- A bay whose stores need no wake: it runs, or never wakes. -/
def Mach.bayUp (m : Mach) (b : Nat) : Bool := (m.bay b).power == .run || (m.bay b).power == .failed

/-- Whether no bay a command names sleeps: its work items and transfers wait for them (R408). -/
def Mach.awake (m : Mach) (a : Act) : Bool := (m.actBays a).all m.bayUp

/-! ### Completion -/

/-- Flags of a completion record (R248): the command's own, and POISONED. -/
def recordFlags (f : Flg) (poisoned : Bool) : Nat := f.bits + if poisoned then 16 else 0

/-- A command completes: it leaves the sequencers, and its record is ready for its journal's ring. A
command of a recompute list hands its outcome to its COPY instead (R131, R132). -/
def Mach.complete (m : Mach) (c : Cmd) (reason detail specific : Nat) (f : Flg) (poisoned : Bool) : Mach :=
  let m := { m with
    acts := m.acts.filter fun a => decide (a.cmd.id ≠ c.id)
    received := m.received.filter fun x => decide (x.id ≠ c.id) }
  let m := if reason = rPOISON then m.bump O.POISON_FAULTS c.bay 1 else m
  let m := if reason = rRESIDUE then m.bump O.RESIDUE_FAULTS c.part 1 else m
  let m :=
    if c.id.sub ≠ 0 then
      match m.act? { c.id with sub := 0 } with
      | some a =>
        match a.work with
        | .copying w => m.setAct { a with
            flg := a.flg.or f, poisoned := a.poisoned || poisoned,
            work := .copying { w with subEnd := some (reason, detail) } }
        | _ => m
      | none => m
    else
      let src := sourceJournal c.id.journal
      let sq := m.nextSeq src
      let b := recordBytes c.commandId 1 c.opcode reason detail (recordFlags f poisoned) c.layer c.operator
        c.problem c.step (sat32 f.sats) specific c.received m.now src sq.1 c.id.seq
      sq.2.pushRec (m.obj O.J_RING c.id.journal) b (some (c.id, reason))
  m.settle

/-- A command refused at validation: nothing but its record (R239). -/
def Mach.refuse (m : Mach) (c : Cmd) (reason detail : Nat) : Mach := m.complete c reason detail 0 .none false

/-- R252: the reason of faults met while running, with its DETAIL; none where there is none. -/
def worst (faults : List (Nat × Nat)) : Option (Nat × Nat) :=
  match [rRESIDUE, rPOISON, rTILELOST, rLINK].findSome? fun r => faults.find? fun f => f.1 == r with
  | some f => some f
  | none => faults.head?

/-! ### Counters -/

/-- Tiles of a cluster that are not holes. -/
def Mach.liveTiles (m : Mach) (cluster : Nat) : List Nat :=
  ((List.range 64).map (cluster * 64 + ·)).filter fun t => !m.isHole t

/-- The counter kind a command binds, as an engine code (R117, R233, R150). -/
def Cmd.engineKind (c : Cmd) : Nat :=
  match c.opcode with
  | 1 => 0 | 2 => 1 | 3 => 2 | 6 => 4 | _ => 3

/-- The binding of R92: the lowest free counter of a cluster takes the command's range, or the command
waits for one; lent pieces of the cluster are revoked first (R266). -/
def bindCounter (id : CmdId) (cluster : Nat) (m : Mach) : Res :=
  match m.act? id with
  | none => cannot "no such command runs"
  | some a =>
    match a.toBind.find? fun r => r.1 == cluster with
    | none => cannot "the command has no range to bind in this cluster"
    | some r =>
      let used := (m.counters.filter fun k => k.cluster == cluster).map (·.num)
      let lentHere := m.lent.any fun l => l.tile / 64 == cluster
      match (List.range 8).find? fun n => !used.contains n with
      | none => .next m
      | some n =>
        if lentHere || !m.bayReady (cluster / 10) then .next m
        else
          let k : WorkCounter := ⟨cluster, n, id, a.cmd.engineKind, r.2.1, r.2.2, r.2.2 - r.2.1⟩
          .next ({ m with counters := m.counters ++ [k] }.setAct
            { a with toBind := a.toBind.filter fun x => x.1 != cluster })

/-- The counter an engine of a kind is answered by: the oldest bound with items left (R92). -/
def Mach.nextCounter (m : Mach) (cluster kind : Nat) : Option WorkCounter :=
  m.counters.find? fun k => k.cluster == cluster && k.kind == kind && decide (k.next < k.stop)

/-- Whether a command falls back with an item of a cluster left (R155). -/
def Act.fallsBackIn (a : Act) (cluster : Nat) : Bool :=
  match a.work with
  | .fallback l => l.any fun x => x.1 == cluster
  | _ => false

def Mach.fallbackLeft (m : Mach) (cluster : Nat) : Bool := m.acts.any fun a => a.fallsBackIn cluster

/-- Time during which tile watchdogs have not run: that at throttle level 16 (R438). -/
def Mach.paused (m : Mach) : Nat :=
  m.plinth.pausedNs + match m.plinth.pausedSince with
    | some t => m.now - t
    | none => 0

/-- WORK_COUNTER_REQUEST (R92, R446): a free engine takes the next item, or learns that there is none and ends its
run. An item waits for the bays whose stores it reaches, which are woken (R408). -/
def workCounterRequest (e : Nat) (m : Mach) : Res :=
  let cl := engineCluster e
  let busy := m.running.any fun r => r.engine == e
  let held := engineKind e = 4 ∧ (m.addBacks.any (fun b => b.cluster == cl) || m.fallbackLeft cl)
  if busy || decide held || !m.bayReady (engineBay e) || (engineKind e ≤ 3 && m.isHole (engineTile e)) then .next m
  else
    match m.nextCounter cl (engineKind e) with
    | none => .next (m.endRun e)
    | some k =>
      match m.act? k.cmd with
      | none => cannot "a bound counter without its command"
      | some a =>
        if !m.awake a then .next (m.wakeBays (m.actBays a)) else
        let m := { m with
          counters := m.counters.map fun (x : WorkCounter) =>
            if x.cluster = cl ∧ x.num = k.num then { x with next := x.next + 1 } else x
          running := m.running ++ [(⟨e, k.cmd, k.next⟩ : Running)]
          tileWatchdogs := if engineKind e ≤ 3 then mset m.tileWatchdogs (engineTile e) (m.now - m.paused)
            else m.tileWatchdogs }
        .next (m.startUnit e a.cmd k.next)

/-- One item of a counter is complete; a counter whose range is done is freed (R92). -/
def Mach.itemDone (m : Mach) (id : CmdId) (cluster : Nat) : Mach :=
  { m with counters := (m.counters.map fun k =>
      if k.cmd = id ∧ k.cluster = cluster then { k with left := k.left - 1 } else k).filter fun k =>
        decide (k.left ≠ 0) }

/-- Whether every counter of a command has been bound and freed (R93). -/
def Mach.allFreed (m : Mach) (a : Act) : Bool :=
  a.toBind.isEmpty && !(m.counters.any fun k => decide (k.cmd = a.cmd.id)) &&
    !(m.addBacks.any fun b => decide (b.cmd = a.cmd.id)) && !(m.running.any fun r => decide (r.cmd = a.cmd.id))

/-- The engine stops its run where it finds no more work of this command (R446). -/
def Mach.restEngine (m : Mach) (e : Nat) (c : Cmd) : Mach :=
  match m.nextCounter (engineCluster e) (engineKind e) with
  | some k => if k.cmd = c.id then m else m.endRun e
  | none => m.endRun e

/-! ### Physical errors met by reads (R286, R299) -/

def popcount9 (x : Nat) : Nat := ((List.range 9).filter fun k => x.testBit k).length

/-- A STATE byte that no line is written with: a reserved bit set, or POISON and ORIGIN that disagree (R293). -/
def stateBad (s : Nat) : Bool :=
  s % 32 != 0 || (if s / 128 % 2 = 0 then s / 32 % 4 == 1 || s / 32 % 4 == 2 else s / 32 % 4 == 0 || s / 32 % 4 == 3)

/-- The columns of a line that fail on one read, from those whose CRC fails and the STATE byte as read: a bad one counts
as a failure of the check column (R293). -/
def Mach.failing (m : Mach) (l fail flips : Nat) : Nat :=
  if stateBad (Nat.xor (m.lineMeta l).state flips) then fail ||| 256 else fail

/-- A line waits to be rewritten; the mark of a line found lost is not taken back. -/
def Mach.queueBack (m : Mach) (l : Nat) (w : WriteBack) : Mach :=
  if w = .corrected ∧ (mget m.writeBacks l).isSome then m else { m with writeBacks := mset m.writeBacks l w }

/-- R299, by the first row that applies: what a controller does with one line read, with the columns that
fail on the two reads and the outcome of the tag tests. -/
def Mach.readLine (m : Mach) (o : LineObs) (source : Nat) : Mach :=
  let l := lineOf o.addr
  let b := l / 2 ^ 28
  let ret := maskOf (m.bay b).retired
  let c1 := m.failing l o.fail1 o.state1
  let c2 := m.failing l o.fail2 o.state2
  let f1 := c1 ||| ret
  let f2 := c2 ||| ret
  let live := m.lineLive l
  let retry := if f1 = 0 then live && !m.linePoisoned l && !o.tag1
    else if f1 = 256 then !(live && o.tag1) else decide (popcount9 f1 ≥ 2)
  let f := if retry then f2 else f1
  let tag := if retry then o.tag2 else o.tag1
  -- CRC counters: once for each channel that failed and is not retired (R299)
  let failed := (List.range 9).filter fun k =>
    (c1.testBit k || (retry && c2.testBit k)) && !smem (m.bay b).retired k
  let m := failed.foldl (fun s k =>
    let y := s.bay b
    let s := s.setBay b { y with crcPeriod := y.crcPeriod.modify k (· + 1) }
    let key := (0x6030 + b * 256) * 256 + 0x10 + k
    s.setObjAt (key / 256) (key % 256) (min (s.objAt (key / 256) (key % 256) + 1) (2 ^ 32 - 1))) m
  let corrected := fun (s : Mach) =>
    (s.bump O.MEM_CORRECTED b 1)
  let lost := fun (s : Mach) (tagFail : Bool) =>
    let s := s.bump O.MEM_UNCORRECTABLE b 1
    let s := if tagFail then s.bump O.TAG_FAILS b 1 else s
    -- CHANNELS: those that failed their CRC, and the retired one (R310)
    (s.logError (if tagFail then 2 else 1) b ((if retry then c1 ||| c2 else c1) ||| ret) source (l * 256)).queueBack l
      .poison
  let m :=
    if f = 0 then
      if !live || m.linePoisoned l || tag then m else lost m true
    else if f = 256 then
      if live && tag then (corrected m).queueBack l .corrected
      else m.queueBack l .blank
    else if popcount9 f = 1 then
      -- a stale or blank line reads as zeros with no other counter (R295)
      if !live then m else if tag then (corrected m).queueBack l .corrected else lost m true
    -- where the check column passes, the epoch is read and a stale or blank line is told (log entry 111)
    else if !live && !f.testBit 8 then m
    else lost m false
  -- automatic retirement (R301)
  let limit := m.obj O.DIE_RETIRE_LIMIT 0
  failed.foldl (fun s k =>
    let y := s.bay b
    if y.retired.isEmpty && y.crcPeriod.getD k 0 ≥ limit then
      (s.setBay b { y with retired := sadd y.retired k }).logError 5 b (2 ^ k) source (l * 256)
    else s) m

/-- What a bay counts of an SRAM word read (R286), and its error-log entry (R310). -/
def Mach.countWord (m : Mach) (b : Nat) (k : WordClass) (source addr : Nat) : Mach :=
  match k with
  | .clean => m
  | .oneBit => m.bump O.SRAM_CORRECTED b 1
  | .oddWeight => (m.bump O.SRAM_UNCORRECTABLE b 1).logError 3 b 0 source addr
  | .evenWeight => ((m.bump O.SRAM_UNCORRECTABLE b 1).bump O.SRAM_ADDRESS_ERRORS b 1).logError 4 b 0 source addr

/-- R286: what an SRAM read does with a word. -/
def Mach.readWord (m : Mach) (addr : Nat) (o : WordObs) (source : Nat) : Mach :=
  let b := addrBay addr
  let s := sectorOf addr
  let word := addr / 8 * 8
  if !smem m.valid s then m
  else
    let k := wordClass (leNat ((List.range 8).map fun i => Memory.get m.mem (word + i))) (wordHash word) o
    let m := m.countWord b k source word
    match k with
    | .clean => m
    | .oneBit => { m with sramBacks := sadd m.sramBacks word }
    | _ => { m with poison := sadd m.poison s }

/-- A word of a sequencer's store, whose content is no state: its outcome depends on what the read met alone, the code
being linear. -/
def seqWordClass (o : WordObs) : WordClass := wordClass 0 0 o

def WordClass.lost (k : WordClass) : Bool := k == .oddWeight || k == .evenWeight

/-- The read of a word of a sequencer's store (R24, R286): its error-log entry names no device address, and by a read of
the sequencer itself no SOURCE that R310 lists (log entry 23). -/
def Mach.readSeqWord (m : Mach) (b : Nat) (o : WordObs) (source : Option Nat) : Mach :=
  let k := seqWordClass o
  if k.lost then
    let src := m.free
    let lo := src.2.free
    let hi := lo.2.free
    hi.2.countWord b k (source.getD (src.1 % 256)) (lo.1 + 2 ^ 32 * hi.1)
  else m.countWord b k 0 0

/-- The errors the reads of one piece of work met. -/
def Mach.meet (m : Mach) (errs : List ReadErr) : Mach :=
  errs.foldl (fun s e => match e with
    | .line o => s.readLine o 1
    | .merge o => s.readLine o 3
    | .word a o => s.readWord a o 1) m

/-- Whether a list of observations tells of a line. -/
def tellsLine (errs : List ReadErr) (l : Nat) : Bool :=
  errs.any fun e => match e with
    | .line o => lineOf o.addr == l
    | _ => false

/-- The read of a line that met nothing beyond what is held of it. -/
def plainRead (l : Nat) : LineObs := ⟨l * 256, 0, true, 0, 0, true, 0⟩

/-- The module-memory lines of some ranges, each once. -/
def linesOf (ranges : List (Nat × Nat)) : NSet :=
  ranges.foldl (fun s r =>
    if r.2 = 0 ∨ 0 < r.1 / 2 ^ 56 then s
    else (List.range ((r.1 + r.2 - 1) / 256 - r.1 / 256 + 1)).foldl (fun s i => sadd s (r.1 / 256 + i)) s) []

/-- A line read of which nothing is told: a package with a retired channel rebuilds it (R299, R301). -/
def Mach.readRetired (m : Mach) (errs : List ReadErr) (l : Nat) : Mach :=
  if (m.bay (l / 2 ^ 28)).retired.isEmpty || tellsLine errs l || (m.lentAt (l * 256)).isSome then m
  else m.readLine (plainRead l) 1

/-- Reads of ranges, with what is told of some of their lines: the lines a retired channel has rebuilt, each once, and
the lent pieces that are filled (R265, R299). -/
def Mach.touch (m : Mach) (errs : List ReadErr) (ranges : List (Nat × Nat)) : Mach :=
  ranges.foldl (fun s r => s.fillRead r.1 r.2) ((linesOf ranges).foldl (fun s l => s.readRetired errs l) m)

/-- The reads of one piece of work, with the errors they met (R286, R299; log entry 45). -/
def Mach.takeReads (m : Mach) (errs : List ReadErr) (ranges : List (Nat × Nat)) : Mach := (m.meet errs).touch errs ranges

end Sys2Proof.Machine
end

