-- ==== Sys2Proof/Machine/Journal.lean ====
section
/-! DEFINITION. Journals and completion rings (R220 to R229, R246), the fetch of entries with the common
checks (R226, R238), FENCE and WAIT (R242 to R245), and the signalling of rings (R229, R342). -/

namespace Sys2Proof.Machine

open Sys2Proof

def JState.code : JState → Nat
  | .disabled => 0 | .running => 1 | .draining => 2 | .stopped => 3

/-- The CXL link is up (R337, R366). -/
def Mach.linkUp (m : Mach) : Bool := m.obj O.LINK_STATE 0 == 1

/-- The device address of a host-memory address. -/
def hostAddr (a : Nat) : Nat := hostBase + a % 2 ^ 56

/-! ### What a journal has in flight (R224) -/

/-- The commands of a journal started and not completed: with a sequencer, running, or with their record
still to be written. -/
def Mach.inFlight (m : Mach) (j : Nat) : List CmdId :=
  (m.received.map (·.id) ++ m.acts.map (·.cmd.id) ++ m.ready.filterMap fun r => r.cmd.map (·.1)).filter
    fun i => i.journal == j && i.sub == 0

def Mach.inFlightAll (m : Mach) : Nat :=
  ((List.range 64).map fun j => (m.inFlight j).length).foldl (· + ·) 0

/-- A WAIT of the journal is still to complete (R244). -/
def Mach.waitPending (m : Mach) (j : Nat) : Bool :=
  m.received.any (fun c => c.id.journal == j && c.opcode == 10) ||
    m.acts.any (fun a => a.cmd.id.journal == j && a.cmd.opcode == 10) ||
    m.ready.any fun r => match r.cmd with
      | some c => c.1.journal == j && fld r.bytes 4 1 % 128 == 1 && fld r.bytes 5 1 == 10
      | none => false

/-- Whether a journal's next entry may be fetched (R222, R224, R228, R244, R411). -/
def Mach.mayFetch (m : Mach) (j : Nat) : Bool :=
  let x := m.journal j
  x.state == .running && decide (x.consumed < x.produce) && x.held.isNone && !m.waitPending j &&
    decide ((m.inFlight j).length < 64) && decide (m.inFlightAll < 1024) &&
    !m.ringStalled (m.obj O.J_RING j) && m.modState == .run && m.plinth.draining.isNone && m.linkUp &&
    (mget m.plinth.pllLost 0).isNone

/-- The journal a partition's sequencer serves next: the first after the last one served (R224). -/
def Mach.nextJournal (m : Mach) (p : Nat) : Option Nat :=
  let js := (List.range 64).filter fun j => m.obj O.J_PARTITION j == p && m.mayFetch j
  let last := mgetD m.turn p 63
  match js.find? fun j => decide (last < j) with
  | some j => some j
  | none => js.head?

/-! ### The status line (R221, R225) -/

def statusBytes (x : Journal) : Bytes := leBytes 8 x.consumed ++ leBytes 8 x.completed ++ zerosB 48

def Mach.writeStatus (m : Mach) (j : Nat) : Mach :=
  let x := m.journal j
  (m.wr (hostAddr (m.obj O.J_STATUS j)) (statusBytes x) false).setJournal j { x with statusDue := false }

/-- STATUS_LINE_WRITE (R225). -/
def statusLineWrite (j : Nat) (m : Mach) : Res :=
  if (m.journal j).statusDue && m.linkUp then .next (m.writeStatus j) else .next m

/-! ### Stops (R246) -/

/-- A RUNNING journal stops with a reason, and the partition's ring has its event. -/
def Mach.stopJournal (m : Mach) (j reason : Nat) : Mach :=
  let x := m.journal j
  if x.state = .running then
    let p := m.obj O.J_PARTITION j
    let m := (m.setJournal j { x with state := .stopped }).setObj O.J_STOP_REASON j reason
    m.event (sourcePart p) (m.obj O.EVENT_RING p) 2 reason (j % 64) 0 0 x.consumed
  else m

/-- PRODUCE as read (R246). -/
def Mach.takeProduce (m : Mach) (j produce : Nat) : Mach :=
  let x := m.journal j
  if x.state ≠ .running then m
  else if produce < x.consumed then m.stopJournal j rFIELD
  else if produce > x.consumed + m.obj O.J_SIZE j then m.stopJournal j rBOUND
  else m.setJournal j { x with produce := produce }

/-- A line of host memory the host has just stored: its bytes, poisoned or not. -/
def Mach.hostStored (m : Mach) (a : Nat) (rd : HostRead) : Mach :=
  match rd with
  | .ok d p => m.wr (hostAddr a) (bytesAt d 0 64) p
  | .fail => m

/-! ### The device cache (R222, R227, R344; log entry 128) -/

/-- The places of a journal's control line and of a ring's consumer line. -/
def controlSlot (j : Nat) : Nat := j
def consumerSlot (r : Nat) : Nat := 64 + r

/-- A line as read takes its place in the cache; a store of the host invalidates it. -/
def Mach.cacheLine (m : Mach) (k : Nat) (d : Bytes) : Mach := { m with devCache := mset m.devCache k (bytesAt d 0 64) }
def Mach.dropLine (m : Mach) (k : Nat) : Mach := { m with devCache := mdel m.devCache k }

/-- A journal becomes DISABLED: a command its FENCE holds never starts (R242), and its control line is no longer kept
(R222, R246). -/
def Mach.closeJournal (m : Mach) (j : Nat) : Mach :=
  (m.setJournal j { m.journal j with state := .disabled, held := none }).dropLine (controlSlot j)

/-- A ring is disabled: its consumer line is no longer kept (R227). -/
def Mach.closeRing (m : Mach) (r : Nat) : Mach := (m.setObj O.C_ENABLE r 0).dropLine (consumerSlot r)

/-- A read of a journal's lines or entries that fails on the link, or delivers poison (R345, R346, R246;
log entry 15). -/
def Mach.hostReadFailed (m : Mach) (poison : Bool) : Mach :=
  if poison then m.bump O.POISON_IN 0 1 else m.bump O.LINK_FAILS 0 1

/-- CONTROL_LINE_INVALIDATE (R222): the host's store invalidates the cached line, and the sequencer of a RUNNING journal
reads it again. -/
def controlLineInvalidate (j : Nat) (rd : HostRead) (m : Mach) : Res :=
  let m := (m.hostStored (m.obj O.J_CONTROL j) rd).dropLine (controlSlot j)
  if (m.journal j).state ≠ .running then .next m
  else
    match rd with
    | .ok d false => .next ((m.cacheLine (controlSlot j) d).takeProduce j (fld d 0 8))
    | .ok d true => .next (((m.cacheLine (controlSlot j) d).hostReadFailed true).stopJournal j rLINK)
    | .fail => .next ((m.hostReadFailed false).stopJournal j rLINK)

/-! ### Hand-over to the executing sequencer (R226, R230, R238, R245) -/

/-- The address of a handle's problem plus an offset, as the journal sequencer finds the bay that executes
a command. -/
def Mach.handleAddr (m : Mach) (c : Cmd) (o add : Nat) : Nat :=
  let h := (m.readHandle c.part (c.f o 4)).1
  h.at_ c.problem + add

/-- The bay of an address that has one, else the journal sequencer's (log entry 11). -/
def bayOr (a d : Nat) : Nat :=
  match tierOf a with
  | some .host => d
  | some _ => addrBay a
  | none => d

/-- The bay of the executing sequencer (R230, log entry 11). -/
def Mach.execBay (m : Mach) (c : Cmd) : Nat :=
  let own := (m.part c.part).bays.headD 0
  match c.opcode with
  | 1 | 2 | 3 | 4 | 5 | 6 => if c.spanFirst < 160 then c.spanFirst / 10 else own
  | 7 | 8 | 14 => c.chain.headD own
  | 9 => if c.multicastFlag then (if c.spanFirst < 160 then c.spanFirst / 10 else own)
    else bayOr (m.handleAddr c 36 (c.f 26 6)) (bayOr (m.handleAddr c 32 (c.f 20 6)) own)
  | 12 => bayOr (m.handleAddr c 32 0) own
  | 13 => bayOr (m.handleAddr c 32 0) own
  | _ => own

/-- The rows of R245 the journal sequencer tests; an entry that reads poisoned gives no format, and its command goes on
to its validation, which ends with POISON (R240). -/
def Mach.stateRow (m : Mach) (c : Cmd) : Option Nat :=
  let p := c.part
  let form := c.opflags % 4
  let tj := c.f 20 1
  let ts := c.f 21 6
  let scaled := m.obj O.SCALE_ENABLE p == 1
  if c.opcode = 11 ∧ !scaled then some 1
  else if c.opcode = 4 ∧ !scaled ∧ (m.readHandle p (c.f 36 4)).2.2 = false ∧
      [0, 1, 3].contains (m.readHandle p (c.f 36 4)).1.fmt then some 1
  else if c.opcode = 8 ∧ (c.chain.any fun b => decide (m.now < (m.bay b).updReset)) then some 2
  else if c.opcode = 10 ∧ form = 2 ∧
      !(m.obj O.PS_ENABLE 0 == 1 && m.obj O.PS_ROLE 0 == 1 && m.obj O.PS_PARTITION 0 == p) then some 3
  else if c.opcode = 10 ∧ form = 1 ∧ (m.journal tj).state ≠ .running ∧ (m.journal tj).consumed ≤ ts then some 4
  else if c.opcode = 10 ∧ form = 1 ∧ tj = c.id.journal ∧ c.id.seq ≤ ts then some 6
  else none

/-- The common checks (R238): reason and DETAIL of the first that fails. -/
def Mach.commonCheck (m : Mach) (c : Cmd) : Option (Nat × Nat) :=
  match firstBad (fieldTests c ++ handleTests m c) with
  | some o => some (rFIELD, o)
  | none =>
    match m.stateRow c with
    | some row => some (rSTATE, row)
    | none =>
      if (c.opcode = 12 ∨ c.opcode = 13 ∨ c.opcode = 14) ∧ (m.part c.part).confidential ∧
          m.obj O.BOUNCE_ENABLE c.part ≠ 1 then some (rKEY, 0xFF)
      -- OP or MODE of no row, the first thing its own chapter checks (R149, R192, R180)
      else if (rowOf c).isNone then some (rFIELD, 31)
      else none

/-- The command of an entry, as its executing sequencer receives it now. -/
def Mach.cmdOf (m : Mach) (id : CmdId) (part : Nat) (desc : Bytes) : Cmd :=
  let c : Cmd := ⟨id, part, desc, 0, m.now, m.obj O.SR_SEED part⟩
  { c with bay := m.execBay c }

/-- Bays that a command names are woken (R408). -/
def Mach.wakeFor (m : Mach) (c : Cmd) : Mach := m.wakeBays (m.cmdBays c)

/-- A command that passes the common checks joins its executing sequencer's queue; one that fails
completes with the reason. -/
def Mach.handOver (m : Mach) (c : Cmd) : Mach :=
  match m.commonCheck c with
  | some r => m.refuse c r.1 r.2
  | none => { m with received := m.received ++ [c] }.wakeFor c

/-- The host address of the slot of a sequence number (R221). -/
def Mach.slotAddr (m : Mach) (j seq : Nat) : Nat := m.obj O.J_BASE j + seq % max 1 (m.obj O.J_SIZE j) * 64

/-- ENTRY_FETCH (R221, R223, R224, R226): the next entry of the journal whose turn it is, read once from its slot as
the host has stored it there. -/
def entryFetch (j : Nat) (rd : HostRead) (m : Mach) : Res :=
  let p := m.obj O.J_PARTITION j
  if m.nextJournal p ≠ some j then .next m
  else
    let m := m.hostStored (m.slotAddr j (m.journal j).consumed) rd
    match rd with
    | .fail => .next ((m.hostReadFailed false).stopJournal j rLINK)
    | .ok _ true =>
      -- a poisoned descriptor is not consumed (R304): its command is refused, its fields open (log entry 15)
      let x := m.journal j
      let desc := (List.range 64).map fun i => Config.poisonByte i m.freeCount
      let c : Cmd := ⟨⟨j, x.consumed, 0⟩, p, desc, (m.part p).bays.headD 0, m.now, m.obj O.SR_SEED p⟩
      let m := { (m.hostReadFailed true) with turn := mset m.turn p j, freeCount := m.freeCount + 1 }
      .next ((m.setJournal j { x with consumed := x.consumed + 1, statusDue := true }).refuse c rPOISON 0xFF)
    | .ok d false =>
      let x := m.journal j
      let c := m.cmdOf ⟨j, x.consumed, 0⟩ p (bytesAt d 0 64)
      let fenced := (c.f 1 1).testBit 0 && !(m.inFlight j).isEmpty
      let x := { x with consumed := x.consumed + 1, statusDue := true, held := if fenced then some c else none }
      let m := { m.setJournal j x with turn := mset m.turn p j }
      .next (if fenced then m else m.handOver c)

/-- FENCE_RELEASE (R244): the command held by FENCE starts once nothing of its journal is in flight. -/
def fenceRelease (j : Nat) (m : Mach) : Res :=
  let x := m.journal j
  match x.held with
  | none => .next m
  | some c =>
    if !(m.inFlight j).isEmpty || x.state == .disabled then .next m
    else .next ((m.setJournal j { x with held := none }).handOver (m.cmdOf c.id c.part c.desc))

/-! ### A descriptor's own row -/

/-- The oldest command a bay sequencer has received and not validated (R242). -/
def Mach.oldest (m : Mach) (bay : Nat) : Option Cmd := m.received.find? fun c => c.bay == bay

/-- The handle entries that the sequencer reads for a command (R236, R240). -/
def Mach.entryReads (m : Mach) (c : Cmd) : List (Nat × Nat) :=
  ((handleFields c).filter fun o => c.f o 4 != 0).map fun o => (m.obj O.HANDLE_TABLE c.part + c.f o 4 * 64, 64)

/-- A descriptor row runs a meaning on a received command of its kind, in the order received (R242), after what its
reads met. While the core PLL is not locked, or the module is not in RUN, nothing starts (R395). -/
def descRow (kind : Nat × Nat) (id : CmdId) (errs : List ReadErr) (k : Cmd → Mach → Res) (m : Mach) : Res :=
  match m.received.find? fun c => decide (c.id = id) with
  | none => cannot "no such command has been received"
  | some c =>
    if rowOf c ≠ some kind then cannot "the command is of another row"
    else if ((m.oldest c.bay).map (·.id)) ≠ some id then .next m
    else if m.modState ≠ .run ∨ (mget m.plinth.pllLost 0).isSome then .next m
    else k c (m.takeReads errs (m.entryReads c))

/-- A command that has passed its validation runs. -/
def Mach.launch (m : Mach) (a : Act) : Mach :=
  { m with received := m.received.filter fun c => decide (c.id ≠ a.cmd.id), acts := m.acts ++ [a] }

def Act.of (c : Cmd) (w : Work) : Act :=
  { cmd := c, handles := [], values := [], freeze := [], work := w, toBind := [], flg := .none,
    poisoned := false, faults := [], fellBack := 0, losses := [] }

/-- A command that needs a host access while the link is down ends with LINK (R251, R345). -/
def Mach.linkFault (m : Mach) (c : Cmd) (detail : Nat) : Mach := (m.bump O.LINK_FAILS 0 1).refuse c rLINK detail

/-- A read of host memory that a validation is about to make, while the link is down (R345; log entry 31). -/
def needLink (m : Mach) (c : Cmd) (hs : SMap Handle) (fs : List Nat) : Chk Unit :=
  match hs.find? fun x => fs.contains (x.1 % 64) &&
      (isHost (x.2.at_ c.problem) || (x.2.scale != 0 && isHost (x.2.scaleAt c.problem))) with
  | some x => need m.linkUp rLINK (x.1 % 64)
  | none => pure ()

/-- A command that its validation ends (R239, R345, R346). -/
def Mach.refuseChecked (m : Mach) (c : Cmd) (r : Nat × Nat) : Mach :=
  if r.1 = rLINK then m.linkFault c r.2
  else
    let m := if r.1 = rPOISON then
        match readHandles m c (handleFields c) with
        | .ok hs => m.countPoisonedField hs c.problem r.2
        | .error _ => m
      else m
    m.refuse c r.1 r.2

/-- A validation as a command's whole answer. -/
def Mach.startOr (m : Mach) (c : Cmd) (r : Chk Act) : Res :=
  match r with
  | .error e => .next (m.refuseChecked c e)
  | .ok a => .next (m.launch a)

/-! ### WAIT (R244) -/

/-- Whether the command with a sequence number of a journal has written its record. -/
def Mach.hasCompleted (m : Mach) (j s : Nat) : Bool :=
  decide (s < (m.journal j).consumed) && !((m.inFlight j).any fun i => i.seq == s) &&
    (match (m.journal j).held with | some c => c.id.seq != s | none => true)

/-- SPECIFIC of a WAIT COMMAND: its target's reason code; a free value for a sequence number no command of the
journal has completed with (log entry 2). -/
def Mach.targetReason (m : Mach) (j s : Nat) : Nat × Mach :=
  match mget (m.journal j).reasons s with
  | some r => (r, m)
  | none => let f := m.free; (f.1 % 256, f.2)

/-- A running WAIT ALL_EARLIER or COMMAND completes where its condition holds. -/
def Mach.tryWait (m : Mach) (c : Cmd) : Mach :=
  if c.opflags % 4 = 0 then
    if (m.inFlight c.id.journal).any fun i => decide (i.seq < c.id.seq) then m
    else m.complete c 0 0 0 .none false
  else if c.opflags % 4 = 1 then
    if m.hasCompleted (c.f 20 1) (c.f 21 6) then
      let r := m.targetReason (c.f 20 1) (c.f 21 6)
      r.2.complete c 0 0 r.1 .none false
    else m
  else m

/-- Every running WAIT looks again. -/
def Mach.tryWaits (m : Mach) : Mach :=
  (m.acts.filter fun a => a.cmd.opcode == 10).foldl (fun s a => s.tryWait a.cmd) m

/-- ALL_EARLIER. -/
def waitAllEarlier (id : CmdId) (m : Mach) : Res :=
  descRow (10, 0) id [] (fun c m => .next ((m.launch (.of c (.waiting [] [] []))).tryWait c)) m

/-- COMMAND: a target in another partition's journal is refused. -/
def waitCommand (id : CmdId) (m : Mach) : Res :=
  descRow (10, 1) id [] (fun c m =>
    if m.obj O.J_PARTITION (c.f 20 1) ≠ c.part then .next (m.refuse c rPARTITION 20)
    else .next ((m.launch (.of c (.waiting [] [] []))).tryWait c)) m

/-- WAIT_TIMEOUT (R244, R245 row 0x05). -/
def waitTimeout (id : CmdId) (m : Mach) : Res :=
  match m.act? id with
  | none => cannot "no such command runs"
  | some a =>
    if a.cmd.opcode ≠ 10 then cannot "the command is not a WAIT"
    else if a.cmd.f 32 4 = 0 then cannot "the WAIT has no TIMEOUT"
    else
      let m := m.upTo (a.cmd.received + a.cmd.f 32 4)
      .next (m.complete a.cmd rSTATE 5 0 .none false)

/-! ### Rings (R227 to R229) -/

/-- The function whose vectors a ring names (R342): 0 for PF0, n for VFn. -/
def Mach.ringFunction (m : Mach) (r : Nat) : Nat :=
  let p := m.obj O.C_PARTITION r
  if p < 16 then p + 1 else 0

/-- A function's vector is signalled: its message is written, or it becomes pending while masked. -/
def Mach.signalVector (m : Mach) (fn v : Nat) : Mach :=
  let k := fn * 2048 + v
  let e := mgetD m.msix k .reset
  if e.masked then { m with msix := mset m.msix k { e with pending := true } }
  else if m.obj O.LINK_STATE 0 ≠ 1 ∧ m.obj O.LINK_STATE 0 ≠ 2 then m
  else m.wr (hostAddr e.addr) (leBytes 4 e.data) false

/-- A ring's vector is signalled, and its moderation begins again (R229). -/
def Mach.signalRing (m : Mach) (r : Nat) : Mach :=
  let m := m.setRing r { m.ringOf r with unsignalled := 0 }
  if m.obj O.C_MSIX r = 0xFFFF then m else m.signalVector (m.ringFunction r) (m.obj O.C_MSIX r)

/-- What the record of a command does to its journal (R221, R246). -/
def Mach.recordWritten (m : Mach) (id : CmdId) (reason : Nat) : Mach :=
  let x := m.journal id.journal
  let m := m.setJournal id.journal { x with
    completed := x.completed + 1, statusDue := true, reasons := mset x.reasons id.seq reason }
  let x := m.journal id.journal
  let m := if x.state = .draining ∧ (m.inFlight id.journal).isEmpty then
      (m.closeJournal id.journal).writeStatus id.journal
    else m
  m.tryWaits

/-- A record is written to its ring's next entry with its PHASE, the ring's vector is signalled where it is due, and
the journal learns that its command has completed (R228, R229, R244). -/
def Mach.writeRec (m : Mach) (r : Nat) (x : Rec) : Mach :=
  let w := m.obj O.C_WRITTEN r
  let size := m.obj O.C_SIZE r
  let phase := (w / size + 1) % 2
  let b := patch x.bytes 4 (leBytes 1 (fld x.bytes 4 1 % 128 + phase * 128))
  let m := m.wr (hostAddr (m.obj O.C_BASE r + w % size * 64)) b false
  let m := m.bump O.C_WRITTEN r 1
  let g := m.ringOf r
  let m := m.setRing r { g with unsignalled := g.unsignalled + 1
                                firstAt := if g.unsignalled = 0 then m.now else g.firstAt }
  let m := if m.obj O.C_MOD_COUNT r ≤ g.unsignalled + 1 then m.signalRing r else m
  match x.cmd with
  | some c => m.recordWritten c.1 c.2
  | none => m

/-- The records ready for a full ring wait for it, each counted once (R228). -/
def Mach.stallAll (m : Mach) (r : Nat) : Mach :=
  let n := (m.ready.filter fun x => x.ring == r && !x.stalled).length
  { m with ready := m.ready.map fun (x : Rec) => if x.ring = r then { x with stalled := true } else x }.bump O.C_STALLS r n

/-- The consumer line of a ring as the host has stored it: read again where the cache does not hold it (R227, R347); a
poisoned line gives no new CONSUMED (R346). -/
def Mach.readConsumer (m : Mach) (r : Nat) : Mach :=
  let a := hostAddr (m.obj O.C_CONSUMER r)
  if (mget m.devCache (consumerSlot r)).isSome then m
  else
    let bad := m.rdPoison a 8
    let d := m.rd a 64
    let m := m.cacheLine (consumerSlot r) d
    if bad then m.hostReadFailed true else m.setRing r { m.ringOf r with consumed := fld d 0 8 }

/-- COMPLETION_RECORD (R228, R229): the oldest record ready for a ring is written, or waits for room. -/
def completionRecord (r : Nat) (m : Mach) : Res :=
  match m.ready.find? fun x => x.ring == r with
  | none => .next m
  | some x =>
    let rest := m.ready.filter fun y => decide (y ≠ x)
    if !m.ringOn r then
      -- an event whose ring is not enabled is not written (R250); a completion waits for its ring
      match x.cmd with
      | none => .next { m with ready := rest }
      | some _ => .next m
    else if !m.linkUp then .next m
    else
      let m := m.readConsumer r
      if m.ringFull r then .next (m.stallAll r)
      else .next ({ m with ready := rest }.writeRec r x)

/-- CONSUMER_LINE_UPDATE (R227): the host's store invalidates the cached line, and the module reads it again while the
link is up. -/
def consumerLineUpdate (r : Nat) (rd : HostRead) (m : Mach) : Res :=
  let m := (m.hostStored (m.obj O.C_CONSUMER r) rd).dropLine (consumerSlot r)
  if !m.ringOn r || !m.linkUp then .next m
  else
    match rd with
    | .ok d false =>
      let m := m.cacheLine (consumerSlot r) d
      .next (m.setRing r { m.ringOf r with consumed := fld d 0 8 })
    | .ok d true => .next ((m.cacheLine (consumerSlot r) d).hostReadFailed true)
    | .fail => .next (m.hostReadFailed false)

/-- MSIX_MODERATION_TIMEOUT (R229): C_MOD_NS after the first record not yet signalled. -/
def msixModerationTimeout (r : Nat) (m : Mach) : Res :=
  let g := m.ringOf r
  if g.unsignalled = 0 ∨ m.obj O.C_MOD_NS r = 0 ∨ m.obj O.C_MSIX r = 0xFFFF then .next m
  else .next ((m.upTo (g.firstAt + m.obj O.C_MOD_NS r)).signalRing r)

end Sys2Proof.Machine
end

