-- ==== Sys2Proof/Machine/Product.lean ====
section
/-! DEFINITION. The forward and backward products (R83 to R126), outlier add-back (R151), fall-back (R152 to
R157) and the recipe alarm (R159, R160). -/

namespace Sys2Proof.Machine

open Sys2Proof

/-! ### Shapes (R107): operand A streams, operand B is stationary; A's handle is at 32, B's at 36 -/

def Cmd.pM (c : Cmd) : Nat := c.f 20 3
def Cmd.pK (c : Cmd) : Nat := c.f 23 3
def Cmd.pN (c : Cmd) : Nat := c.f 26 3

/-- Stored shape of the operand at an offset. -/
def opShape (c : Cmd) (o : Nat) : Nat × Nat :=
  match c.opcode, o with
  | 1, 32 => (c.pM, c.pK)
  | 1, _ => (c.pK, c.pN)
  | 2, 32 => (c.pM, c.pN)
  | 2, _ => (c.pK, c.pN)
  | _, 32 => (c.pM, c.pK)
  | _, _ => (c.pM, c.pN)

/-- Output shape and contraction length. -/
def outShape (c : Cmd) : Nat × Nat :=
  match c.opcode with
  | 1 => (c.pM, c.pN)
  | 2 => (c.pM, c.pK)
  | _ => (c.pK, c.pN)

def contraction (c : Cmd) : Nat :=
  match c.opcode with
  | 1 => c.pK
  | 2 => c.pN
  | _ => c.pM

/-- The operand read through the transposer: W of PRODUCT_DX, X of PRODUCT_DW. -/
def isTransposed (c : Cmd) (o : Nat) : Bool := (c.opcode == 2 && o == 36) || (c.opcode == 3 && o == 32)

/-- The offset of the operand that is not the gradient. -/
def otherOperand (c : Cmd) : Nat := if c.opcode = 3 then 32 else 36

/-- Channels of a U4 operand's side vector, or lines of a line-sum vector: X has M, W has N in a forward
product; the output axis in a backward one. -/
def vectorEntries (c : Cmd) (o : Nat) : Nat :=
  match c.opcode with
  | 1 => if o = 32 then c.pM else c.pN
  | 2 => c.pK
  | _ => c.pK

/-! ### Validation (R87, R88, R115) -/

/-- A buffer: offset of its field, address, bytes it has, bytes needed. -/
structure Buf where
  off : Nat
  addr : Nat
  have_ : Nat
  needs : Nat
  deriving DecidableEq, Repr

/-- Whether a buffer lies in the store of a hole (R441). -/
def Mach.inHole (m : Mach) (a : Nat) : Bool := tierOf a == some .tile && m.isHole (addrUnit a)

/-- R87 check 2: the work area in every cluster store of the span belongs to the partition; a trace region belongs to
none while tracing (R453). Tile stores belong with their bays. -/
def areasBelong (m : Mach) (c : Cmd) : Bool :=
  decide (6 < c.opcode) || c.clusterArea.2 == 0 ||
    c.span.all fun k => m.belongs c.part (clusterAddr k c.clusterArea.1) c.clusterArea.2

/-- A confidential partition's host data travels in sealed frames, by COPY, DUMP, EXPORT and IMPORT alone: a buffer
that an engine would reach in host memory in the clear has no key (R376; log entry 124). -/
def Mach.noClear (m : Mach) (p : Nat) (bs : List Buf) : Chk Unit :=
  need (!((m.part p).confidential && bs.any fun b => isHost b.addr)) rKEY 0xFF

/-- Checks 2 and 3 of R87 over the buffers and work areas of a command. -/
def checkBufs (m : Mach) (c : Cmd) (bs : List Buf) : Chk Unit := do
  bs.forM fun b => need (m.belongs c.part b.addr b.have_) rPARTITION b.off
  need (areasBelong m c) rPARTITION 60
  m.noClear c.part bs
  bs.forM fun b => need (!m.inHole b.addr) rTILELOST 0xFF
  bs.forM fun b => need (decide (b.needs ≤ b.have_)) rBOUND b.off

/-- A handle that must be present (FIELD otherwise), its addresses legal (R257). -/
def mustHave (hs : SMap Handle) (c : Cmd) (o : Nat) : Chk Handle :=
  match mget hs o with
  | none => .error (rFIELD, o)
  | some h => if h.addrOk c.problem then .ok h else .error (rFIELD, o)

def isU4 (h : Handle) : Bool := h.fmt == 2

/-- Whether an operand needs its vector (R86, R114). -/
def vectorNeeded (c : Cmd) (o : Nat) (this other : Handle) : Bool :=
  if c.opcode = 1 then isU4 this || isU4 other else o == otherOperand c && isU4 this

/-- Whether the tensor scale of an operand is read from its scale word (R85). -/
def readsScale (h : Handle) : Bool := !isU4 h && h.scale != 0

/-- Pages of an operand. -/
def opPages (c : Cmd) (o : Nat) : Nat := pagesOf (gridBlocks (opShape c o).1 (opShape c o).2)

/-- R59, R80, R112: whether the tag `t` of a page is allowed, given the first page's tag. -/
def tagOk (c : Cmd) (o fmt first t : Nat) : Bool :=
  let rot := bits t 3 3
  let axis := bits t 2 1
  bits t 6 2 == fmt && rot ≤ 4 && t / 4 == first / 4 &&
    (if c.opcode = 1 then axis == (if o = 32 then 0 else 1)
     else if o ≠ otherOperand c then rot == 0
     else if fmt = 2 then rot == 0 && axis == (if c.opcode = 2 then 0 else 1)
     else rot == 0 || axis == (if c.opcode = 2 then 1 else 0))

/-- The tags of an operand's pages. -/
def pageTags (m : Mach) (base pages : Nat) : List Nat :=
  (List.range pages).map fun i => (m.rdByte (tagAddr base i)).toNat

def tagsPoisoned (m : Mach) (base pages : Nat) : Bool :=
  (List.range pages).any fun i => m.rdPoison (tagAddr base i / 32 * 32) 32

/-- R124: bytes of a freeze map with its bits. -/
def mapBytes (mode rb cb : Nat) : Nat := 32 + (if mode = 1 then ceilDiv rb 8 else ceilDiv (rb * cb) 8)

/-- The freeze bit of block (I, J). -/
def frozenBit (map : Bytes) (i j : Nat) : Bool :=
  let b := if fld map 4 1 = 1 then i else i * fld map 12 4 + j
  (map.getD (32 + b / 8) 0).toNat.testBit (b % 8)

/-- R124: the header of a map against a view of `rb` × `cb` blocks and a tensor identifier. -/
def mapHeaderOk (map : Bytes) (rb cb tensor : Nat) : Bool :=
  (fld map 4 1 == 1 || fld map 4 1 == 2) && fld map 8 4 == rb && fld map 12 4 == cb && fld map 0 4 == tensor

/-- R125: groups of `n / 8` block rows are frozen whole. A code that names no rotation groups nothing. -/
def wholeGroups (map : Bytes) (rot rb cb : Nat) : Bool :=
  if rot = 0 ∨ 4 < rot then true
  else
    let g := 2 ^ rot
    let cols := if fld map 4 1 = 1 then [0] else List.range cb
    cols.all fun j => (List.range rb).all fun i => frozenBit map i j == frozenBit map (i / g * g) j

/-- Resources (R89, R116): the code of the first need that does not fit. -/
def productResources (c : Cmd) (csNeed caps : Nat) : Chk Unit := do
  let p := min c.itemRows 512
  let kb := blocksOf (contraction c)
  need (decide (64 * p + (16 * p + p / 2) + 66 * kb + 2048 ≤ c.tileArea.2)) rRESOURCE 1
  need (decide (csNeed ≤ c.clusterArea.2)) rRESOURCE 2
  need (decide (caps ≤ 32768)) rRESOURCE 3

def optBuf (h : Option Handle) (p off needs : Nat) : List Buf :=
  match h with
  | some h => [⟨off, h.at_ p, h.bytes, needs⟩]
  | none => []

/-- Validation of a product: the handles and values it holds from then on, or the failed check. The fields of the
descriptor are tested first, then every handle entry is read, and only then is what handles need tested (log entry
10). -/
def validateProduct (m : Mach) (c : Cmd) : Chk Act := do
  let p := c.problem
  -- check 1
  need (c.opcode == 1 || c.gradient) rFIELD 2
  need (count24 c.pM) rFIELD 20
  need (count24 c.pK) rFIELD 23
  need (count24 c.pN) rFIELD 26
  checkSpan c 29
  let hs ← readHandles m c (handleFields c)
  let a ← mustHave hs c 32
  let b ← mustHave hs c 36
  for o in [32, 36] do
    let t := if o = 32 then a else b
    let u := if o = 32 then b else a
    need ((mget hs (o + 64)).isSome == vectorNeeded c o t u) rFIELD o
    need (t.at_ p % 1024 == 0) rFIELD o
    need (t.scale == 0 || (tierOf (t.scaleAt p)).isSome) rFIELD o
    for k in [o + 64, o + 128] do
      match mget hs k with
      | some h => need (h.addrOk p) rFIELD o
      | none => pure ()
  let y ← mustHave hs c 40
  for o in [44, 48] do
    need (!c.fallbackOk || (mget hs o).isSome) rFIELD o
    match mget hs o with
    | some h => need (!c.fallbackOk || h.addrOk p) rFIELD o
    | none => pure ()
  let frz := if c.opcode = 3 then mget hs 52 else none
  match frz with
  | some h => need (h.addrOk p) rFIELD 52
  | none => pure ()
  need (spanBelongs m c) rPARTITION 29
  -- checks 2 and 3
  let out := outShape c
  let yb := (y.format.map (·.bytes)).getD 4
  let side := fun (o : Nat) (t : Handle) => optBuf (mget hs (o + 64)) p o
    (vectorEntries c o * (if isU4 t then 16 else 4))
  let shadow := fun (o s : Nat) => if c.fallbackOk then
    optBuf (mget hs s) p s ((opShape c o).1 * (opShape c o).2 * 2) else []
  let scales := fun (o : Nat) (t : Handle) =>
    if readsScale t ∨ (isU4 t ∧ c.fallbackOk ∧ t.scale ≠ 0) then
      [(⟨o, t.scaleAt p, if c.fallbackOk then 8 else 4, 0⟩ : Buf)] else []
  checkBufs m c
    ([⟨32, a.at_ p, a.bytes, opPages c 32 * 1024⟩, ⟨36, b.at_ p, b.bytes, opPages c 36 * 1024⟩] ++
      side 32 a ++ side 36 b ++ optBuf (mget hs (32 + 128)) p 32 32 ++ optBuf (mget hs (36 + 128)) p 36 32 ++
      scales 32 a ++ scales 36 b ++ shadow 32 44 ++ shadow 36 48 ++ optBuf frz p 52 32 ++
      [⟨40, y.at_ p, y.bytes, out.1 * out.2 * yb⟩])
  -- check 4: formats
  need (decide (a.fmt ≤ 3) && (c.opcode != 2 || a.fmt == 3)) rFORMAT 32
  need (decide (b.fmt ≤ 3) && (c.opcode != 3 || b.fmt == 3)) rFORMAT 36
  need (y.fmt == 9 || y.fmt == 7) rFORMAT 40
  for o in [44, 48] do
    match mget hs o with
    | some h => need (!c.fallbackOk || h.fmt == 7) rFORMAT o
    | none => pure ()
  needLink m c hs [32, 36, 52]
  -- the read pass, poison first
  for o in [32, 36] do
    let t := if o = 32 then a else b
    need (!tagsPoisoned m (t.at_ p) (opPages c o)) rPOISON o
    need (!(readsScale t && m.rdPoison (t.scaleAt p) 4)) rPOISON o
    need (!(c.fallbackOk && t.scale != 0 && m.rdPoison (t.scaleAt p + 4) 4)) rPOISON o
    match mget hs (o + 128) with
    | some l => need (!m.rdPoison (l.at_ p) 32) rPOISON o
    | none => pure ()
  let mapB := match frz with
    | some h => let hd := m.rd (h.at_ p) 32
        m.rd (h.at_ p) (min h.bytes (mapBytes (fld hd 4 1) (blocksOf c.pK) (blocksOf c.pN)))
    | none => []
  match frz with
  | some h => need (!m.rdPoison (h.at_ p) mapB.length) rPOISON 52
  | none => pure ()
  let tagsA := pageTags m (a.at_ p) (opPages c 32)
  let tagsB := pageTags m (b.at_ p) (opPages c 36)
  let hdr := fun (o : Nat) => match mget hs (o + 128) with
    | some l => some (m.rdNat (l.at_ p + 12) 4, m.rdNat (l.at_ p + 16) 4, l.bytes)
    | none => none
  for o in [32, 36] do
    match hdr o with
    | some x => need (decide (x.2.1 ≤ x.1) && x.1 != 0xFFFFFFFF) rFIELD o
    | none => pure ()
  match frz with
  | some _ =>
    need (mapHeaderOk mapB (blocksOf c.pK) (blocksOf c.pN) y.tensor &&
      wholeGroups mapB (bits (tagsA.headD 0) 3 3) (blocksOf c.pK) (blocksOf c.pN)) rFIELD 52
  | none => pure ()
  for o in [32, 36] do
    match hdr o with
    | some x => need (decide (32 + 8 * x.1 ≤ x.2.2)) rBOUND o
    | none => pure ()
  match frz with
  | some h => need (decide (mapBytes (fld mapB 4 1) (blocksOf c.pK) (blocksOf c.pN) ≤ h.bytes)) rBOUND 52
  | none => pure ()
  need (tagsA.all (tagOk c 32 a.fmt (tagsA.headD 0))) rFORMAT 32
  need (tagsB.all (tagOk c 36 b.fmt (tagsB.headD 0))) rFORMAT 36
  need (c.opcode != 1 || bits (tagsA.headD 0) 3 3 == bits (tagsB.headD 0) 3 3) rFORMAT 36
  need (!(tagsA.any fun t => t.testBit 1) || (hdr 32).isSome) rFORMAT 32
  need (!(tagsB.any fun t => t.testBit 1) || (hdr 36).isSome) rFORMAT 36
  -- check 5
  let cap := fun (o : Nat) => match hdr o with | some x => x.1 | none => 0
  let vecSize := fun (o : Nat) (t : Handle) => if (mget hs (o + 64)).isSome
    then vectorEntries c o * (if isU4 t then 16 else 4) else 0
  let listSize := fun (o : Nat) => match hdr o with | some x => 32 + 8 * x.1 | none => 0
  productResources c (vecSize 32 a + vecSize 36 b + listSize 32 + listSize 36 +
    (match frz with | some _ => mapBytes (fld mapB 4 1) (blocksOf c.pK) (blocksOf c.pN) | none => 0))
    (cap 32 + cap 36)
  let scaleOf := fun (t : Handle) => if readsScale t then m.rdNat (t.scaleAt p) 4 else oneFp32
  let castCount := fun (t : Handle) => if c.fallbackOk ∧ t.scale ≠ 0 then m.rdNat (t.scaleAt p + 4) 4 else 0
  let cnt := fun (o : Nat) => match hdr o with | some x => x.2.1 | none => 0
  pure {
    cmd := c, handles := hs, freeze := mapB, work := .items,
    values := [(32, scaleOf a), (36, scaleOf b), (160, cnt 32), (164, cnt 36),
      (256, sat32 (castCount a + castCount b)), (257, m.obj O.FB_CAST_LIMIT c.part),
      (258, m.obj O.FB_OVF_LIMIT c.part)],
    toBind := dealAll c (ceilDiv out.1 c.itemRows * ceilDiv out.2 16),
    flg := .none, poisoned := false, faults := [], fellBack := 0, losses := [] }

/-! ### One element (R95 to R97, R119, R120) -/

/-- The view of an operand of a running product. -/
def Act.four (a : Act) (o : Nat) : Four :=
  let c := a.cmd
  match a.h o with
  | some h =>
    { fmt := (h.format).getD .f4, base := h.at_ c.problem, rows := (opShape c o).1, cols := (opShape c o).2,
      transposed := isTransposed c o, scale := a.v o,
      vector := match a.h (o + 64) with | some v => v.at_ c.problem | none => 0,
      list := match a.h (o + 128) with | some l => l.at_ c.problem | none => 0,
      count := a.v (o + 128) }
  | none => ⟨.f4, 0, 0, 0, false, 0, 0, 0, 0⟩

/-- An exact sum of eight internal products, scaled by 2^20; none where one is NaN (R83). -/
def partialSum (m : Mach) (A B : Four) (r c k : Nat) : Option Int :=
  (List.range 8).foldl (fun acc j =>
    match acc, internalProduct (internalForm A.fmt (A.code m r (8 * k + j)))
        (internalForm B.fmt (B.code m (8 * k + j) c)) with
    | some s, some p => some (s + p)
    | _, _ => none) (some 0)

/-- A scaled K-block partial: NaN with INV, +0, or the exact value (R95). -/
def kPartial (m : Mach) (A B : Four) (r c k : Nat) : NM Ext :=
  let ca := A.s8 m r (8 * k)
  let cb := B.s8 m (8 * k) c
  if ca = 0xFF ∨ cb = 0xFF then do raiseInv 3; pure .nan
  else if ca = 0 ∨ cb = 0 then pure .zero
  else
    match partialSum m A B r c k with
    | none => do raiseInv 3; pure .nan
    | some s =>
      if s = 0 then pure .zero
      else pure (.dyadic (decide (s < 0)) s.natAbs ((ca : Int) + cb - 254 - 20))

/-- The exact product of the accumulator and the tensor scales, rounded once (R95, R96). -/
def tripleProduct (acc ta tb : Nat) : NM Nat := do
  let x := dec32 acc
  let s := dec32 ta
  let t := dec32 tb
  if x.isNan || s.isNan || t.isNan then do raiseInv 3; pure FloatFmt.fp32.nan
  else if (x.isInf || s.isInf || t.isInf) && (x.isZero || s.isZero || t.isZero) then do
    raiseInv 1; pure FloatFmt.fp32.nan
  else do
    let u ← extMul x s
    let v ← extMul u t
    rne32 v

/-- y0 of R95. -/
def element0 (m : Mach) (A B : Four) (kb r c : Nat) : NM Nat := do
  let acc ← foldNM (fun acc k => do
    let p ← kPartial m A B r c k
    rne32 (← extAdd (dec32 acc) p)) 0 (List.range kb)
  tripleProduct acc A.scale B.scale

/-- Entry `i` of a side vector: s, o and QSUM as FP32 (R65). -/
def sideEntry (m : Mach) (v i : Nat) : Nat × Nat × Nat :=
  (m.rdNat (v + 16 * i) 4, m.rdNat (v + 16 * i + 4) 4, m.rdNat (v + 16 * i + 8) 4)

def natToFp32 (n : Nat) : Nat := (rne32 (.ofNat n) Flg.none).1

/-- A count converted to FP32 as part of an engine's work, with its flags (R46, R97). -/
def countToFp32 (n : Nat) : NM Nat := rne32 (.ofNat n)

/-- zp_correct of R97. -/
def zpForward (m : Mach) (A B : Four) (k y0 r c : Nat) : NM Nat := do
  if A.fmt = .u4 ∧ B.fmt = .u4 then
    let x := sideEntry m A.vector r
    let w := sideEntry m B.vector c
    let t1 ← fmul (← fmul x.1 w.1) y0
    let t2 ← fmul (← fmul x.1 w.2.1) (← countToFp32 x.2.2)
    let t3 ← fmul (← fmul x.2.1 w.1) (← countToFp32 w.2.2)
    let t4 ← fmul (← fmul x.2.1 w.2.1) (← countToFp32 k)
    fadd (← fadd (← fadd t1 t2) t3) t4
  else
    let u := if B.fmt = .u4 then sideEntry m B.vector c else sideEntry m A.vector r
    let ls := if B.fmt = .u4 then m.rdNat (A.vector + 4 * r) 4 else m.rdNat (B.vector + 4 * c) 4
    let t1 ← fmul u.1 y0
    let t2 ← fmul u.2.1 ls
    fadd (← fadd (← fadd t1 t2) 0) 0

/-- The eight decoded values of block `k` of a line. -/
def lineVals (code : Nat → Nat) (fmt : Fmt) (k : Nat) : List Ext :=
  (List.range 8).map fun j => decodeFour fmt (code (8 * k + j))

/-- Whether block `k` of a line makes its sum NaN. -/
def lineNan (code s8 : Nat → Nat) (fmt : Fmt) (k : Nat) : Bool :=
  let s := s8 (8 * k)
  s == 0xFF || (s != 0 && (lineVals code fmt k).any Ext.isNan)

/-- The line sum of the G4 operand as its blocks pass (R120), from the code and the S8 of each position. -/
def lineSum (kb : Nat) (code s8 : Nat → Nat) (fmt : Fmt) (scale : Nat) : NM Nat := do
  let acc ← foldNM (fun acc k => do
    let s := s8 (8 * k)
    let vals := lineVals code fmt k
    if lineNan code s8 fmt k then do raiseInv 3; pure FloatFmt.fp32.nan
    else if s = 0 then fadd acc 0
    else
      let x ← vals.foldlM (fun a v => extAdd a v) Ext.zero
      let y ← extMul x (.dyadic false 1 ((s : Int) - 127))
      rne32 (← extAdd (dec32 acc) y)) 0 (List.range kb)
  fmul acc scale

/-- R120, for a U4 operand that is not the gradient. The line sum is formed, and its saturations counted, for each
output element (log entry 113). -/
def zpBackward (m : Mach) (op : Nat) (A B : Four) (kb y0 r c : Nat) : NM Nat := do
  if op = 2 then
    let u := sideEntry m B.vector c
    let ls ← lineSum kb (fun j => A.code m r j) (fun j => A.s8 m r j) A.fmt A.scale
    fadd (← fmul u.1 y0) (← fmul u.2.1 ls)
  else
    let u := sideEntry m A.vector r
    let ls ← lineSum kb (fun j => B.code m j c) (fun j => B.s8 m j c) B.fmt B.scale
    fadd (← fmul u.1 y0) (← fmul u.2.1 ls)

/-- An element before add-back: R95 or R119, then R97 or R120. -/
def elementY (m : Mach) (a : Act) (A B : Four) (r c : Nat) : NM Nat := do
  let n := contraction a.cmd
  let kb := blocksOf n
  let y0 ← element0 m A B kb r c
  if A.fmt ≠ .u4 ∧ B.fmt ≠ .u4 then pure y0
  else if a.cmd.opcode = 1 then zpForward m A B n y0 r c
  else zpBackward m a.cmd.opcode A B kb y0 r c

/-! ### Items -/

/-- Rows and columns of an item (R90): first row, rows, first column, columns. -/
def itemBox (c : Cmd) (item : Nat) : Nat × Nat × Nat × Nat :=
  let o := outShape c
  let s := ceilDiv o.2 16
  let r0 := item / s * c.itemRows
  let c0 := item % s * 16
  (r0, min c.itemRows (o.1 - r0), c0, min 16 (o.2 - c0))

/-- The positions of an item in row-major order. -/
def itemCells (c : Cmd) (item : Nat) : List (Nat × Nat) :=
  let b := itemBox c item
  (List.range b.2.1).flatMap fun i => (List.range b.2.2.2).map fun j => (b.1 + i, b.2.2.1 + j)

def Act.frozen (a : Act) (r c : Nat) : Bool := !a.freeze.isEmpty && frozenBit a.freeze (r / 8) (c / 8)

/-- What a list of elements raised: all flags, and the first position that raised INV (R52). -/
structure Raised where
  flg : Flg
  row : Nat
  col : Nat
  deriving DecidableEq, Repr

/-- Work over positions in order, with the flags of each element told apart. -/
def overCells (f : Nat → Nat × Nat → NM Nat) : Nat → List (Nat × Nat) → List Nat × Raised
  | _, [] => ([], ⟨.none, 0, 0⟩)
  | i, rc :: rest =>
    let x := f i rc .none
    let y := overCells f (i + 1) rest
    (x.1 :: y.1, ⟨x.2.or y.2.flg, if x.2.inv then rc.1 else y.2.row, if x.2.inv then rc.2 else y.2.col⟩)

/-- The output stage (R99, R122): an FP32 value as the code written. -/
def Act.outElem (a : Act) (rc : Nat × Nat) (v : Nat) : NM Nat :=
  match a.h 40 with
  | some y =>
    let f := (y.format).getD .fp32
    let o := outShape a.cmd
    let rnd := if a.cmd.gradient then
        Rnd.sr ((a.cmd.srKey y.tensor).draw a.cmd.problem (o.1 * o.2) (rc.1 * o.2 + rc.2))
      else Rnd.rne
    if a.frozen rc.1 rc.2 then pure 0 else outCode f rnd v
  | none => pure 0

/-- Codes written row by row, all with one poison mark. -/
def Act.writeBox (a : Act) (m : Mach) (item : Nat) (codes : List Nat) (poison : Bool) : Mach :=
  match a.h 40 with
  | some y =>
    let f := (y.format).getD .fp32
    let b := itemBox a.cmd item
    let n := (outShape a.cmd).2
    (List.range b.2.1).foldl (fun s i =>
      let row := ((codes.drop (i * b.2.2.2)).take b.2.2.2).flatMap fun v => leBytes f.bytes v
      s.wr (denseAddr f (y.at_ a.cmd.problem) ((b.1 + i) * n + b.2.2.1)) row poison) m
  | none => m

/-- The operand offset through which an item reads poison, if it does (R304). -/
def Act.itemPoison (a : Act) (m : Mach) (item : Nat) : Option Nat :=
  let A := a.four 32
  let B := a.four 36
  let b := itemBox a.cmd item
  let kb := blocksOf (contraction a.cmd)
  let live := (itemCells a.cmd item).filter fun rc => !a.frozen rc.1 rc.2
  let rows := (List.range b.2.1).map (b.1 + ·) |>.filter fun r => live.any fun rc => rc.1 == r
  let cols := (List.range b.2.2.2).map (b.2.2.1 + ·) |>.filter fun c => live.any fun rc => rc.2 == c
  let side := fun (o : Nat) (t : Four) (is : List Nat) => match a.h (o + 64) with
    | some _ => is.any fun i => m.rdPoison (t.vector + i * (if t.fmt = .u4 then 16 else 4)) (if t.fmt = .u4 then 16 else 4)
    | none => false
  if rows.any (fun r => (List.range kb).any fun k => A.blockPoisoned m r (8 * k)) || side 32 A rows then some 32
  else if cols.any (fun c => (List.range kb).any fun k => B.blockPoisoned m (8 * k) c) || side 36 B cols then some 36
  else none

/-- What an operand's view row or column `i` is read from: its blocks with their scales, and its side entry. -/
def Four.lineReads (t : Four) (kb : Nat) (asRow side : Bool) (i : Nat) : List (Nat × Nat) :=
  let blocks := (List.range kb).map fun k => (if asRow then t.locate i (8 * k) else t.locate (8 * k) i).1
  let w := if t.fmt = .u4 then 16 else 4
  blocks.flatMap (fun b => [(scaleAddr t.base b, 1), (dataAddr t.base b, 32)]) ++
    if side then [(t.vector + i * w, w)] else []

/-- What an item of a product reads (R94, R126). -/
def Act.productReads (a : Act) (item : Nat) : List (Nat × Nat) :=
  let b := itemBox a.cmd item
  let kb := blocksOf (contraction a.cmd)
  let live := (itemCells a.cmd item).filter fun rc => !a.frozen rc.1 rc.2
  let rows := (List.range b.2.1).map (b.1 + ·) |>.filter fun r => live.any fun rc => rc.1 == r
  let cols := (List.range b.2.2.2).map (b.2.2.1 + ·) |>.filter fun c => live.any fun rc => rc.2 == c
  rows.flatMap ((a.four 32).lineReads kb true (a.h 96).isSome) ++
    cols.flatMap ((a.four 36).lineReads kb false (a.h 100).isSome)

/-- The FP32 value of an output position before the add-back; a frozen one takes no part (R126). -/
def Act.cellY (a : Act) (m : Mach) (rc : Nat × Nat) : NM Nat :=
  if a.frozen rc.1 rc.2 then pure 0 else elementY m a (a.four 32) (a.four 36) rc.1 rc.2

/-- The tile of the loop of R94 in which a position first raises INV, numbered past the loop where the tensor
scales or the zero points do. -/
def Act.invTile (a : Act) (m : Mach) (rc : Nat × Nat) : Nat :=
  let A := a.four 32
  let B := a.four 36
  let kb := blocksOf (contraction a.cmd)
  let line := fun (k : Nat) =>
    if a.cmd.opcode = 2 ∧ B.fmt = .u4 then lineNan (fun j => A.code m rc.1 j) (fun j => A.s8 m rc.1 j) A.fmt k
    else if a.cmd.opcode = 3 ∧ A.fmt = .u4 then lineNan (fun j => B.code m j rc.2) (fun j => B.s8 m j rc.2) B.fmt k
    else false
  match (List.range kb).find? fun k => (kPartial m A B rc.1 rc.2 k .none).2.inv || line k with
  | some k => k / 2
  | none => kb

/-- The first INV of an item in the order of R94: by pass, by tile, and then by row and column, which the cells
are in (R52, R118). -/
def Act.firstInv (a : Act) (m : Mach) (item : Nat) (r : Raised) : Raised :=
  if !r.flg.inv then r
  else
    let p := min a.cmd.itemRows 512
    let kb := blocksOf (contraction a.cmd)
    let raising := (itemCells a.cmd item).filter fun rc => (a.cellY m rc .none).2.inv
    let time := fun (rc : Nat × Nat) => (rc.1 - (itemBox a.cmd item).1) / p * (kb + 1) + a.invTile m rc
    match raising with
    | [] => r
    | x :: l =>
      let rc := l.foldl (fun b y => if time y < time b then y else b) x
      ⟨{ r.flg with cause := (a.cellY m rc .none).2.cause }, rc.1, rc.2⟩

/-- A four-bit item up to the add-back (R94 to R97): the FP32 values and what they raised. -/
def Act.itemValues (a : Act) (m : Mach) (item : Nat) : List Nat × Raised :=
  let x := overCells (fun _ rc => a.cellY m rc) 0 (itemCells a.cmd item)
  (x.1, a.firstInv m item x.2)

/-- The output stage over an item. -/
def Act.itemCodes (a : Act) (item : Nat) (vals : List Nat) : List Nat × Raised :=
  overCells (fun i rc => a.outElem rc (vals.getD i 0)) 0 (itemCells a.cmd item)

def Raised.or (a b : Raised) : Raised :=
  ⟨a.flg.or b.flg, if a.flg.inv then a.row else b.row, if a.flg.inv then a.col else b.col⟩

/-! ### Work that raises flags at positions of the output (R52, R146) -/

abbrev RM := StateM Raised

/-- An operation for one output position. -/
def at_ {α : Type} (rc : Nat × Nat) (x : NM α) : RM α := fun r =>
  let y := x .none
  (y.1, r.or ⟨y.2, rc.1, rc.2⟩)

/-- One value for each column of a row. -/
def elems (r n : Nat) (f : Nat → NM Nat) : RM (List Nat) := (List.range n).mapM fun j => at_ (r, j) (f j)

/-- Flags of a piece of a command's work go to its engine and to the command (R51). -/
def Mach.book (m : Mach) (e : Nat) (a : Act) (r : Raised) : Mach × Act :=
  (m.flags e a.cmd r.flg r.row r.col a.cmd.problem, { a with flg := a.flg.or r.flg })

def Act.fault (a : Act) (reason detail : Nat) (poisoned : Bool) : Act :=
  { a with faults := a.faults ++ [(reason, detail)], poisoned := a.poisoned || poisoned }

/-- An item's outputs written poisoned, with its fault (R304, R440). -/
def Act.poisonItem (a : Act) (m : Mach) (item reason detail : Nat) : Mach × Act :=
  (a.writeBox m item ((itemCells a.cmd item).map fun _ => 0) true, a.fault reason detail true)

/-- A tile's array finishes a product item: values, then the outputs, or the wait for the add-back. -/
def productItem (m : Mach) (a : Act) (e item : Nat) : Mach × Act × Bool :=
  match a.itemPoison m item with
  | some o => let x := a.poisonItem (m.countPoisonedField a.handles a.cmd.problem o) item rPOISON o; (x.1, x.2, true)
  | none =>
    let v := a.itemValues m item
    if a.v 160 ≠ 0 ∨ a.v 164 ≠ 0 then
      let x := m.book e a v.2
      ({ x.1 with addBacks := x.1.addBacks ++ [⟨engineCluster e, e, a.cmd.id, item, v.1, false⟩] }, x.2, false)
    else
      let y := a.itemCodes item v.1
      let x := m.book e a (v.2.or y.2)
      (a.writeBox x.1 item y.1 false, x.2, true)

/-- WORK an array adds for an item (R445): 256 for each cycle that takes a row. -/
def productWork (a : Act) (item : Nat) : Nat :=
  let b := itemBox a.cmd item
  let rows := (List.range b.2.1).filter fun i =>
    !((List.range b.2.2.2).all fun j => a.frozen (b.1 + i) (b.2.2.1 + j))
  256 * ceilDiv (blocksOf (contraction a.cmd)) 2 * rows.length

/-! ### Outlier add-back (R151) -/

/-- Listed entries of an operand: stored element index and BF16 value. -/
def Four.entries (m : Mach) (t : Four) : List (Nat × Nat) :=
  (List.range t.count).map fun e => (m.rdNat (t.list + 32 + 8 * e) 4, m.rdNat (t.list + 36 + 8 * e) 2)

/-- The view position of a stored index. -/
def Four.viewOf (t : Four) (i : Nat) : Nat × Nat :=
  if t.transposed then (i % max 1 t.cols, i / max 1 t.cols) else (i / max 1 t.cols, i % max 1 t.cols)

/-- The decoded value of a view position (R151). Every element of a zero block reads as zero whatever its code, a U4
element as q = 0 (R35; log entry 116). -/
def Four.decoded (m : Mach) (t : Four) (axisRow : Bool) (r c : Nat) : NM Nat := do
  let s := t.s8 m r c
  let q := if s = 0 then Ext.zero else decodeFour t.fmt (t.code m r c)
  if s = 0xFF then do raiseInv 3; pure FloatFmt.fp32.nan
  else if t.fmt = .u4 then
    let u := sideEntry m t.vector (if axisRow then r else c)
    fadd (← rne32 (← extMul (dec32 u.1) q)) u.2.1
  else if s = 0 then pure 0
  else rne32 (← extMul (← extMul q (.dyadic false 1 ((s : Int) - 127))) (dec32 t.scale))

/-- The terms of one output element, added in the order of R151. -/
def addBackElem (m : Mach) (A B : Four) (la lb : List (Nat × Nat)) (r c v : Nat) : NM Nat := do
  let v ← la.foldlM (fun acc e => do
    let p := A.viewOf e.1
    if p.1 ≠ r then pure acc
    else
      let other ← match lb.find? fun x => B.viewOf x.1 == (p.2, c) with
        | some x => pure (decodeFloat .bf16 x.2)
        | none => do pure (dec32 (← B.decoded m false p.2 c))
      fmaEx acc (decodeFloat .bf16 e.2) other) v
  lb.foldlM (fun acc e => do
    let p := B.viewOf e.1
    if p.2 ≠ c then pure acc
    else
      let other ← A.decoded m true r p.1
      fmaEx acc (decodeFloat .bf16 e.2) (dec32 other)) v

/-- The item of an add-back with its terms: values and what the wide unit raised. -/
def Act.addBackValues (a : Act) (m : Mach) (b : AddBack) : List Nat × Raised :=
  let A := a.four 32
  let B := a.four 36
  let la := A.entries m
  let lb := B.entries m
  overCells (fun i rc => if a.frozen rc.1 rc.2 then pure 0
    else addBackElem m A B la lb rc.1 rc.2 (b.vals.getD i 0)) 0 (itemCells a.cmd b.item)

/-! ### The tally and the alarm (R159, R160) -/

def Mach.tally (m : Mach) (c : Cmd) (fell atValidation : Bool) : Mach :=
  let p := c.part
  let step := c.step
  let m := if fell then m.bump O.FALLBACKS p 1 else m
  let m := if fell && atValidation then m.bump O.FALLBACKS_AT_VALIDATION p 1 else m
  let tracked := m.obj O.TRACKED_STEP p
  if step < tracked then m
  else
    let old := if step > tracked then 0 else m.obj O.STEP_TALLY p
    let products := sat32 (old % 2 ^ 32 + 1)
    let falls := sat32 (old / 2 ^ 32 + if fell then 1 else 0)
    let m := (m.setObj O.TRACKED_STEP p step).setObj O.STEP_TALLY p (falls * 2 ^ 32 + products)
    let above := match dec32 (m.obj O.ALARM_FRACTION p) with
      | .fin _ n d => decide (n * products < falls * d)
      | _ => false
    let raised := m.obj O.RECIPE_ALARMS p != 0 && m.obj O.ALARM_STEP p == step
    if decide (m.obj O.ALARM_MIN_PRODUCTS p ≤ products) && above && !raised then
      let m := m.eventTo (sourcePart p) [m.obj O.EVENT_RING p] (some c) 1 0 falls products step c.id.seq
      ((m.setObj O.ALARM_STEP p step).bump O.RECIPE_ALARMS p 1).triggerOn 2
    else m

/-! ### Completion of a product -/

/-- Whether every element of the output is frozen (R126). -/
def Act.allFrozen (a : Act) : Bool :=
  !a.freeze.isEmpty && (List.range (blocksOf a.cmd.pK)).all fun i =>
    (List.range (blocksOf a.cmd.pN)).all fun j => frozenBit a.freeze i j

/-- The items of a span by cluster, for the wide units (R154). -/
def fallbackItems (c : Cmd) : List (Nat × Nat) :=
  let o := outShape c
  (dealAll c (ceilDiv o.1 c.itemRows * ceilDiv o.2 16)).flatMap fun r =>
    (List.range (r.2.2 - r.2.1)).map fun i => (r.1, r.2.1 + i)

/-- A product whose items are all done completes, or falls back (R154, R156, R252). -/
def finishProduct (m : Mach) (a : Act) : Mach :=
  match worst a.faults with
  | some f => m.complete a.cmd f.1 f.2 0 a.flg a.poisoned
  | none =>
    if a.fellBack = 0 ∧ a.cmd.fallbackOk ∧ a.flg.sats > a.v 258 then
      m.setAct { a with fellBack := 2, work := .fallback (fallbackItems a.cmd) }
    else
      let m := m.tally a.cmd (a.fellBack != 0) (a.fellBack == 1)
      let reason := if a.allFrozen then 0x80 else if a.fellBack ≠ 0 then 0x81 else 0
      m.complete a.cmd reason 0 0 a.flg a.poisoned

/-- An element computed again from the shadows (R155). -/
def shadowElem (m : Mach) (a : Act) (r c : Nat) : NM Nat :=
  let cmd := a.cmd
  let sa := opShape cmd 32
  let sb := opShape cmd 36
  let baseA := match a.h 44 with | some h => h.at_ cmd.problem | none => 0
  let baseB := match a.h 48 with | some h => h.at_ cmd.problem | none => 0
  let ia := fun k => if isTransposed cmd 32 then k * sa.2 + r else r * sa.2 + k
  let ib := fun k => if isTransposed cmd 36 then c * sb.2 + k else k * sb.2 + c
  foldNM (fun acc k => fmaEx acc (decodeFloat .bf16 (rdElem m .bf16 baseA (ia k)))
    (decodeFloat .bf16 (rdElem m .bf16 baseB (ib k)))) 0 (List.range (contraction cmd))

/-- The shadow through which an item reads poison. -/
def Act.shadowPoison (a : Act) (m : Mach) (item : Nat) : Option Nat :=
  let cmd := a.cmd
  let live := (itemCells cmd item).filter fun rc => !a.frozen rc.1 rc.2
  let n := contraction cmd
  let bad := fun (o s : Nat) (idx : Nat × Nat → Nat → Nat) => match a.h s with
    | some h => live.any fun rc => (List.range n).any fun k =>
        m.rdPoison (h.at_ cmd.problem + 2 * idx rc k) 2 && o != 0
    | none => false
  let sa := (opShape cmd 32).2
  let sb := (opShape cmd 36).2
  if bad 32 44 (fun rc k => if isTransposed cmd 32 then k * sa + rc.1 else rc.1 * sa + k) then some 44
  else if bad 36 48 (fun rc k => if isTransposed cmd 36 then rc.2 * sb + k else k * sb + rc.2) then some 48
  else none

/-- What an item reads of the shadow operands (R155). -/
def Act.shadowReads (a : Act) (item : Nat) : List (Nat × Nat) :=
  let cmd := a.cmd
  let b := itemBox cmd item
  let n := contraction cmd
  let part := fun (o s first count : Nat) (byRow : Bool) => match a.h s with
    | some h =>
      let w := (opShape cmd o).2
      if byRow then (List.range count).map fun i => (h.at_ cmd.problem + 2 * ((first + i) * w), 2 * n)
      else (List.range n).map fun k => (h.at_ cmd.problem + 2 * (k * w + first), 2 * count)
    | none => []
  if (itemCells cmd item).all fun rc => a.frozen rc.1 rc.2 then []
  else part 32 44 b.1 b.2.1 (!isTransposed cmd 32) ++ part 36 48 b.2.2.1 b.2.2.2 (isTransposed cmd 36)

/-- One item of a product computed from its shadow operands, in a cluster (R155). -/
def Mach.runFallback (m : Mach) (a : Act) (l : List (Nat × Nat)) (cluster : Nat) (x : Nat × Nat) : Mach :=
  let e := wideEngine cluster
  let b := itemBox a.cmd x.2
  let m := m.startUnit e a.cmd x.2
  let m := m.spend e ⟨32 + ceilDiv (b.2.1 * 16 * contraction a.cmd) 1024, 0, 0⟩
    (b.2.1 * b.2.2.2 * contraction a.cmd)
  let left := l.filter fun y => decide (y ≠ x)
  let r := match a.shadowPoison m x.2 with
    | some o => a.poisonItem (m.countPoisonedField a.handles a.cmd.problem o) x.2 rPOISON o
    | none =>
      let v := overCells (fun _ rc => if a.frozen rc.1 rc.2 then pure 0
        else shadowElem m a rc.1 rc.2) 0 (itemCells a.cmd x.2)
      let y := a.itemCodes x.2 v.1
      let bk := m.book e a (v.2.or y.2)
      (a.writeBox bk.1 x.2 y.1 false, bk.2)
  let a := { r.2 with work := .fallback left }
  let m := r.1.setAct a
  let m := if left.any fun y => y.1 == cluster then m else m.endRun e
  if left.isEmpty then finishProduct m a else m

/-- FALLBACK_ITEM (R155): the wide unit of a cluster re-executes the next item of the oldest product that
fell back there. -/
def fallbackItem (cluster : Nat) (errs : List ReadErr) (m : Mach) : Res :=
  let e := wideEngine cluster
  let busy := m.running.any (fun r => r.engine == e) || m.addBacks.any (fun b => b.cluster == cluster) ||
    !m.bayReady (cluster / 10)
  match m.acts.find? fun a => a.fallsBackIn cluster with
  | none => cannot "no product falls back in this cluster"
  | some a =>
    if busy then .next m
    else
      match a.work with
      | .fallback l =>
        match l.find? fun x => x.1 == cluster with
        | none => cannot "no item left"
        | some x => .next ((m.takeReads errs (a.shadowReads x.2)).runFallback a l cluster x)
      | _ => cannot "no item left"

/-- Whether the side vector entry of a line reads poisoned, for a U4 operand (R151). -/
def Four.sidePoisoned (m : Mach) (t : Four) (i : Nat) : Bool := t.fmt == .u4 && m.rdPoison (t.vector + 16 * i) 16

/-- The operand through which the add-back of an item reads poison: a list, or a block or side entry it decodes for
a term (R304). Frozen elements take no terms and read nothing (R126). -/
def Act.termPoison (a : Act) (m : Mach) (item : Nat) : Option Nat :=
  let A := a.four 32
  let B := a.four 36
  let live := (itemCells a.cmd item).filter fun rc => !a.frozen rc.1 rc.2
  if live.isEmpty then none
  else if m.rdPoison A.list (32 + 8 * A.count) && A.count != 0 then some 32
  else if m.rdPoison B.list (32 + 8 * B.count) && B.count != 0 then some 36
  else
    let la := (A.entries m).map fun e => A.viewOf e.1
    let lb := (B.entries m).map fun e => B.viewOf e.1
    let badA := lb.any fun p => live.any fun rc => rc.2 == p.2 &&
      (A.blockPoisoned m rc.1 p.1 || A.sidePoisoned m rc.1)
    let badB := la.any fun p => live.any fun rc => rc.1 == p.1 && !lb.contains (p.2, rc.2) &&
      (B.blockPoisoned m p.2 rc.2 || B.sidePoisoned m rc.2)
    if badA then some 32 else if badB then some 36 else none

/-- What the add-back of an item reads: both lists, and what its terms decode (R151). -/
def Act.termReads (a : Act) (m : Mach) (item : Nat) : List (Nat × Nat) :=
  let A := a.four 32
  let B := a.four 36
  let live := (itemCells a.cmd item).filter fun rc => !a.frozen rc.1 rc.2
  let entry := fun (t : Four) (r c side : Nat) =>
    let b := (t.locate r c).1
    [(scaleAddr t.base b, 1), (dataAddr t.base b, 32)] ++
      if t.fmt = .u4 then [(t.vector + 16 * side, 16)] else []
  if live.isEmpty then []
  else
    let la := (A.entries m).map fun e => A.viewOf e.1
    let lb := (B.entries m).map fun e => B.viewOf e.1
    (if A.count = 0 then [] else [(A.list, 32 + 8 * A.count)]) ++ (if B.count = 0 then [] else [(B.list, 32 + 8 * B.count)]) ++
      lb.flatMap (fun p => (live.filter fun rc => rc.2 == p.2).flatMap fun rc => entry A rc.1 p.1 rc.1) ++
      la.flatMap fun p => (live.filter fun rc => rc.1 == p.1 && !lb.contains (p.2, rc.2)).flatMap fun rc => entry B p.2 rc.2 rc.2

/-- Terms an item takes (R151). -/
def Act.termCount (a : Act) (m : Mach) (item : Nat) : Nat :=
  let A := a.four 32
  let B := a.four 36
  let live := (itemCells a.cmd item).filter fun rc => !a.frozen rc.1 rc.2
  let count := fun (l : List (Nat × Nat)) (f : Nat × Nat → Nat × Nat → Bool) =>
    l.foldl (fun s p => s + (live.filter (f p)).length) 0
  count ((A.entries m).map fun e => A.viewOf e.1) (fun p rc => rc.1 == p.1) +
    count ((B.entries m).map fun e => B.viewOf e.1) (fun p rc => rc.2 == p.2)

/-- A finished item takes its outlier terms and its outputs are written, poisoned where a read of the terms is (R151,
R304). The vector part takes 256 terms a cycle, each a lane operation (R151, R445). -/
def Mach.addBackItem (m : Mach) (a : Act) (b : AddBack) : Mach :=
  let e := wideEngine b.cluster
  let bad := a.termPoison m b.item
  let m := (m.startUnit e a.cmd b.item).spend e ⟨ceilDiv (a.termCount m b.item) 256, 0, 0⟩ (a.termCount m b.item)
  let r := match bad with
    | some o => a.poisonItem (m.countPoisonedField a.handles a.cmd.problem o) b.item rPOISON o
    | none =>
      let v := a.addBackValues m b
      let y := a.itemCodes b.item v.1
      let x := m.book e a v.2
      let x := x.1.book b.engine x.2 y.2
      (a.writeBox x.1 b.item y.1 false, x.2)
  let m := { r.1 with addBacks := r.1.addBacks.filter fun x => decide (x ≠ b) }
  let m := (m.endRun e).itemDone a.cmd.id b.cluster
  let m := m.setAct r.2
  if m.allFreed r.2 then finishProduct m r.2 else m

/-- OUTLIER_ADD_BACK (R141, R151): the oldest finished item of the cluster takes its terms, then its
outputs are written. -/
def outlierAddBack (cluster : Nat) (errs : List ReadErr) (m : Mach) : Res :=
  match m.addBacks.find? fun b => b.cluster == cluster with
  | none => cannot "no finished item waits for its terms in this cluster"
  | some b =>
    let e := wideEngine cluster
    if m.running.any (fun r => r.engine == e) || !m.bayReady (cluster / 10) then .next m
    else
      match m.act? b.cmd with
      | none => cannot "an item without its command"
      | some a =>
        .next ((m.takeReads errs (a.termReads m b.item)).addBackItem a b)

/-! ### The rows of the three products (R87, R154 point 1) -/

/-- The freeze map copied into the work area of every span cluster at validation, from the area's first byte (R116; log
entry 117). -/
def Act.placeMap (a : Act) (m : Mach) : Mach :=
  if a.freeze.isEmpty then m
  else a.cmd.span.foldl (fun s k => s.wr (clusterAddr k a.cmd.clusterArea.1) a.freeze false) m

/-- A validated product runs its items on the arrays, or on the wide units at once where its casts have
saturated too much. -/
def Mach.launchProduct (m : Mach) (a : Act) : Mach :=
  let m := a.placeMap m
  if a.cmd.fallbackOk ∧ a.v 257 < a.v 256 then
    m.launch { a with fellBack := 1, toBind := [], work := .fallback (fallbackItems a.cmd) }
  else m.launch a

def startProduct (c : Cmd) (m : Mach) : Res :=
  match validateProduct m c with
  | .error e => .next (m.refuseChecked c e)
  | .ok a => .next (m.launchProduct a)

def productF (id : CmdId) (errs : List ReadErr) (m : Mach) : Res := descRow (1, 0) id errs startProduct m
def productDx (id : CmdId) (errs : List ReadErr) (m : Mach) : Res := descRow (2, 0) id errs startProduct m
def productDw (id : CmdId) (errs : List ReadErr) (m : Mach) : Res := descRow (3, 0) id errs startProduct m

end Sys2Proof.Machine
end

