-- ==== Sys2Proof/Machine/Cast.lean ====
section
/-! DEFINITION. CAST and ROTATE (R56 to R82): rotation, block scales and channel parameters, outliers,
vectors and the caliper record, the latch of the tensor scale, and the writes of the scale table. -/

namespace Sys2Proof.Machine

open Sys2Proof

/-! ### Rotation (R78) -/

/-- The rotation size of a ROT code (R58). -/
def rotSize (code : Nat) : Nat := if code = 0 then 0 else if code ≤ 4 then 2 ^ (code + 3) else 0

/-- The constant c of R78. -/
def rotConst (n : Nat) : Nat :=
  if n = 16 then 0x3E800000 else if n = 32 then 0x3E3504F3 else if n = 64 then 0x3E000000 else 0x3DB504F3

/-- One stage: elements `i` with bit `s` clear take the sum, their partners the difference. -/
def rotStage (s : Nat) (v : List Nat) : NM (List Nat) :=
  (List.range v.length).mapM fun i =>
    if i.testBit s then fsub (v.getD (i - 2 ^ s) 0) (v.getD i 0)
    else fadd (v.getD i 0) (v.getD (i + 2 ^ s) 0)

def rotStages : Nat → Nat → List Nat → NM (List Nat)
  | 0, _, v => pure v
  | k + 1, s, v => do rotStages k (s + 1) (← rotStage s v)

/-- R78 on one group of FP32 codes. -/
def rotate (v : List Nat) : NM (List Nat) := do
  let w ← rotStages (Nat.log2 v.length) 0 v
  w.mapM fun x => fmul x (rotConst v.length)

/-! ### The input of a CAST or ROTATE -/

def Cmd.cRows (c : Cmd) : Nat := c.f 20 3
def Cmd.cCols (c : Cmd) : Nat := c.f 23 3
def Cmd.capacity (c : Cmd) : Nat := if c.opcode = 4 then c.f 44 4 else 0
def Cmd.noTwoPass (c : Cmd) : Bool := (c.f 31 1).testBit 0
def Cmd.lineSums (c : Cmd) : Bool := (c.f 31 1).testBit 1

/-- Positions of the rotation group that holds (r, c), and the place of (r, c) in it. -/
def rotGroup (c : Cmd) (r col : Nat) : List (Nat × Nat) × Nat :=
  let n := rotSize c.rotCode
  if n = 0 then ([(r, col)], 0)
  else if c.axis = 0 then ((List.range n).map fun i => (r, col / n * n + i), col % n)
  else ((List.range n).map fun i => (r / n * n + i, col), r % n)

def Act.srcFmt (a : Act) : Fmt := ((a.h 32).bind Handle.format).getD .fp32
def Act.dstFmt (a : Act) : Fmt := ((a.h 36).bind Handle.format).getD .fp32
def Act.srcBase (a : Act) : Nat := match a.h 32 with | some h => h.at_ a.cmd.problem | none => 0
def Act.dstBase (a : Act) : Nat := match a.h 36 with | some h => h.at_ a.cmd.problem | none => 0
def Act.dstTensor (a : Act) : Nat := match a.h 36 with | some h => h.tensor | none => 0

/-- A source element as FP32, before rotation; none where it reads poisoned. -/
def Act.rawVal (a : Act) (m : Mach) (rc : Nat × Nat) : Option Nat :=
  let i := rc.1 * a.cmd.cCols + rc.2
  let ad := denseAddr a.srcFmt a.srcBase i
  if m.rdPoison ad a.srcFmt.bytes then none else some (elem32 a.srcFmt (rdElem m a.srcFmt a.srcBase i))

/-- All of a list, or none. -/
def allSome : List (Option Nat) → Option (List Nat)
  | [] => some []
  | none :: _ => none
  | some x :: r => match allSome r with | some l => some (x :: l) | none => none

/-- The group of (r, c), rotated, with what the rotation raised. -/
def Act.groupVals (a : Act) (m : Mach) (r c : Nat) : Option (List Nat × Flg) :=
  match allSome ((rotGroup a.cmd r c).1.map (a.rawVal m)) with
  | none => none
  | some v => some (if rotSize a.cmd.rotCode = 0 then (v, Flg.none) else rotate v .none)

/-- The element at (r, c) after rotation (R79 stage 1); none where it reads poisoned. -/
def Act.val (a : Act) (m : Mach) (r c : Nat) : Option Nat :=
  match a.groupVals m r c with
  | none => none
  | some v => some (v.1.getD (rotGroup a.cmd r c).2 0)

/-- Rows of an item: first, and number (R233). -/
def castBox (c : Cmd) (item : Nat) : Nat × Nat :=
  (item * c.itemRows, min c.itemRows (c.cRows - item * c.itemRows))

def castCells (c : Cmd) (item : Nat) : List (Nat × Nat) :=
  let b := castBox c item
  (List.range b.2).flatMap fun i => (List.range c.cCols).map fun j => (b.1 + i, j)

def castItems (c : Cmd) : Nat := ceilDiv c.cRows c.itemRows

/-- What the rotation of the groups that begin in an item raised, at the first element of each. -/
def Act.rotRaised (a : Act) (m : Mach) (item : Nat) : Raised :=
  if rotSize a.cmd.rotCode = 0 then ⟨.none, 0, 0⟩
  else
    let firsts := (castCells a.cmd item).filter fun rc => (rotGroup a.cmd rc.1 rc.2).2 == 0
    (overCells (fun _ rc => fun f => match a.groupVals m rc.1 rc.2 with
      | some v => (0, f.or v.2)
      | none => (0, f)) 0 firsts).2

/-- The whole source of a CAST or ROTATE. -/
def Act.sourceReads (a : Act) : List (Nat × Nat) := [(a.srcBase, a.cmd.cRows * a.cmd.cCols * a.srcFmt.bytes)]

/-- What an item of a CAST or ROTATE reads: its rows, and the rows their rotation groups reach. -/
def Act.castReads (a : Act) (item : Nat) : List (Nat × Nat) :=
  let c := a.cmd
  let b := castBox c item
  let n := if c.axis = 0 then 1 else max 1 (rotSize c.rotCode)
  let lo := b.1 / n * n
  let hi := min c.cRows (ceilDiv (b.1 + b.2) n * n)
  [(denseAddr a.srcFmt a.srcBase (lo * c.cCols), (hi - lo) * c.cCols * a.srcFmt.bytes)]

def absCode (c : Nat) : Nat := c % 2 ^ 31
def isFinite32 (c : Nat) : Bool := (dec32 c).isFinite
/-- The larger of two finite magnitudes given as FP32 codes. -/
def maxCode (a b : Nat) : Nat := max (absCode a) (absCode b)

/-! ### Block scales (R62, R63) -/

/-- Step 3 of R62 for the largest |v| of a block. -/
def blockExp (a scale l : Nat) : Int :=
  match dec32 a, dec32 scale with
  | .fin _ n d, .fin _ sn sd =>
    if n = 0 ∨ sn = 0 then 0
    else
      let p := n * sd
      let q := d * sn * l
      let f := floorLog2 p q
      let k := if p * pow2Den f = q * pow2Num f then f else f + 1
      max (-126) (min 0 k)
  | _, _ => 0

/-- S8 code and exponent of a block from the values it holds, listed outliers left out (R62, R63). -/
def blockScale (fmt : Fmt) (scale : Nat) (vals : List Nat) : Nat × Int :=
  let nan := vals.any fun v => (dec32 v).isNan
  let inf := vals.any fun v => (dec32 v).isInf
  let amax := (vals.filter isFinite32).foldl maxCode 0
  let k := blockExp amax scale (gridMax fmt)
  if fmt = .u4 then (if nan then 0xFF else 0x7F, 0)
  else if nan && fmt != .g4 then (0xFF, k)
  else if (dec32 amax).isZero then (if inf || nan then 0x7F else 0, 0)
  else ((k + 127).toNat, k)

/-- The presented value of R62 step 4. -/
def presented (v scale : Nat) (k : Int) : Ext :=
  match dec32 v, dec32 scale with
  | .fin s n d, .fin _ sn sd => if sn = 0 then .fin s 0 1 else .fin s (n * sd * pow2Den k) (d * sn * pow2Num k)
  | x, _ => x

/-- The presented value of a U4 element (R64). -/
def presentedU4 (v s o : Nat) : Ext :=
  match (extAdd (dec32 v) (dec32 o).neg .none).1, dec32 s with
  | .fin g n d, .fin _ sn sd => .fin g (n * sd) (d * sn)
  | x, _ => x

/-! ### One item -/

def Act.castWork (a : Act) : CastWork :=
  match a.work with
  | .casting w => w
  | _ => ⟨0, false, false, [], [], [], 0, 0, 0, 0, 0, 0, [], false, false⟩

/-- The rounding mode of an element (R45, R49). -/
def Act.castRnd (a : Act) (r c : Nat) : Rnd :=
  if a.cmd.gradient || a.dstFmt == .g4 then
    .sr ((a.cmd.srKey a.dstTensor).draw a.cmd.problem (a.cmd.cRows * a.cmd.cCols) (r * a.cmd.cCols + c))
  else .rne

/-- Values of a block that its scale is taken from. -/
def Act.blockVals (a : Act) (m : Mach) (w : CastWork) (I J : Nat) : List Nat :=
  (List.range 64).filterMap fun e =>
    let r := 8 * I + e / 8
    let c := 8 * J + e % 8
    if r < a.cmd.cRows ∧ c < a.cmd.cCols ∧ !w.listed.contains (r * a.cmd.cCols + c) then a.val m r c else none

/-- Block scales of an item, in block order. -/
def Act.itemBlocks (a : Act) (m : Mach) (item : Nat) : List (Nat × Int) :=
  let b := castBox a.cmd item
  let w := a.castWork
  (List.range (blocksOf b.2)).flatMap fun i => (List.range (blocksOf a.cmd.cCols)).map fun j =>
    blockScale a.dstFmt w.scale (a.blockVals m w (b.1 / 8 + i) j)

/-- One element converted, given its block's scale. A NaN of a zero-range U4 channel raises INV, as the first row of R63
has it (log entry 118). -/
def Act.castElem (a : Act) (m : Mach) (blocks : List (Nat × Int)) (r0 : Nat) (rc : Nat × Nat) : NM Nat :=
  let w := a.castWork
  let v := (a.val m rc.1 rc.2).getD 0
  let rnd := a.castRnd rc.1 rc.2
  let f := a.dstFmt
  if !f.isFour then convertTo f rnd (dec32 v)
  else if w.listed.contains (rc.1 * a.cmd.cCols + rc.2) then do
    let _ ← convertFloat .bf16 .rne (dec32 v)
    pure 0
  else
    let s := blocks.getD ((rc.1 - r0) / 8 * blocksOf a.cmd.cCols + rc.2 / 8) (0, 0)
    if f = .u4 then
      let ch := w.chans.getD (if a.cmd.axis = 0 then rc.1 else rc.2) (0, 0)
      if (dec32 v).isNan then convertTo .u4 rnd .nan
      else if (dec32 ch.1).isZero then pure 0
      else convertTo .u4 rnd (presentedU4 v ch.1 ch.2)
    else if s.1 = 0 then pure 0
    else convertTo f rnd (presented v w.scale s.2)

/-- The tag of a page (R58): PEELED and SPILL from the outliers found. -/
def Act.pageTag (a : Act) (page : Nat) : Nat :=
  let w := a.castWork
  let cols := a.cmd.cCols
  let pageOf := fun (i : Nat) => (i / cols / 8 * blocksOf cols + i % cols / 8) / 31
  a.dstFmt.code * 64 + a.cmd.rotCode * 8 + a.cmd.axis * 4 +
    (if w.listed.any fun i => pageOf i == page then 2 else 0) +
    (if w.spilledAt.any fun i => pageOf i == page then 1 else 0)

/-- The bytes of a block from the codes of its 64 elements. -/
def packBlock (codes : List Nat) : Bytes :=
  (List.range 32).map fun i => BitVec.ofNat 8 (codes.getD (2 * i) 0 % 16 + codes.getD (2 * i + 1) 0 % 16 * 16)

/-- The pages of an item written: scales, blocks, tags, and after the last block the unused slots (R57). -/
def Act.writePages (a : Act) (m : Mach) (item : Nat) (blocks : List (Nat × Int)) (codes : List Nat)
    (poison : Bool) : Mach :=
  let b := castBox a.cmd item
  let cols := a.cmd.cCols
  let cb := blocksOf cols
  let first := b.1 / 8 * cb
  let base := a.dstBase
  let total := gridBlocks a.cmd.cRows cols
  let n := blocksOf b.2 * cb
  let m := (List.range n).foldl (fun s k =>
    let i := k / cb
    let j := k % cb
    let bc := (List.range 64).map fun e =>
      let r := 8 * i + e / 8
      let c := 8 * j + e % 8
      if r < b.2 ∧ c < cols then codes.getD (r * cols + c) 0 else 0
    let s := s.wr (scaleAddr base (first + k)) (leBytes 1 ((blocks.getD k (0, 0)).1)) poison
    s.wr (dataAddr base (first + k)) (packBlock bc) poison) m
  let m := (List.range ((first + n - 1) / 31 - first / 31 + 1)).foldl (fun s k =>
    s.wr (tagAddr base (first / 31 + k)) (leBytes 1 (a.pageTag (first / 31 + k))) poison) m
  if first + n = total then
    (List.range (pagesOf total * 31 - total)).foldl (fun s k =>
      (s.wr (scaleAddr base (total + k)) [0] false).wr (dataAddr base (total + k)) (zerosB 32) false) m
  else m

/-- The rows of an item in a dense destination. -/
def Act.writeDense (a : Act) (m : Mach) (item : Nat) (codes : List Nat) (poison : Bool) : Mach :=
  let b := castBox a.cmd item
  m.wr (denseAddr a.dstFmt a.dstBase (b.1 * a.cmd.cCols)) (codes.flatMap fun v => leBytes a.dstFmt.bytes v) poison

/-- The outputs of an item that is lost to poison or to a fence (R304, R440). -/
def Act.castPoison (a : Act) (m : Mach) (item : Nat) : Mach :=
  if a.dstFmt.isFour then a.writePages m item [] [] true
  else a.writeDense m item ((castCells a.cmd item).map fun _ => 0) true

/-- What the calipers of an item observe (R66, R67). -/
def Act.observe (a : Act) (m : Mach) (item : Nat) (blocks : List (Nat × Int)) (sats : Nat) : CastWork :=
  let w := a.castWork
  let cells := castCells a.cmd item
  let vals := cells.map fun rc => (rc.1 * a.cmd.cCols + rc.2, (a.val m rc.1 rc.2).getD 0)
  let four := a.dstFmt.isFour
  let w := { w with
    sats := w.sats + sats
    nanSeen := w.nanSeen || vals.any fun v => (dec32 v.2).isNan
    infSeen := w.infSeen || vals.any fun v => (dec32 v.2).isInf }
  if !four then w
  else
    let hist := if a.dstFmt = .u4 then w.hist
      else blocks.foldl (fun (h : List Nat) s =>
        if s.1 = 0 ∨ s.1 = 0xFF then h else h.modify (min 15 (127 - s.1)) (· + 1)) w.hist
    { w with
      maxAbs := (vals.filter fun v => isFinite32 v.2 && !w.listed.contains v.1).foldl
        (fun acc v => maxCode acc v.2) w.maxAbs
      zeroBlocks := w.zeroBlocks + (blocks.filter fun s => s.1 == 0).length
      nanBlocks := w.nanBlocks + (blocks.filter fun s => s.1 == 0xFF).length
      hist := hist }

/-- A cast unit finishes an item of a CAST (R79). The record's SATURATIONS count the conversions, those of listed BF16
values among them, and not the FP32 steps of the rotation (R67; log entry 120). -/
def castItem (m : Mach) (a : Act) (e item : Nat) : Mach × Act :=
  let cells := castCells a.cmd item
  if cells.any fun rc => (a.val m rc.1 rc.2).isNone then
    (a.castPoison (m.countPoisonedField a.handles a.cmd.problem 32) item, a.fault rPOISON 32 true)
  else
    let blocks := if a.dstFmt.isFour then a.itemBlocks m item else []
    let y := overCells (fun _ rc => a.castElem m blocks (castBox a.cmd item).1 rc) 0 cells
    let x := m.book e a ((a.rotRaised m item).or y.2)
    let m' := if a.dstFmt.isFour then a.writePages x.1 item blocks y.1 false else a.writeDense x.1 item y.1 false
    (m', { x.2 with work := .casting (a.observe m item blocks y.2.flg.sats) })

/-- A cast unit finishes an item of a ROTATE (R80): RNE, or SR for a gradient. -/
def rotateItem (m : Mach) (a : Act) (e item : Nat) : Mach × Act :=
  let cells := castCells a.cmd item
  if cells.any fun rc => (a.val m rc.1 rc.2).isNone then
    (a.castPoison (m.countPoisonedField a.handles a.cmd.problem 32) item, a.fault rPOISON 32 true)
  else
    let y := overCells (fun _ rc => outCode a.dstFmt (a.castRnd rc.1 rc.2) ((a.val m rc.1 rc.2).getD 0)) 0 cells
    let x := m.book e a ((a.rotRaised m item).or y.2)
    (a.writeDense x.1 item y.1 false, x.2)

/-- WORK of a cast unit (R445): element codes written, pad included. -/
def castWorkCount (a : Act) (item : Nat) : Nat :=
  let b := castBox a.cmd item
  if a.dstFmt.isFour then blocksOf b.2 * blocksOf a.cmd.cCols * 64 else b.2 * a.cmd.cCols

/-! ### The scale table (R70 to R76) -/

def Mach.scaleEntry (m : Mach) (p tensor : Nat) : Nat := m.obj O.SCALE_TABLE p + tensor % 65536 * 128

/-- A freshly bound entry (R70, R76). -/
def freshEntry (tensor : Nat) : Bytes := leBytes 4 tensor ++ [1] ++ zerosB 123

/-- The valid MAX values, newest first. -/
def entryMaxes (e : Bytes) : List Nat :=
  (List.range (min 16 (fld e 5 1))).map fun i => fld e (32 + 4 * ((fld e 6 1 % 16 + 16 - i) % 16)) 4

def entrySeeded (e : Bytes) : Bool := (entryMaxes e).any fun v => !(dec32 v).isZero

/-- Largest of the recorded maxima. -/
def entryMax (e : Bytes) : Nat := (entryMaxes e).foldl (fun a v => (fmax a v .none).1) 0

/-- latch_scale of R72: T, and the flags of its roundings; an inexact T sets INX (R47; log entry 119). -/
def latchScale (amax margin l : Nat) : Nat × Flg :=
  let x := fmul amax margin .none
  let y := fdiv x.1 (natToFp32 l) .none
  let f := x.2.or y.2
  let low := (dec32 y.1).isFinite && decide (y.1 < 0x00800000)
  (if low then 0x00800000 else y.1, { f with unf := false, inx := f.inx || low })

/-- The engine that takes the flags of a latch, of the channel parameters and of the line sums: the CAST engine of the
first tile in service of the span's first cluster (log entry 19). -/
def Mach.latchEngine (m : Mach) (c : Cmd) : Nat :=
  tileEngine ((m.liveTiles c.spanFirst).headD (c.spanFirst * 64)) 3

/-- The merge of R73 at the end of a CAST: a history value, or none after a fault. -/
def Mach.scaleMerge (m : Mach) (c : Cmd) (tensor : Nat) (maxAbs : Option Nat) : Mach :=
  let ad := m.scaleEntry c.part tensor
  if m.rdPoison ad 128 then (m.wr ad (freshEntry tensor) false).bump O.SCALE_LOST c.part 1
  else
    let e := m.rd ad 128
    let run := fld e 14 2
    if !(fld e 4 1).testBit 1 || fld e 8 6 != c.step || run == 0 then m
    else
      let e := patch e 14 (leBytes 2 (run - 1))
      match maxAbs with
      | none => m.wr ad e false
      | some v =>
        let count := fld e 5 1
        let head := fld e 6 1 % 16
        if count > 0 ∧ fld e 20 6 = c.step then
          m.wr ad (patch e (32 + 4 * head) (leBytes 4 (fmax (fld e (32 + 4 * head) 4) v .none).1)) false
        else
          let h := if count = 0 then 0 else (head + 1) % 16
          let e := patch e (32 + 4 * h) (leBytes 4 v)
          m.wr ad (patch (patch (patch e 20 (leBytes 6 c.step)) 6 (leBytes 1 h)) 5 (leBytes 1 (min 16 (count + 1)))) false

/-! ### Validation of CAST and ROTATE (R233, R238; the order of R87) -/

def Fmt.dense : Fmt → Bool
  | .f8 | .h8 | .bf16 | .fp16 | .fp32 => true
  | _ => false

/-- Whether a destination's scale comes from the table. -/
def Fmt.scaled : Fmt → Bool
  | .f4 | .i4 | .g4 => true
  | _ => false

/-- Lines across the contraction axis: channels of U4, lines of a line-sum vector. -/
def Cmd.lines (c : Cmd) : Nat := if c.axis = 0 then c.cRows else c.cCols

def Cmd.contractionLen (c : Cmd) : Nat := if c.axis = 0 then c.cCols else c.cRows

/-- The fields CAST and ROTATE share. -/
def checkCastFields (c : Cmd) : Chk Unit := do
  need (count24 c.cRows) rFIELD 20
  need (count24 c.cCols) rFIELD 23
  need (rotSize c.rotCode == 0 || c.contractionLen % rotSize c.rotCode == 0) rFIELD 2
  checkSpan c 29

/-- CAST up to its latch: what it holds. A capacity without a LIST is BOUND at OUTLIER_CAPACITY: a list that is not
there holds no byte (log entry 120). -/
def validateCast (m : Mach) (c : Cmd) : Chk Act := do
  checkCastFields c
  let hs ← readHandles m c (handleFields c)
  let p := c.problem
  let dstCode := (mget hs 36).map (·.fmt)
  let four := match dstCode with | some k => decide (k ≤ 3) | none => false
  let u4 := dstCode == some 2
  need (!c.lineSums || (four && !u4)) rFIELD 31
  let src ← mustHave hs c 32
  let dst ← mustHave hs c 36
  need (!c.lineSums || dst.vector != 0) rFIELD 31
  need (!u4 || dst.vector != 0) rFIELD 36
  need (!four || dst.at_ p % 1024 == 0) rFIELD 36
  let hs ← if u4 ∨ c.lineSums then do
      let v ← readSide m c 36 dst.vector
      need (v.addrOk p) rFIELD 36
      pure (mset hs 100 v)
    else pure hs
  match mget hs 40 with
  | some h => need (h.addrOk p) rFIELD 40
  | none => pure ()
  need (c.capacity != 0xFFFFFFFF && (c.capacity == 0 || (four && !u4)) &&
    (c.capacity == 0 || decide (c.cRows * c.cCols ≤ 2 ^ 32))) rFIELD 44
  let hs ← if c.capacity ≠ 0 ∧ dst.list ≠ 0 then do
      let l ← readSide m c 36 dst.list
      need (l.addrOk p) rFIELD 36
      pure (mset hs 164 l)
    else pure hs
  need (spanBelongs m c) rPARTITION 29
  let n := c.cRows * c.cCols
  let srcB := (src.format.map (·.bytes)).getD 0
  let dstN := if four then pagesOf (gridBlocks c.cRows c.cCols) * 1024
    else n * (dst.format.map (·.bytes)).getD 0
  checkBufs m c
    ([⟨32, src.at_ p, src.bytes, n * srcB⟩, ⟨36, dst.at_ p, dst.bytes, dstN⟩] ++
      optBuf (mget hs 40) p 40 128 ++ optBuf (mget hs 100) p 36 (c.lines * (if u4 then 16 else 4)) ++
      optBuf (mget hs 164) p 44 (32 + 8 * c.capacity))
  need (c.capacity == 0 || dst.list != 0) rBOUND 44
  let scaled := four && !u4
  need (!scaled || decide (dst.tensor % 65536 < m.obj O.SCALE_ENTRIES c.part)) rBOUND 36
  need (match src.format with | some f => f.dense | none => false) rFORMAT 32
  need (match dst.format with | some f => f.isFour || f.dense | none => false) rFORMAT 36
  need (!(c.gradient && (dst.fmt == 1 || dst.fmt == 2))) rFORMAT 36
  pure { Act.of c .latching with handles := hs }

def validateRotate (m : Mach) (c : Cmd) : Chk Act := do
  checkCastFields c
  let hs ← readHandles m c (handleFields c)
  let p := c.problem
  let src ← mustHave hs c 32
  let dst ← mustHave hs c 36
  need (spanBelongs m c) rPARTITION 29
  let n := c.cRows * c.cCols
  checkBufs m c [⟨32, src.at_ p, src.bytes, n * (src.format.map (·.bytes)).getD 0⟩,
    ⟨36, dst.at_ p, dst.bytes, n * (dst.format.map (·.bytes)).getD 0⟩]
  need (src.fmt == 9 || src.fmt == 7) rFORMAT 32
  need (dst.fmt == 9 || dst.fmt == 7) rFORMAT 36
  pure { Act.of c .items with handles := hs, toBind := dealAll c (castItems c) }

/-! ### Channel parameters (R64) and outliers (R81) -/

/-- The finite values of a channel that do not read poisoned. -/
def Act.channelVals (a : Act) (m : Mach) (ch : Nat) : List Nat :=
  (List.range a.cmd.contractionLen).filterMap fun k =>
    match (if a.cmd.axis = 0 then a.val m ch k else a.val m k ch) with
    | some v => if isFinite32 v then some v else none
    | none => none

/-- s and o of a channel, FP32. A zero-range channel raises no flag (R64); of a least value held as +0 and as −0 the
first met is the offset (log entry 118). -/
def channelParams (vals : List Nat) : NM (Nat × Nat) := fun f =>
  match vals with
  | [] => ((0, 0), f)
  | v :: r =>
    let mn := r.foldl (fun a x => if (dec32 x).lt (dec32 a) then x else a) v
    let mx := r.foldl (fun a x => if (dec32 a).lt (dec32 x) then x else a) v
    let s := (do fdiv (← fsub mx mn) (natToFp32 15) : NM Nat) .none
    ((s.1, mn), if (dec32 s.1).isZero then f else f.or s.2)

/-- Element indices of the outliers in ascending order: finite, and above τ × T × L. -/
def Act.outliers (a : Act) (m : Mach) (scale tau : Nat) : List Nat :=
  let bound := ((extMul (dec32 tau) (dec32 scale) .none).1)
  let bound := (extMul bound (.ofNat (gridMax a.dstFmt)) .none).1
  (List.range (a.cmd.cRows * a.cmd.cCols)).filter fun i =>
    match a.val m (i / a.cmd.cCols) (i % a.cmd.cCols) with
    | some v => isFinite32 v && bound.lt (dec32 v).abs
    | none => false

/-- The casting state of a command from its tensor scale: outliers peeled, items dealt. A capacity of 0 disables
peeling: no element is an outlier then, none spills, and OUTLIER_MAX_ABS is +0 (log entry 120). -/
def Act.beginCast (a : Act) (m : Mach) (scale : Nat) (twoPass unseeded : Bool) (chans : List (Nat × Nat)) : Act :=
  let cap := a.cmd.capacity
  let out := if cap = 0 ∨ twoPass then [] else a.outliers m scale (m.obj O.OUTLIER_TAU a.cmd.part)
  let outMax := out.foldl (fun x i => maxCode x ((a.val m (i / a.cmd.cCols) (i % a.cmd.cCols)).getD 0)) 0
  { a with
    toBind := dealAll a.cmd (castItems a.cmd)
    work := .casting
      { scale := scale, twoPass := twoPass, unseeded := unseeded, listed := out.take cap,
        spilledAt := out.drop cap, chans := chans,
        zeroRange := (chans.filter fun ch => (dec32 ch.1).isZero).length, maxAbs := 0, outlierMax := outMax,
        sats := 0, zeroBlocks := 0, nanBlocks := 0, hist := List.replicate 16 0, nanSeen := false,
        infSeen := false } }

/-- A validated CAST. A destination of eight bits or more, or U4, has no latch. -/
def Mach.launchCast (m : Mach) (a : Act) : Mach :=
  if a.dstFmt.scaled then m.launch a
  else if a.dstFmt = .u4 then
    let chans := (List.range a.cmd.lines).mapM (fun ch => channelParams (a.channelVals m ch)) Flg.none
    let x := (m.touch [] a.sourceReads).book (m.latchEngine a.cmd) a ⟨chans.2, 0, 0⟩
    x.1.launch (x.2.beginCast m oneFp32 true false chans.1)
  else m.launch (a.beginCast m oneFp32 false false [])

/-- CAST (R79). -/
def castRow (id : CmdId) (errs : List ReadErr) (m : Mach) : Res :=
  descRow (4, 0) id errs (fun c m =>
    match validateCast m c with
    | .error e => .next (m.refuseChecked c e)
    | .ok a => .next (m.launchCast a)) m

/-- ROTATE (R80). -/
def rotateRow (id : CmdId) (errs : List ReadErr) (m : Mach) : Res :=
  descRow (5, 0) id errs (fun c m => m.startOr c (validateRotate m c)) m

/-- The largest finite |v| of the input, poisoned elements left out (R74). -/
def Act.measure (a : Act) (m : Mach) : Nat :=
  (List.range (a.cmd.cRows * a.cmd.cCols)).foldl (fun x i =>
    match a.val m (i / a.cmd.cCols) (i % a.cmd.cCols) with
    | some v => if isFinite32 v then maxCode x v else x
    | none => x) 0

/-- A T that a table written by software holds and that is no positive finite scale is a free one, the same for the
same word (R23, R106; log entry 2). -/
def usableScale (t : Nat) : Nat :=
  if 0x00800000 ≤ t ∧ t ≤ maxFp32 then t
  else 0x00800000 + (Config.usableScale t).toNat % (maxFp32 - 0x00800000 + 1)

/-- A CAST of a step that has latched takes the scale of the entry, and RUN_COUNT rises (R71, R72). -/
def Mach.joinLatch (m : Mach) (a : Act) (e : Bytes) : Mach :=
  let c := a.cmd
  let t := usableScale (fld e 16 4)
  let m := m.wr (m.scaleEntry c.part a.dstTensor) (patch e 14 (leBytes 2 (fld e 14 2 + 1))) false
  let a := a.beginCast m t false (!entrySeeded e) []
  (m.setAct a).bump O.OUTLIER_SPILL c.part a.castWork.spilledAt.length

/-- The first CAST of a step latches the scale from the history, or from a measure pass where there is none, and
the entry holds STEP, FMT, the scale and RUN_COUNT 1 (R71 to R76). -/
def Mach.newLatch (m : Mach) (a : Act) (e : Bytes) : Mach :=
  let c := a.cmd
  let seeded := entrySeeded e
  let amax := if seeded then entryMax e else a.measure m
  let s := if !seeded && (dec32 amax).isZero then (oneFp32, Flg.none)
    else latchScale amax (m.obj O.MARGIN c.part) (gridMax a.dstFmt)
  let t := usableScale s.1
  let e := patch (patch (patch (patch (patch e 4 (leBytes 1 3)) 7 (leBytes 1 a.dstFmt.code)) 8 (leBytes 6 c.step)) 14
    (leBytes 2 1)) 16 (leBytes 4 t)
  let m := m.wr (m.scaleEntry c.part a.dstTensor) e false
  let x := m.book (m.latchEngine c) a ⟨s.2, 0, 0⟩
  let m := if seeded then x.1 else x.1.bump O.TWO_PASS_CASTS c.part 1
  let a := x.2.beginCast m t (!seeded) (!seeded) []
  (m.setAct a).bump O.OUTLIER_SPILL c.part a.castWork.spilledAt.length

/-- SCALE_LATCH (R71 to R76): a CAST latches its tensor scale, waits, or is refused. -/
def scaleLatch (id : CmdId) (errs : List ReadErr) (m : Mach) : Res :=
  match m.act? id with
  | none => cannot "no such command runs"
  | some a =>
    if a.work ≠ .latching then cannot "the command has no latch to make"
    else
      let c := a.cmd
      let n := c.step
      let code := a.dstFmt.code
      let ad := m.scaleEntry c.part a.dstTensor
      let m := m.takeReads errs [(ad, 128)]
      let lost := m.rdPoison ad 128
      let m := if lost then (m.wr ad (freshEntry a.dstTensor) false).bump O.SCALE_LOST c.part 1 else m
      let e0 := m.rd ad 128
      let bound := (fld e0 4 1).testBit 0
      let e := if bound then e0 else freshEntry a.dstTensor
      let latched := (fld e 4 1).testBit 1
      let ls := fld e 8 6
      let run := fld e 14 2
      if bound && fld e 0 4 != a.dstTensor then .next (m.refuse c rOVERLAP 36)
      else if latched && decide (n < ls) then .next (m.refuse c rSTATE 0x10)
      else if latched && n == ls then
        if fld e 7 1 ≠ code then .next (m.refuse c rFORMAT 36)
        else if run ≥ 65535 then .next (m.refuse c rRESOURCE 0xFF)
        else
          .next ((if c.capacity = 0 then m else m.touch errs a.sourceReads).joinLatch a e)
      else if latched && decide (run > 0) then .next m
      else
        let seeded := entrySeeded e
        if !seeded && c.noTwoPass then .next ((m.bump O.UNSEEDED_FAULTS c.part 1).refuse c rUNSEEDED 0xFF)
        else .next ((if seeded && c.capacity == 0 then m else m.touch errs a.sourceReads).newLatch a e)

/-! ### Completion (R65 to R67, R73, R82) -/

/-- The outlier list (R82). -/
def Act.listBytes (a : Act) (m : Mach) : Bytes :=
  let w := a.castWork
  let c := a.cmd
  let head := leBytes 4 a.dstTensor ++ leBytes 6 c.step ++ leBytes 1 (c.rotCode * 8 + c.axis * 4) ++ leBytes 1 0 ++
    leBytes 4 c.capacity ++ leBytes 4 w.listed.length ++ leBytes 4 (sat32 w.spilledAt.length) ++
    leBytes 3 c.problem ++ zerosB 5
  let es := w.listed.flatMap fun i =>
    leBytes 4 i ++ leBytes 2 ((convertFloat .bf16 .rne (dec32 ((a.val m (i / c.cCols) (i % c.cCols)).getD 0)))
      Flg.none).1 ++ zerosB 2
  head ++ es ++ zerosB (8 * (c.capacity - w.listed.length))

/-- The destination as the engines read it, its lines across the contraction axis as rows. -/
def Act.dstFour (a : Act) : Four :=
  ⟨a.dstFmt, a.dstBase, a.cmd.cRows, a.cmd.cCols, decide (a.cmd.axis = 1), a.castWork.scale, 0, 0, 0⟩

/-- The side vector of a U4 tensor (R65). -/
def Act.sideBytes (a : Act) (m : Mach) : Bytes :=
  let d := a.dstFour
  (List.range a.cmd.lines).flatMap fun ch =>
    let p := a.castWork.chans.getD ch (0, 0)
    let q := (List.range a.cmd.contractionLen).foldl (fun s k => s + d.code m ch k) 0
    leBytes 4 p.1 ++ leBytes 4 p.2 ++ leBytes 4 q ++ zerosB 4

/-- The line-sum vector (R65), with what its sums raise, each at the first element of its line (R52). -/
def Act.lineSumCodes (a : Act) (m : Mach) : List Nat × Raised :=
  let d := a.dstFour
  ((List.range a.cmd.lines).mapM fun l => at_ (if a.cmd.axis = 0 then (l, 0) else (0, l))
    (lineSum (blocksOf a.cmd.contractionLen) (fun j => d.code m l j) (fun j => d.s8 m l j) a.dstFmt
      a.castWork.scale)) ⟨.none, 0, 0⟩

/-- The caliper record (R67). -/
def Act.caliperBytes (a : Act) : Bytes :=
  let w := a.castWork
  let c := a.cmd
  let four := a.dstFmt.isFour
  let flags := (if w.twoPass then 1 else 0) + (if w.unseeded then 2 else 0) +
    (if w.spilledAt.isEmpty then 0 else 4) + (if w.nanSeen then 8 else 0) + (if w.infSeen then 16 else 0)
  leBytes 4 a.dstTensor ++ leBytes 6 c.step ++ leBytes 2 flags ++ leBytes 4 (if four then w.maxAbs else 0) ++
    leBytes 4 w.outlierMax ++ leBytes 4 (if a.dstFmt.scaled then w.scale else oneFp32) ++ leBytes 4 (sat32 w.sats) ++
    leBytes 4 (sat32 w.zeroRange) ++ leBytes 4 (sat32 w.listed.length) ++ leBytes 4 (sat32 w.spilledAt.length) ++
    leBytes 4 (sat32 w.zeroBlocks) ++ leBytes 4 (sat32 w.nanBlocks) ++ leBytes 4 c.problem ++ zerosB 12 ++
    w.hist.flatMap fun n => leBytes 4 (sat32 n)

/-- A CAST whose items are all done: list, vector, caliper record, merge, completion. -/
def finishCast (m : Mach) (a : Act) : Mach :=
  let c := a.cmd
  let p := c.problem
  let addr := fun (o : Nat) => match a.h o with | some h => h.at_ p | none => 0
  match worst a.faults with
  | some f =>
    -- the list and the vector draw on every row (R304)
    let m := if (a.h 164).isSome then m.wrPoison (addr 164) (32 + 8 * c.capacity) else m
    let m := if (a.h 100).isSome then m.wrPoison (addr 100) (c.lines * (if a.dstFmt = .u4 then 16 else 4)) else m
    let m := if a.dstFmt.scaled then m.scaleMerge c a.dstTensor none else m
    m.complete c f.1 f.2 0 a.flg a.poisoned
  | none =>
    let m := if (a.h 164).isSome then m.wr (addr 164) (a.listBytes m) false else m
    let x := if (a.h 100).isSome then
        if a.dstFmt = .u4 then (m.wr (addr 100) (a.sideBytes m) false, a)
        else
          let s := a.lineSumCodes m
          (m.wr (addr 100) (s.1.flatMap fun v => leBytes 4 v) false).book (m.latchEngine c) a s.2
      else (m, a)
    let m := x.1
    let a := x.2
    let m := if (a.h 40).isSome then m.wr (addr 40) a.caliperBytes false else m
    let m := m.bump O.ZERO_RANGE_CHANNELS c.part a.castWork.zeroRange
    let m := if a.dstFmt.scaled then m.scaleMerge c a.dstTensor (some a.castWork.maxAbs) else m
    m.complete c 0 0 0 a.flg a.poisoned

/-- A command with nothing left but its outcome (R252). -/
def Mach.finishPlain (m : Mach) (a : Act) : Mach :=
  match worst a.faults with
  | some f => m.complete a.cmd f.1 f.2 0 a.flg a.poisoned
  | none => m.complete a.cmd 0 0 0 a.flg a.poisoned

/-! ### SCALE_SEED (R77) -/

/-- The checks of R77 in order, and the image. -/
def checkSeed (m : Mach) (c : Cmd) (clear : Bool) : Chk Bytes := do
  let tensor := c.f 20 4
  let hs ← if clear then pure [] else readHandles m c [32]
  let img ← if clear then pure none else do
      let h ← mustHave hs c 32
      pure (some h)
  match img with
  | some h => do
    need (m.belongs c.part (h.at_ 0) h.bytes) rPARTITION 32
    need (!m.inHole (h.at_ 0)) rTILELOST 0xFF
    need (decide (128 ≤ h.bytes)) rBOUND 32
  | none => pure ()
  need (decide (tensor % 65536 < m.obj O.SCALE_ENTRIES c.part)) rBOUND 20
  let b := match img with | some h => m.rd (h.at_ 0) 128 | none => zerosB 128
  needLink m c hs [32]
  match img with
  | some h => do
    need (!m.rdPoison (h.at_ 0) 128) rPOISON 32
    need (decide (fld b 5 1 ≤ 16 ∧ fld b 6 1 ≤ 15)) rFIELD 32
  | none => pure ()
  let ad := m.scaleEntry c.part tensor
  need (!m.rdPoison ad 128) rPOISON 20
  need (m.rdNat (ad + 14) 2 == 0) rSTATE 0x10
  pure b

/-- SCALE_SEED writes its entry from the image, or with CLEAR as zero. -/
def seedWith (clear : Bool) (c : Cmd) (m : Mach) : Res :=
  match checkSeed m c clear with
  | .error e => .next (m.refuseChecked c e)
  | .ok b =>
    let tensor := c.f 20 4
    let e := if clear then zerosB 128
      else leBytes 4 tensor ++ [1] ++ bytesAt b 5 2 ++ zerosB 13 ++ bytesAt b 20 6 ++ zerosB 6 ++ bytesAt b 32 64 ++ zerosB 32
    .next ((m.wr (m.scaleEntry c.part tensor) e false).complete c 0 0 0 .none false)

def scaleSeed (id : CmdId) (errs : List ReadErr) (m : Mach) : Res := descRow (11, 0) id errs (seedWith false) m
def scaleSeedClear (id : CmdId) (errs : List ReadErr) (m : Mach) : Res := descRow (11, 1) id errs (seedWith true) m

end Sys2Proof.Machine
end

