-- ==== Sys2Proof/Machine/Wide.lean ====
section
/-! DEFINITION. The WIDE command (R140 to R150): the twelve operations of R149, row by row, and the wide
product of R145. -/

namespace Sys2Proof.Machine

open Sys2Proof

/-! ### The operands of a command -/

def Cmd.wOp (c : Cmd) : Nat := c.f 31 1
def Cmd.act (c : Cmd) : Nat := c.opflags / 256
def Cmd.p0 (c : Cmd) : Nat := c.f 52 4
def Cmd.p1 (c : Cmd) : Nat := c.f 56 4

/-- Slots that hold a row of the input for each row (R150's row inputs). -/
def rowInputs (op : Nat) : List Nat :=
  if op = 1 ∨ op = 2 ∨ op = 3 ∨ op = 4 ∨ op = 6 ∨ op = 7 ∨ op = 8 ∨ op = 10 then [32, 36]
  else if op = 5 ∨ op = 9 then [32, 36, 44]
  else [32]

/-- Slots that hold B, G or BETA, which may have one row (log entry 20). -/
def mayBeOneRow (op o : Nat) : Bool :=
  (o == 36 && op != 6 && op != 7 && op != 11) || (o == 44 && (op == 5 || op == 9))

def Handle.size (h : Handle) : Nat := (h.format.map (·.bytes)).getD 0

/-- A buffer that holds exactly one row. -/
def oneRow (op o n : Nat) (h : Handle) : Bool := mayBeOneRow op o && h.bytes == n * h.size

/-- Address of the row of an input slot. -/
def Act.rowAddr (a : Act) (o r : Nat) : Nat :=
  match a.h o with
  | some h =>
    let n := a.cmd.cCols
    h.at_ a.cmd.problem + (if oneRow a.cmd.wOp o n h then 0 else r * n * h.size)
  | none => 0

/-- Element `j` of row `r` of an input slot as FP32; +0 for a null MASK. -/
def Act.input (a : Act) (m : Mach) (o r j : Nat) : Nat :=
  match a.h o with
  | some h =>
    let f := (h.format).getD .fp32
    elem32 f (m.rdNat (a.rowAddr o r + j * f.bytes) f.bytes)
  | none => 0

/-- Output slot with the gradient or result rows: S4 for XENT, S2 otherwise. -/
def outSlot (op : Nat) : Nat := if op = 7 then 48 else 40

/-- STATS of a row. -/
def Act.statsAddr (a : Act) (r : Nat) : Nat :=
  match a.h 48 with | some h => h.at_ a.cmd.problem + 8 * r | none => 0

def Act.targetOf (a : Act) (m : Mach) (r : Nat) : Nat :=
  match a.h 44 with | some h => m.rdNat (h.at_ a.cmd.problem + 4 * r) 4 | none => 0

/-! ### Validation (R148, R150; the order of R87) -/

/-- A finite FP32 parameter. -/
def finiteP (x : Nat) : Bool := (dec32 x).isFinite

def wideInput (op : Nat) (h : Handle) : Bool :=
  match h.format with
  | some f => f.dense && (op != 11 || f != .fp32)
  | none => false

def wideOutput (h : Handle) : Bool := h.fmt == 9 || h.fmt == 7 || h.fmt == 8

/-- Whether GRADIENT may be set (R148). -/
def gradientOk (op : Nat) : Bool := [7, 8, 9, 10, 12].contains op

/-- Items of a WIDE command: its rows; MATMUL's blocks of 4,096 rows by 16 columns; the one output row of
REDUCE_COLS (R150; log entry 20). -/
def wideItems (c : Cmd) : Nat :=
  if c.wOp = 11 then ceilDiv c.cRows 4096 * ceilDiv (c.f 26 3) 16
  else if c.wOp = 12 then 1 else c.cRows

/-- R148, R150 in the order of R87: the descriptor's fields, then the handles, their buffers, their formats. The Y of
an XENT takes any of the three output formats, a loss an element and the mean at byte offset ROWS × 4 (log entry
114). -/
def validateWide (m : Mach) (c : Cmd) : Chk Act := do
  let op := c.wOp
  let p := c.problem
  need (!c.gradient || gradientOk op) rFIELD 2
  need (count24 c.cRows) rFIELD 20
  need (count24 c.cCols) rFIELD 23
  need (op != 11 || count24 (c.f 26 3)) rFIELD 26
  checkSpan c 29
  let hs ← readHandles m c (handleFields c)
  for o in [32, 36, 40, 44, 48] do
    match mget hs o with
    | some h => need (h.addrOk p) rFIELD o
    | none => pure ()
  need (finiteP c.p0 && ((op != 4 && op != 5) || !(dec32 c.p0).lt .zero)) rFIELD 52
  need (op != 7 || finiteP c.p1) rFIELD 56
  need (spanBelongs m c) rPARTITION 29
  let n := c.cCols
  let rows := c.cRows
  let needs := fun (o : Nat) (h : Handle) =>
    if op = 11 then (if o = 32 then rows * n else if o = 36 then n * c.f 26 3 else rows * c.f 26 3) * h.size
    else if o = 48 ∧ op ≠ 7 then rows * 8
    else if op = 7 ∧ o = 44 then rows * 4
    else if op = 7 ∧ o = 40 then rows * 4 + h.size
    else if op = 12 ∧ o = 40 then n * h.size
    else if oneRow op o n h then n * h.size
    else rows * n * h.size
  checkBufs m c ((([32, 36, 40, 44, 48] : List Nat).filterMap fun o =>
    (mget hs o).map fun h => (⟨o, h.at_ p, h.bytes, needs o h⟩ : Buf)))
  for o in rowInputs op ++ (if op = 11 then [36] else []) do
    match mget hs o with
    | some h => need (wideInput op h) rFORMAT o
    | none => pure ()
  match mget hs 40 with
  | some h => need (wideOutput h) rFORMAT 40
  | none => pure ()
  match mget hs 48 with
  | some h => need (op != 7 || wideOutput h) rFORMAT 48
  | none => pure ()
  let a : Act := { Act.of c .items with handles := hs, toBind := dealAll c (wideItems c) }
  if op = 7 then needLink m c hs [44] else pure ()
  match mget hs 44 with
  | some h =>
    need (op != 7 || !m.rdPoison (h.at_ p) (rows * 4)) rPOISON 44
    need (op != 7 || (List.range rows).all fun r =>
      decide (a.targetOf m r < n) || a.targetOf m r == 0xFFFFFFFF) rBOUND 44
  | none => pure ()
  let named := ((rowInputs op).filter fun o => (mget hs o).isSome).length
  need (op == 11 || decide (n * 4 * (named + 1) ≤ c.clusterArea.2)) rRESOURCE 2
  pure a

def wideRow (op : Nat) (id : CmdId) (errs : List ReadErr) (m : Mach) : Res :=
  descRow (6, op) id errs (fun c m => m.startOr c (validateWide m c)) m

/-! ### The rows of R149 -/

/-- act of 0x03. -/
def actFn (code z : Nat) : NM Nat :=
  match code with
  | 1 => fmax z 0
  | 2 => do fmul (← fmul 0x3F000000 z) (← fadd oneFp32 (← ferf (← fmul z 0x3F3504F3)))
  | 3 => do fdiv z (← fadd oneFp32 (← fexp (fneg z)))
  | _ => pure z

/-- act′ where R149 prints no formula for it: a function of z alone, as R23 and R104 ask, with a value the module may
write and flags of its own (log entry 21). -/
def freeDeriv (code z : Nat) : NM Nat :=
  let v := legal32 (Config.actDeriv code z).toNat
  let g := Config.actDerivFlags code z
  if (dec32 v).isNan then do raiseInv 1; pure v
  else do
    if g.getLsbD 0 then raiseOvf
    if g.getLsbD 1 then raiseUnf
    if g.getLsbD 2 then raiseInx
    pure v

/-- act′ of ACT_BWD: what the formula of 0x03 fixes; the rest is GELU′, SiLU′, and ReLU′ at zero. -/
def actDeriv (code z : Nat) : NM Nat :=
  match code, dec32 z with
  | 0, _ => pure oneFp32
  | _, .nan => do raiseInv 3; pure FloatFmt.fp32.nan
  | 1, x => if x.isZero then freeDeriv code z else pure (if x.sign then 0 else oneFp32)
  | _, _ => freeDeriv code z

/-- A lane-tree sum over `n`. -/
def rowSum (r : Nat) (xs : List Nat) : RM Nat := at_ (r, 0) (laneSum xs)

/-- What a row's meaning reads. -/
structure RowIn where
  row : Nat
  n : Nat
  x : Nat → Nat → Nat
  mu : Nat
  rho : Nat
  act : Nat
  p0 : Nat
  p1 : Nat
  target : Nat
  /-- The STATS are those of an RMSNORM: every mean word is +0 (log entry 20). -/
  rms : Bool

/-- What a row's meaning gives: the output elements as FP32, STATS, and an XENT's loss with whether its row
is left out of the mean. -/
structure RowOut where
  out : List Nat
  stats : Nat × Nat
  loss : Nat
  leftOut : Bool
  deriving DecidableEq, Repr

def RowOut.of (l : List Nat) : RowOut := ⟨l, (0, 0), 0, false⟩

/-- The soft maximum of a row; none where it is fully masked (R147). -/
def softRow (i : RowIn) : RM (Option (List Nat)) := fun r0 =>
  let x : RM (Nat × List Nat) := do
    let z ← elems i.row i.n fun j => do fadd (← fmul i.p0 (i.x 32 j)) (i.x 36 j)
    let mx ← at_ (i.row, 0) (laneMax z)
    pure (mx, z)
  let y := x r0
  if dec32 y.1.1 = .inf true then (none, r0)
  else
    let rest : RM (List Nat) := do
      let e ← elems i.row i.n fun j => do fexp (← fsub (y.1.2.getD j 0) y.1.1)
      let s ← rowSum i.row e
      elems i.row i.n fun j => fdiv (e.getD j 0) s
    let w := rest y.2
    (some w.1, w.2)

/-- R149 on one row. -/
def rowMeaning (op : Nat) (i : RowIn) : RM RowOut := do
  let a := i.x 32
  let b := i.x 36
  let n32 := natToFp32 i.n
  let E := elems i.row i.n
  match op with
  | 1 => pure (.of (← E fun j => fadd (a j) (b j)))
  | 2 => pure (.of (← E fun j => fmul (a j) (b j)))
  | 3 => pure (.of (← E fun j => do actFn i.act (← fadd (a j) (b j))))
  | 4 => do
    let sq ← E fun j => fmul (a j) (a j)
    let s ← rowSum i.row sq
    let rho ← at_ (i.row, 0) (do frsqrt (← fadd (← fdiv s n32) i.p0))
    let y ← E fun j => do fmul (← fmul (a j) rho) (b j)
    pure ⟨y, (0, rho), 0, false⟩
  | 5 => do
    let s ← rowSum i.row ((List.range i.n).map a)
    let mu ← at_ (i.row, 0) (fdiv s n32)
    let d ← E fun j => fsub (a j) mu
    let sq ← E fun j => fmul (d.getD j 0) (d.getD j 0)
    let v ← rowSum i.row sq
    let rho ← at_ (i.row, 0) (do frsqrt (← fadd (← fdiv v n32) i.p0))
    let y ← E fun j => do fadd (← fmul (← fmul (d.getD j 0) rho) (b j)) (i.x 44 j)
    pure ⟨y, (mu, rho), 0, false⟩
  | 6 => do
    match ← softRow i with
    | none => pure (.of (List.replicate i.n 0))
    | some y => pure (.of y)
  | 7 =>
    if i.target = 0xFFFFFFFF then pure ⟨List.replicate i.n 0, (0, 0), 0, true⟩
    else do
      match ← softRow i with
      | none => pure ⟨List.replicate i.n 0, (0, 0), 0, true⟩
      | some y => do
        let l ← at_ (i.row, i.target) (flog (y.getD i.target 0))
        let da ← E fun j => do
          fmul (← fsub (y.getD j 0) (if j = i.target then oneFp32 else 0)) i.p1
        pure ⟨da, (0, 0), fneg l, false⟩
  | 8 => do
    let t ← E fun j => fmul (b j) (a j)
    let s ← rowSum i.row t
    pure (.of (← E fun j => do fmul (← fmul (a j) (← fsub (b j) s)) i.p0))
  | 9 => do
    let x ← E fun j => do fmul (← fsub (a j) i.mu) i.rho
    let h ← E fun j => fmul (b j) (i.x 44 j)
    let hx ← E fun j => fmul (h.getD j 0) (x.getD j 0)
    let s1 ← rowSum i.row hx
    let c1 ← at_ (i.row, 0) (fdiv s1 n32)
    let c0 ← if i.rms then pure 0 else do
      let s0 ← rowSum i.row h
      at_ (i.row, 0) (fdiv s0 n32)
    pure (.of (← E fun j => do
      fmul (← fsub (← fsub (h.getD j 0) c0) (← fmul (x.getD j 0) c1)) i.rho))
  | _ => pure (.of (← E fun j => do fmul (b j) (← actDeriv i.act (a j))))

/-! ### One item -/

/-- Whether STATS are those of an RMSNORM, whose mean words are all +0 (R149; log entry 20). -/
def Act.rmsStats (a : Act) (m : Mach) : Bool :=
  (List.range a.cmd.cRows).all fun r => m.rdNat (a.statsAddr r) 4 == 0

/-- The row of a WIDE command as its meaning reads it. -/
def Act.rowIn (a : Act) (m : Mach) (r : Nat) : RowIn :=
  let c := a.cmd
  { row := r, n := c.cCols, x := fun o j => a.input m o r j, mu := m.rdNat (a.statsAddr r) 4,
    rho := m.rdNat (a.statsAddr r + 4) 4, act := c.act, p0 := c.p0, p1 := c.p1, target := a.targetOf m r,
    rms := c.wOp == 9 && a.rmsStats m }

/-- The slot through which a row reads poison (R304). -/
def Act.rowPoison (a : Act) (m : Mach) (r : Nat) : Option Nat :=
  let op := a.cmd.wOp
  let bad := (rowInputs op).find? fun o => match a.h o with
    | some h => m.rdPoison (a.rowAddr o r) (a.cmd.cCols * h.size)
    | none => false
  match bad with
  | some o => some o
  | none =>
    let badTarget := match a.h 44 with
      | some h => m.rdPoison (h.at_ a.cmd.problem + 4 * r) 4
      | none => false
    if op == 9 && m.rdPoison (a.statsAddr r) 8 then some 48
    else if op == 7 && badTarget then some 44 else none

/-- FP32 values converted and written as a row of an output slot (R46, R49, R150). -/
def Act.writeRow (a : Act) (o r cols : Nat) (vals : List Nat) : RM Bytes :=
  match a.h o with
  | some h => do
    let f := (h.format).getD .fp32
    let c := a.cmd
    let total := if c.wOp = 12 then cols else c.cRows * cols
    let codes ← elems r cols fun j =>
      outCode f (if c.gradient then .sr ((c.srKey h.tensor).draw c.problem total (r * cols + j)) else .rne)
        (vals.getD j 0)
    pure (codes.flatMap fun v => leBytes f.bytes v)
  | none => pure []

def Act.outAddr (a : Act) (o i : Nat) : Nat :=
  match a.h o with
  | some h => h.at_ a.cmd.problem + i * h.size
  | none => 0

/-- What an item of a WIDE command reads: the rows of its inputs with their target and statistics, a block of a MATMUL,
or the whole of a REDUCE_COLS. -/
def Act.wideReads (a : Act) (item : Nat) : List (Nat × Nat) :=
  let c := a.cmd
  let size := fun (o : Nat) => match a.h o with | some h => h.size | none => 0
  if c.wOp = 11 then
    let N := c.f 26 3
    let s := ceilDiv N 16
    let c0 := item % s * 16
    let r0 := item / s * 4096
    (a.outAddr 32 (r0 * c.cCols), min 4096 (c.cRows - r0) * c.cCols * size 32) ::
      (List.range c.cCols).map fun k => (a.outAddr 36 (k * N + c0), min 16 (N - c0) * size 36)
  else if c.wOp = 12 then [(a.outAddr 32 0, c.cRows * c.cCols * size 32)]
  else
    ((rowInputs c.wOp).filter fun o => (a.h o).isSome).map (fun o => (a.rowAddr o item, c.cCols * size o)) ++
      (if c.wOp = 9 then [(a.statsAddr item, 8)] else []) ++
      (if c.wOp = 7 then [((a.h 44).elim 0 (·.at_ c.problem) + 4 * item, 4)] else [])

/-- The outputs of an item lost to poison (R304): its row of every output, or its block of a MATMUL. -/
def Act.widePoison (a : Act) (m : Mach) (item : Nat) : Mach :=
  let c := a.cmd
  let n := c.cCols
  let size := fun (o : Nat) => match a.h o with | some h => h.size | none => 0
  if c.wOp = 11 then
    let N := c.f 26 3
    let s := ceilDiv N 16
    let r0 := item / s * 4096
    let c0 := item % s * 16
    (List.range (min 4096 (c.cRows - r0))).foldl (fun x i =>
      x.wrPoison (a.outAddr 40 ((r0 + i) * N + c0)) (min 16 (N - c0) * size 40)) m
  else if c.wOp = 12 then m.wrPoison (a.outAddr 40 0) (n * size 40)
  else
    let o := outSlot c.wOp
    let m := m.wrPoison (a.outAddr o (item * n)) (n * size o)
    if c.wOp = 4 ∨ c.wOp = 5 then m.wrPoison (a.statsAddr item) 8
    else if c.wOp = 7 then m.wrPoison (a.outAddr 40 item) (size 40) else m

/-- A block of a wide product (R145). -/
def matmulItem (m : Mach) (a : Act) (e item : Nat) : Mach × Act :=
  let c := a.cmd
  let N := c.f 26 3
  let K := c.cCols
  let s := ceilDiv N 16
  let r0 := item / s * 4096
  let c0 := item % s * 16
  let h := min 4096 (c.cRows - r0)
  let w := min 16 (N - c0)
  let bytesA := match a.h 32 with | some x => x.size | none => 0
  let bytesB := match a.h 36 with | some x => x.size | none => 0
  let badA := (List.range h).any fun i => m.rdPoison (a.outAddr 32 ((r0 + i) * K)) (K * bytesA)
  let badB := (List.range K).any fun k => m.rdPoison (a.outAddr 36 (k * N + c0)) (w * bytesB)
  if badA then (a.widePoison (m.countPoisonedField a.handles c.problem 32) item, a.fault rPOISON 32 true)
  else if badB then (a.widePoison (m.countPoisonedField a.handles c.problem 36) item, a.fault rPOISON 36 true)
  else
    let fA := ((a.h 32).bind Handle.format).getD .bf16
    let fB := ((a.h 36).bind Handle.format).getD .bf16
    let x : RM (List Bytes) := (List.range h).mapM fun i => do
      let vals ← (List.range w).mapM fun j => at_ (r0 + i, c0 + j)
        (foldNM (fun acc k => fmaEx acc (decodeElem fA (m.rdNat (a.outAddr 32 ((r0 + i) * K + k)) fA.bytes))
          (decodeElem fB (m.rdNat (a.outAddr 36 (k * N + c0 + j)) fB.bytes))) 0 (List.range K))
      let fY := ((a.h 40).bind Handle.format).getD .fp32
      let codes ← (List.range w).mapM fun j => at_ (r0 + i, c0 + j) (outCode fY .rne (vals.getD j 0))
      pure (codes.flatMap fun v => leBytes fY.bytes v)
    let y := x ⟨.none, 0, 0⟩
    let b := m.book e a y.2
    ((List.range h).foldl (fun s i => s.wr (a.outAddr 40 ((r0 + i) * N + c0)) (y.1.getD i []) false) b.1, b.2)

/-- REDUCE_COLS: every column summed over the rows, ascending from +0. -/
def reduceColsItem (m : Mach) (a : Act) (e : Nat) : Mach × Act :=
  let c := a.cmd
  let n := c.cCols
  let bytesA := match a.h 32 with | some x => x.size | none => 0
  if m.rdPoison (a.outAddr 32 0) (c.cRows * n * bytesA) then
    (a.widePoison (m.countPoisonedField a.handles c.problem 32) 0, a.fault rPOISON 32 true)
  else
    let x : RM Bytes := do
      let sums ← elems 0 n fun j => foldNM (fun acc r => fadd acc (a.input m 32 r j)) 0 (List.range c.cRows)
      a.writeRow 40 0 n sums
    let y := x ⟨.none, 0, 0⟩
    let b := m.book e a y.2
    (b.1.wr (a.outAddr 40 0) y.1 false, b.2)

/-- A loss, or their mean, in the format of Y (R46, R149). -/
def Act.lossBytes (a : Act) (v : Nat) : NM Bytes :=
  match a.h 40 with
  | some h => do
    let f := (h.format).getD .fp32
    pure (leBytes f.bytes (← outCode f .rne v))
  | none => pure []

/-- The mean of an XENT lies at byte offset ROWS × 4 of Y (R149). -/
def Act.meanAddr (a : Act) : Nat :=
  match a.h 40 with
  | some h => h.at_ a.cmd.problem + a.cmd.cRows * 4
  | none => 0

/-- A wide unit finishes an item of a WIDE command. -/
def wideItem (m : Mach) (a : Act) (e item : Nat) : Mach × Act :=
  let c := a.cmd
  let op := c.wOp
  if op = 11 then matmulItem m a e item
  else if op = 12 then reduceColsItem m a e
  else
    match a.rowPoison m item with
    | some o => (a.widePoison (m.countPoisonedField a.handles c.problem o) item, a.fault rPOISON o true)
    | none =>
      let o := outSlot op
      let n := c.cCols
      let x : RM (RowOut × Bytes × Bytes) := do
        let r ← rowMeaning op (a.rowIn m item)
        let b ← a.writeRow o item n r.out
        let l ← if op = 7 then at_ (item, 0) (a.lossBytes r.loss) else pure []
        pure (r, b, l)
      let y := x ⟨.none, 0, 0⟩
      let b := m.book e a y.2
      let m := b.1.wr (a.outAddr o (item * n)) y.1.2.1 false
      let st := y.1.1
      let m := if op = 4 ∨ op = 5 then m.wr (a.statsAddr item) (leBytes 4 st.stats.1 ++ leBytes 4 st.stats.2) false
        else m
      if op = 7 then
        (m.wr (a.outAddr 40 item) y.1.2.2 false, { b.2 with losses := mset b.2.losses item (st.loss, st.leftOut) })
      else (m, b.2)

/-- Lane operations of a lane tree over `n` elements (R144). -/
def treeWork (n : Nat) : Nat := n + 255

/-- WORK of a wide unit for an item (R445): products accumulated and lane operations, one for each operation of
R149's line. The steps of a function are not stated: where a row takes one, its operations are a free function of
what it reads (log entry 44). -/
def wideWork (m : Mach) (a : Act) (item : Nat) : Nat :=
  let c := a.cmd
  let n := c.cCols
  match c.wOp with
  | 1 | 2 => n
  | 8 => n + treeWork n + 3 * n
  | 9 => 4 * n + (treeWork n + 1) + (if a.rmsStats m then 0 else treeWork n + 1) + 4 * n
  | 11 =>
    let N := c.f 26 3
    let s := ceilDiv N 16
    min 4096 (c.cRows - item / s * 4096) * min 16 (N - item % s * 16) * n
  | 12 => c.cRows * n
  | op =>
    if op = 3 ∧ c.act = 0 then n
    else if op = 3 ∧ c.act = 1 then 2 * n
    else (Config.rowWork op c.act ([n, c.p0, c.p1, a.targetOf m item] ++
      (rowInputs op).flatMap fun o => (List.range n).map (a.input m o item))).toNat

/-- A WIDE command whose items are all done: the mean of an XENT, formed by the wide unit of the span's first cluster
and booked at row ROWS, column 0 of its losses (log entry 115), then its outcome. -/
def finishWide (m : Mach) (a : Act) : Mach :=
  if a.cmd.wOp ≠ 7 then m.finishPlain a
  else if a.poisoned then
    (m.wrPoison a.meanAddr (match a.h 40 with | some h => h.size | none => 0)).finishPlain a
  else
    let ls := (a.losses.filter fun l => !l.2.2).map (·.2.1)
    let x := (do
      let s ← foldNM fadd 0 ls
      a.lossBytes (← fdiv s (natToFp32 ls.length)) : NM Bytes) .none
    let b := m.book (wideEngine a.cmd.spanFirst) a ⟨x.2, a.cmd.cRows, 0⟩
    (b.1.wr a.meanAddr x.1 false).finishPlain b.2

/-! ### The rows of the table -/

def wideAdd (id : CmdId) (errs : List ReadErr) (m : Mach) : Res := wideRow 1 id errs m
def wideMul (id : CmdId) (errs : List ReadErr) (m : Mach) : Res := wideRow 2 id errs m
def wideBiasAct (id : CmdId) (errs : List ReadErr) (m : Mach) : Res := wideRow 3 id errs m
def wideRmsnorm (id : CmdId) (errs : List ReadErr) (m : Mach) : Res := wideRow 4 id errs m
def wideLayernorm (id : CmdId) (errs : List ReadErr) (m : Mach) : Res := wideRow 5 id errs m
def wideSoftmax (id : CmdId) (errs : List ReadErr) (m : Mach) : Res := wideRow 6 id errs m
def wideXent (id : CmdId) (errs : List ReadErr) (m : Mach) : Res := wideRow 7 id errs m
def wideSoftmaxBwd (id : CmdId) (errs : List ReadErr) (m : Mach) : Res := wideRow 8 id errs m
def wideNormBwd (id : CmdId) (errs : List ReadErr) (m : Mach) : Res := wideRow 9 id errs m
def wideActBwd (id : CmdId) (errs : List ReadErr) (m : Mach) : Res := wideRow 10 id errs m
def wideMatmul (id : CmdId) (errs : List ReadErr) (m : Mach) : Res := wideRow 11 id errs m
def wideReduceCols (id : CmdId) (errs : List ReadErr) (m : Mach) : Res := wideRow 12 id errs m

end Sys2Proof.Machine
end

