-- ==== Sys2Proof/Machine/Items.lean ====
section
/-! DEFINITION. The end of a work item (R93), and the items a fenced tile loses (R440). -/

namespace Sys2Proof.Machine

open Sys2Proof

/-- The outputs of an item that no engine will finish are written poisoned (R440). -/
def Act.poisonOutputs (a : Act) (m : Mach) (item : Nat) : Mach :=
  match a.cmd.opcode with
  | 4 | 5 => a.castPoison m item
  | 6 => a.widePoison m item
  | _ => a.writeBox m item ((itemCells a.cmd item).map fun _ => 0) true

/-- A command whose items are all done (R93). -/
def Mach.finish (m : Mach) (a : Act) : Mach :=
  match a.cmd.opcode with
  | 1 | 2 | 3 => finishProduct m a
  | 4 => finishCast m a
  | 6 => finishWide m a
  | _ => m.finishPlain a

/-- What the engine reads for an item. -/
def Act.itemReads (a : Act) (item : Nat) : List (Nat × Nat) :=
  match a.cmd.opcode with
  | 1 | 2 | 3 => a.productReads item
  | 4 | 5 => a.castReads item
  | _ => a.wideReads item

/-- The engine's part of an item: the module, the command, and whether every output is written. -/
def itemEffect (m : Mach) (a : Act) (e item : Nat) : Mach × Act × Bool :=
  match a.cmd.opcode with
  | 1 | 2 | 3 => productItem m a e item
  | 4 => let x := castItem m a e item; (x.1, x.2, true)
  | 5 => let x := rotateItem m a e item; (x.1, x.2, true)
  | _ => let x := wideItem m a e item; (x.1, x.2, true)

/-- WORK for an item. -/
def itemWork (m : Mach) (a : Act) (item : Nat) : Nat :=
  match a.cmd.opcode with
  | 1 | 2 | 3 => productWork a item
  | 4 | 5 => castWorkCount a item
  | _ => wideWork m a item

/-- The outputs of an item are written, the engine's counters rise, and the command completes with its last item. -/
def Mach.endItem (m : Mach) (a : Act) (e item : Nat) (spent : Spent) : Mach :=
  let x := itemEffect m a e item
  let m := x.1.spend e spent (itemWork m a item)
  let m := if x.2.2 then m.itemDone a.cmd.id (engineCluster e) else m
  let m := m.restEngine e a.cmd
  let m := m.setAct x.2.1
  if m.allFreed x.2.1 then m.finish x.2.1 else m

/-- WORK_ITEM_END (R93): an engine finishes writing an item. -/
def workItemEnd (e : Nat) (spent : Spent) (errs : List ReadErr) (m : Mach) : Res :=
  match m.running.find? fun r => r.engine == e with
  | none => cannot "the engine runs no item"
  | some r =>
    match m.act? r.cmd with
    | none => cannot "an item without its command"
    | some a =>
      if !m.bayReady (engineBay e) then .next m
      else
        let m := m.takeReads errs (a.itemReads r.item)
        .next ({ m with running := m.running.filter fun x => decide (x.engine ≠ e) }.endItem a e r.item spent)

/-! ### A host access that fails (R251, R345, R347; log entry 31) -/

/-- The work of a command is dropped: its counters, its items, and its engines' runs. -/
def Mach.dropWork (m : Mach) (c : Cmd) : Mach :=
  let es := (m.engines.filter fun x => decide (x.2.run.map (·.id) = some c.id)).map (·.1)
  let m := es.foldl (fun s e => s.stopRun e) m
  { m with
    counters := m.counters.filter fun k => decide (k.cmd ≠ c.id)
    running := m.running.filter fun r => decide (r.cmd ≠ c.id)
    addBacks := m.addBacks.filter fun b => decide (b.cmd ≠ c.id) }

/-- Items of a command. -/
def itemCount (c : Cmd) : Nat :=
  match c.opcode with
  | 1 | 2 | 3 => ceilDiv (outShape c).1 c.itemRows * ceilDiv (outShape c).2 16
  | 4 | 5 => castItems c
  | _ => wideItems c

/-- Every output of a command written poisoned but a caliper record (R66, R175). -/
def Act.poisonAll (a : Act) (m : Mach) : Mach :=
  let c := a.cmd
  let at_ := fun (o : Nat) => match a.h o with | some h => h.at_ c.problem | none => 0
  let m := (List.range (itemCount c)).foldl (fun s i => a.poisonOutputs s i) m
  let m := if c.opcode = 4 ∧ (a.h 164).isSome then m.wrPoison (at_ 164) (32 + 8 * c.capacity) else m
  let m := if c.opcode = 4 ∧ (a.h 100).isSome then
      m.wrPoison (at_ 100) (c.lines * (if a.dstFmt = .u4 then 16 else 4)) else m
  if c.opcode = 6 ∧ c.wOp = 7 then m.wrPoison a.meanAddr (match a.h 40 with | some h => h.size | none => 0) else m

/-- The module after some work, with host memory as it stood before. -/
def Mach.keepHost (before after : Mach) : Mach :=
  { after with
    mem := after.mem.filter (fun x => decide (x.1 < hostBase)) ++ before.mem.filter fun x => decide (hostBase ≤ x.1)
    hostPoison := before.hostPoison }

/-- Whether a command has an output in the module but its caliper record. -/
def Act.moduleOutput (a : Act) : Bool :=
  a.handles.any fun x => (writeFields a.cmd).contains (x.1 % 64) && !(a.cmd.opcode == 4 && x.1 == 40) &&
    !isHost (x.2.at_ a.cmd.problem)

/-- A running command whose access to host memory fails ends with LINK, its outputs in the module poisoned. -/
def Mach.failHost (m : Mach) (a : Act) (o : Nat) : Mach :=
  let c := a.cmd
  let m := (m.keepHost (a.poisonAll m)).dropWork c
  let m := match a.work with
    | .casting _ => if a.dstFmt.scaled then m.scaleMerge c a.dstTensor none else m
    | _ => m
  let f := (worst (a.faults ++ [(rLINK, o)])).getD (rLINK, o)
  m.complete c f.1 f.2 0 a.flg (a.poisoned || a.moduleOutput)

/-- A command that starts while the link is down and needs host memory ends at its first access. -/
def Mach.failStarted (m : Mach) (id : CmdId) : Mach :=
  match m.act? id with
  | none => m
  | some a =>
    match a.hostEnd with
    | some o => if m.linkUp then m else (m.bump O.LINK_FAILS 0 1).failHost a o
    | none => m

/-- A row that starts a command of the arrays, the cast units or the wide units. -/
def hostChecked (row : CmdId → List ReadErr → Mach → Res) (id : CmdId) (errs : List ReadErr) (m : Mach) : Res :=
  match row id errs m with
  | .next s => .next (s.failStarted id)
  | r => r

/-! ### Lost items (R440) -/

/-- One item of a command counts as complete and lost. -/
def Mach.loseItem (m : Mach) (id : CmdId) (cluster item : Nat) : Mach :=
  match m.act? id with
  | none => m
  | some a => ((a.poisonOutputs m item).setAct (a.fault rTILELOST 0xFF true)).itemDone id cluster

/-- Commands whose counters are all freed complete. -/
def Mach.finishFreed (m : Mach) : Mach :=
  (m.acts.filter fun a => match a.work with
    | .items | .casting _ => m.allFreed a
    | _ => false).foldl (fun s a => s.finish a) m

/-- The items no tile will take: those of the tile counters of a cluster that has no unfenced tile left. -/
def Mach.loseCluster (m : Mach) (cluster : Nat) : Mach :=
  if !(m.liveTiles cluster).isEmpty then m
  else
    let ks := m.counters.filter fun k => k.cluster == cluster && decide (k.kind ≤ 3)
    let m := { m with counters := m.counters.map fun k =>
      if k.cluster = cluster ∧ k.kind ≤ 3 then { k with next := k.stop } else k }
    ks.foldl (fun s k => (List.range (k.stop - k.next)).foldl (fun t i => t.loseItem k.cmd cluster (k.next + i)) s) m

/-- COUNTER_BIND (R92). A cluster of holes loses the items at once (R440). -/
def counterBind (id : CmdId) (cluster : Nat) (m : Mach) : Res :=
  match bindCounter id cluster m with
  | .next m => .next (m.loseCluster cluster).finishFreed
  | r => r

end Sys2Proof.Machine
end

