-- ==== Sys2Proof/Machine/Bounce.lean ====
section
/-! DEFINITION. The bounce path (R376 to R380): sealed frames in host memory, and host accesses of a
partition's commands in plaintext or sealed. -/

namespace Sys2Proof.Machine

open Sys2Proof

/-- The bounce keys where the partition's host data travels sealed. -/
def Mach.bounceKeys (m : Mach) (p : Nat) : Option (Nat × Nat) :=
  if (m.part p).confidential then (m.part p).bounce else none

/-- Host space of `n` plaintext bytes (R379). -/
def Mach.hostSpace (m : Mach) (p n : Nat) : Nat :=
  if (m.part p).confidential then 4096 * ceilDiv n 4064 else n

/-- Nonce of a frame (R378). -/
def frameNonce (dir p seq : Nat) : Nat := leNat (leBytes 1 dir ++ leBytes 1 p ++ zerosB 2 ++ leBytes 8 seq)

/-- One frame sealed at a device address of host memory (R378). -/
def sealFrame (kmh p seq addr : Nat) (plain : Bytes) : Bytes :=
  let tail := leBytes 8 seq ++ leBytes 2 4064 ++ zerosB 6
  let x := Config.gcmSeal kmh (frameNonce 2 p seq) (leBytes 8 (addr % 2 ^ 56) ++ tail) plain
  bytesAt x 0 4064 ++ tail ++ bytesAt x 4064 16

/-- The plaintext of a frame, or nothing where it is delivered poisoned (R379). -/
def openFrame (khm p addr : Nat) (frame : Bytes) : Option Bytes :=
  let len := fld frame 4072 2
  if len > 4064 then none
  else
    match Config.gcmOpen khm (frameNonce 1 p (fld frame 4064 8)) (leBytes 8 (addr % 2 ^ 56) ++ bytesAt frame 4064 16)
        (bytesAt frame 0 len ++ bytesAt frame 4080 16) with
    | some b => some (bytesAt b 0 4064)
    | none => none

/-- A range of bytes with the poison of each. -/
abbrev Marked := List (Byte × Bool)

/-- A range of memory as the DMA engine moves it: each byte with its carrier's mark. -/
def Mach.rdMarked (m : Mach) (a n : Nat) : Marked :=
  (List.range n).map fun i => (m.rdByte (a + i), m.bytePoisoned (a + i))

/-- Bytes with marks written piece by piece of the destination's carriers: a piece with a poisoned byte is
written poisoned (R302). -/
def Mach.wrPieces (m : Mach) (g : Nat) : Nat → Nat → Marked → Mach
  | 0, _, _ => m
  | f + 1, a, x =>
    if x.isEmpty then m
    else
      let n := min (g - a % g) x.length
      let y := x.take n
      Mach.wrPieces (m.wr a (y.map (·.1)) (y.any (·.2))) g f (a + n) (x.drop n)

def Mach.wrMarked (m : Mach) (a : Nat) (x : Marked) : Mach :=
  m.wrPieces (if a / 2 ^ 56 = 0 then 256 else 32) x.length a x

/-- A host read poisoned on the link counts (R346). -/
def Mach.countPoisonIn (m : Mach) (x : Marked) : Mach := if x.any (·.2) then m.bump O.POISON_IN 0 1 else m
def Mach.countPoisonOut (m : Mach) (x : Marked) : Mach := if x.any (·.2) then m.bump O.POISON_OUT 0 1 else m

/-- One frame read: delivered whole or as poisoned bytes. A frame that crosses the link poisoned counts as such, and its
tag, which none of its bytes can pass, as failed (R346, R379; log entry 125). -/
def Mach.readFrame (m : Mach) (p khm base k : Nat) : Marked × Mach :=
  let a := base + 4096 * k
  let bad := m.rdPoison a 4096
  let m := if bad then m.bump O.POISON_IN 0 1 else m
  match (if bad then none else openFrame khm p a (m.rd a 4096)) with
  | some b => (b.map fun x => (x, false), m)
  | none => (List.replicate 4064 (0, true), m.bump O.BOUNCE_TAG_FAILS p 1)

def Mach.readFrames (m : Mach) (p khm base : Nat) : Nat → Nat → Marked × Mach
  | _, 0 => ([], m)
  | k, n + 1 =>
    let x := m.readFrame p khm base k
    let y := x.2.readFrames p khm base (k + 1) n
    (x.1 ++ y.1, y.2)

/-- A command's read of host memory: `len` bytes at a plaintext offset of a buffer (R376, R379). -/
def Mach.hostRead (m : Mach) (p base off len : Nat) : Marked × Mach :=
  match m.bounceKeys p with
  | none => let x := m.rdMarked (base + off) len; (x, m.countPoisonIn x)
  | some k =>
    if len = 0 then ([], m)
    else
      let f := off / 4064
      let x := m.readFrames p k.1 base f ((off + len - 1) / 4064 - f + 1)
      ((x.1.drop (off - f * 4064)).take len, x.2)

/-- Frames sealed in turn: plaintext beyond the data is zero, and a poisoned byte poisons its frame. -/
def Mach.writeFrames (m : Mach) (p kmh base : Nat) : Nat → Nat → Marked → Mach
  | _, 0, _ => m
  | k, n + 1, x =>
    let plain := x.take 4064
    let seq := m.obj O.BOUNCE_SEQ p
    let a := base + 4096 * k
    let bad := plain.any (·.2)
    let b := sealFrame kmh p seq a (bytesAt (plain.map (·.1)) 0 4064)
    let m := (m.wr a b bad).bump O.BOUNCE_SEQ p 1
    let m := if bad then m.bump O.POISON_OUT 0 1 else m
    m.writeFrames p kmh base (k + 1) n (x.drop 4064)

/-- A command's write of host memory at a plaintext offset of a buffer (R376, R379). -/
def Mach.hostWrite (m : Mach) (p base off : Nat) (x : Marked) : Mach :=
  if x.isEmpty then m
  else
    match m.bounceKeys p with
    | none =>
      -- one posted write carries one mark for its whole payload (R346)
      (m.wr (base + off) (x.map (·.1)) (x.any (·.2))).countPoisonOut x
    | some k =>
      let f := off / 4064
      m.writeFrames p k.2 base f ((off + x.length - 1) / 4064 - f + 1)
        (List.replicate (off - f * 4064) (0, false) ++ x)

end Sys2Proof.Machine
end

