-- ==== Sys2Proof/Machine/Reduce.lean ====
section
/-! DEFINITION. Gradient reduction (R162 to R188): BX32 blocks with their residues (R40, R41), REDUCE block by
block along the chain, EXPORT and IMPORT. -/

namespace Sys2Proof.Machine

open Sys2Proof

/-! ### Blocks and checked arithmetic (R40, R41, R171, R172) -/

def mod15 (x : Int) : Nat := (x % 15).toNat

def BElem.ofMant (x : Int) : BElem := some (x, mod15 x)

/-- Elements with what a node raised over them, and the first element whose check failed. -/
structure Checked where
  elems : List BElem
  bad : Option Nat
  flg : Flg
  deriving DecidableEq, Repr

/-- A checked adder (R171, R174). -/
def addElem (a b : BElem) : BElem × Bool :=
  match a, b with
  | some x, some y =>
    let s := x.1 + y.1
    (some (s, mod15 s), mod15 s == (x.2 + y.2) % 15)
  | _, _ => (none, true)

def addBlocks (a b : List BElem) : Checked :=
  let r := a.zipWith addElem b
  ⟨r.map (·.1), (List.range r.length).find? fun i => !(r.getD i (none, true)).2, .none⟩

/-- RNE of `x / 2^s`, ties to the even integer. -/
def shiftRne (x : Int) (s : Nat) : Int :=
  let q := x / (2 ^ s : Nat)
  let r := x - q * (2 ^ s : Nat)
  let h : Int := 2 * r
  if h > (2 ^ s : Nat) ∨ (h = (2 ^ s : Nat) ∧ q % 2 ≠ 0) then q + 1 else q

def mantMin : Int := -(2 ^ 31 : Nat)
def mantMax : Int := (2 ^ 31 : Nat) - 1

/-- One element shifted (R172). -/
def shiftElem (s : Nat) (e : BElem) : BElem × Bool × Flg :=
  match e with
  | none => (none, true, .none)
  | some (x, n) =>
    let y := shiftRne x s
    let r := x - y * (2 ^ s : Nat)
    let ok := mod15 ((mod15 y : Nat) * (2 ^ s % 15 : Nat) + r) == n % 15
    let f : Flg := { Flg.none with inx := r != 0, unf := x != 0 && y == 0 }
    if y < mantMin ∨ mantMax < y then
      let z := if y < 0 then mantMin else mantMax
      (.ofMant z, ok, { f with ovf := true, inx := true, sats := 1 })
    else (.ofMant y, ok, f)

def shiftAll (s : Nat) (b : List BElem) : Checked :=
  let r := b.map (shiftElem s)
  ⟨r.map (·.1), (List.range r.length).find? fun i => !(r.getD i (none, true, .none)).2.1,
    r.foldl (fun f x => f.or x.2.2) .none⟩

/-- A block brought to another exponent; none is shifted by nothing. -/
def shiftBlock (s : Nat) (b : List BElem) : Checked := if s = 0 then ⟨b, none, .none⟩ else shiftAll s b

def inMant (x : Int) : Bool := decide (mantMin ≤ x ∧ x ≤ mantMax)

/-- The smallest s from 1 for which every finite element fits after the shift. -/
def rangeShift (b : List BElem) : Nat → Nat → Nat
  | 0, s => s
  | f + 1, s =>
    if b.all fun e => match e with | some x => inMant (shiftRne x.1 s) | none => true then s
    else rangeShift b f (s + 1)

/-- The range test and raise at the end of R170: exponent, elements, checks. At X = 97 the shift is by 0, and
saturates what does not fit. -/
def rangeRaise (x : Int) (b : List BElem) : Int × Checked :=
  if b.all fun e => match e with | some y => inMant y.1 | none => true then (x, ⟨b, none, .none⟩)
  else
    let s := rangeShift b 40 1
    let s := if x + s > 97 then (97 - x).toNat else s
    (x + s, shiftAll s b)

/-- The lower of two failed elements. -/
def lowerOf (a b : Option Nat) : Option Nat :=
  match a, b with
  | some x, some y => some (min x y)
  | none, y => y
  | x, none => x

/-- The tree of R164 over the leaves, with the lowest element that fails a check. -/
def treeLevel : List (List BElem) → List (List BElem) × Option Nat
  | a :: b :: r =>
    let s := addBlocks a b
    let t := treeLevel r
    (s.elems :: t.1, lowerOf s.bad t.2)
  | l => (l, none)

def treeSum : Nat → List (List BElem) → List BElem × Option Nat
  | 0, l => (l.headD [], none)
  | f + 1, l =>
    if l.length ≤ 1 then (l.headD [], none)
    else
      let t := treeLevel l
      let u := treeSum f t.1
      (u.1, lowerOf t.2 u.2)

/-- floor (log2 |v|) of a finite non-zero value. -/
def extLog2 (x : Ext) : Option Int :=
  match x with
  | .fin _ n d => if n = 0 then none else some (floorLog2 n d)
  | _ => none

/-- A leaf: v / 2^X as a mantissa under SR (R170, R174). -/
def leafElem (x : Int) (rnd : Nat) (v : Ext) : NM BElem := do
  let v := match v with
    | .fin s n d => Ext.fin s (n * pow2Den x) (d * pow2Num x)
    | w => w
  match ← convertBx (.sr rnd) v with
  | some m => pure (.ofMant m)
  | none => pure none

/-- The value of an element, NaN where it is not finite. -/
def elemValue (x : Int) (e : BElem) : Ext :=
  match e with
  | some m => .dyadic (decide (m.1 < 0)) m.1.natAbs x
  | none => .nan

/-- A block as it lies in memory. -/
def blockBytes (b : Block) : Bytes :=
  (b.elems.flatMap fun e => leBytes 4 (match e with | some x => ofSigned 32 x.1 | none => 0)) ++
    ((List.range 32).map fun i =>
      let nib := fun (k : Nat) => match b.elems.getD k none with | some x => x.2 % 15 | none => 15
      BitVec.ofNat 8 (nib (2 * i) + nib (2 * i + 1) * 16)) ++
    leBytes 2 (ofSigned 16 b.exp) ++ zerosB 30

/-- The fields of a block read from memory, unchecked. -/
def parseBlock (x : Bytes) (poisoned : Bool) : Block :=
  { exp := toSigned 16 (fld x 288 2)
    elems := (List.range 64).map fun k =>
      let n := fld x (256 + k / 2) 1 / (if k % 2 = 0 then 1 else 16) % 16
      if n = 15 then none else some (toSigned 32 (fld x (4 * k) 4), n)
    poisoned := poisoned }

def Block.expOk (b : Block) : Bool := decide (-160 ≤ b.exp ∧ b.exp ≤ 97)

/-- The first element whose nibble is not its mantissa's (R41). -/
def Block.badNibble (b : Block) : Option Nat :=
  (List.range 64).find? fun k => match b.elems.getD k none with
    | some x => x.2 != mod15 x.1
    | none => false

/-! ### The view of a command -/

def Cmd.rRows (c : Cmd) : Nat := c.f 20 3
def Cmd.rCols (c : Cmd) : Nat := c.f 23 3
def Cmd.rBlocks (c : Cmd) : Nat := gridBlocks c.rRows c.rCols
def Cmd.cpb (c : Cmd) : Nat := c.f 31 1
def Cmd.shard (c : Cmd) : Bool := c.opflags == 1

/-- Row and column of element `k` of block `b`, where it is no pad. -/
def blockCell (c : Cmd) (b k : Nat) : Option (Nat × Nat) :=
  let cb := blocksOf c.rCols
  let r := b / cb * 8 + k / 8
  let col := b % cb * 8 + k % 8
  if r < c.rRows ∧ col < c.rCols then some (r, col) else none

def Act.handleAt (a : Act) (o : Nat) : Handle := (a.h o).getD ⟨0, 0, 0, 0, 0, 0, 0, 0, 0, 0⟩

/-! ### Validation (R162, R163, R165 to R168) -/

def tableBytes (c : Cmd) : Nat := 64 + 2 * c.rBlocks

/-- Whether a range lies in the cluster stores or the package of a bay (R163). -/
def inBayStores (a n bay : Nat) : Bool :=
  match tierOf a, tierOf (a + n - 1) with
  | some .module, some .module => addrBay a == bay && addrBay (a + n - 1) == bay
  | some .cluster, some .cluster => addrBay a == bay && addrBay (a + n - 1) == bay
  | _, _ => false

/-- Exponent tables that running commands of a partition use. -/
def Mach.tablesInUse (m : Mach) (p : Nat) : List (Nat × Nat) :=
  m.acts.filterMap fun a =>
    if a.cmd.part ≠ p then none
    else match a.work with
      | .reducing _ => some ((a.handleAt 40).base, tableBytes a.cmd)
      | _ => none

/-- The shape fields of REDUCE and IMPORT. -/
def checkReduceShape (c : Cmd) : Chk Unit := do
  need (count24 c.rRows) rFIELD 20
  need (count24 c.rCols) rFIELD 23
  need (!c.chain.isEmpty) rFIELD 29
  need (decide (1 ≤ c.cpb ∧ c.cpb ≤ 64)) rFIELD 31

/-- The handles REDUCE and IMPORT share: output, exponent table and report. -/
def checkReduceOuts (hs : SMap Handle) (c : Cmd) : Chk (Handle × Handle) := do
  let out ← mustHave hs c 36
  let tab ← mustHave hs c 40
  need ((List.range c.chain.length).all fun q => (tierOf (out.base + q * out.bayStride)).isSome) rFIELD 36
  need (tierOf tab.base == some .module && tab.base % 64 == 0) rFIELD 40
  match mget hs 44 with
  | some h => need ((tierOf h.base).isSome && h.base % 64 == 0) rFIELD 44
  | none => pure ()
  pure (out, tab)

def outNeeds (c : Cmd) (out : Handle) : Nat :=
  if out.fmt = 10 then c.rBlocks * 320 else c.rRows * c.rCols * out.size

def reduceBufs (hs : SMap Handle) (c : Cmd) (out tab : Handle) : List Buf :=
  ((List.range c.chain.length).map fun q => ⟨36, out.base + q * out.bayStride, out.bytes, outNeeds c out⟩) ++
    [⟨40, tab.base, tab.bytes, tableBytes c⟩] ++ optBuf (mget hs 44) 0 44 64

/-- Checks 5 and 6 of R165. -/
def checkTable (m : Mach) (c : Cmd) (out tab : Handle) : Chk Unit := do
  need (!m.rdPoison tab.base 64) rPOISON 40
  let seeded := (m.rdNat (tab.base + 10) 1) % 2 == 1
  need (!seeded || (m.rdNat tab.base 4 == out.tensor && m.rdNat (tab.base + 12) 4 == c.rBlocks)) rFIELD 40
  need (!seeded || decide (m.rdNat (tab.base + 4) 6 < c.step)) rSTATE 0x11
  need (!(m.tablesInUse c.part).any fun t => rangesOverlap tab.base (tableBytes c) t.1 t.2) rOVERLAP 40

def ReduceWork.begin (headroom q : Nat) : ReduceWork :=
  { headroom := headroom, doneAt := List.replicate q 0, links := [], written := 0, log2max := [], maxAbs := .zero,
    normSq := 0, raises := 0, firstRaise := 0xFF, nonfinite := 0, sats := 0, residue := none,
    poisonedBlocks := [] }

def validateReduce (m : Mach) (c : Cmd) : Chk Act := do
  let hs ← readHandles m c (handleFields c)
  checkReduceShape c
  let src ← mustHave hs c 32
  let n := c.rRows * c.rCols * src.size
  let k := c.chain.length * c.cpb
  need ((List.range k).all fun j => inBayStores (src.base + j * src.stride) (max 1 n) (c.chain.getD (j / c.cpb) 0)) rFIELD 32
  let (out, tab) ← checkReduceOuts hs c
  need (c.chain.all fun b => smem (m.part c.part).bays b) rPARTITION 29
  checkBufs m c (((List.range k).map fun j => (⟨32, src.base + j * src.stride, src.bytes, n⟩ : Buf)) ++
    reduceBufs hs c out tab)
  need (src.fmt == 9 || src.fmt == 7) rFORMAT 32
  need (out.fmt == 9 || out.fmt == 7 || out.fmt == 10) rFORMAT 36
  checkTable m c out tab
  pure { Act.of c (.reducing (.begin (m.obj O.HEADROOM c.part) c.chain.length)) with handles := hs }

def reduceRow (id : CmdId) (errs : List ReadErr) (m : Mach) : Res := descRow (7, 0) id errs (fun c m => m.startOr c (validateReduce m c)) m

/-- The predicted exponent of a block, none where it is unpredicted (R167). -/
def Mach.predicted (m : Mach) (tab headroom b : Nat) : Option Int :=
  let l := m.rdNat (tab + 64 + 2 * b) 2
  if (m.rdNat (tab + 10) 1) % 2 = 0 ∨ l = 0x8000 then none
  else some (max (-160) (min 97 (toSigned 16 l + headroom - 30)))

/-! ### A block at a bay (R170 to R174, R176) -/

/-- Element `k` of block `b` of contribution `j`. -/
def Act.contribution (a : Act) (m : Mach) (j b k : Nat) : Ext :=
  match blockCell a.cmd b k with
  | none => .zero
  | some rc =>
    let s := a.handleAt 32
    let f := (s.format).getD .fp32
    decodeElem f (rdElem m f (s.base + j * s.stride) (rc.1 * a.cmd.rCols + rc.2))

def Act.contributionPoisoned (a : Act) (m : Mach) (j b : Nat) : Bool :=
  let s := a.handleAt 32
  (List.range 64).any fun k => match blockCell a.cmd b k with
    | some rc => m.rdPoison (s.base + j * s.stride + (rc.1 * a.cmd.rCols + rc.2) * s.size) s.size
    | none => false

/-- The leaves of a contribution at exponent `x`, with what its node raised. -/
def Act.leaves (a : Act) (m : Mach) (x : Int) (j b : Nat) : List BElem × Raised :=
  let c := a.cmd
  let key := c.srKey (a.handleAt 36).tensor
  let r := (List.range 64).mapM (m := RM) fun k =>
    match blockCell c b k with
    | some rc => at_ rc (leafElem x (key.draw j (c.rRows * c.rCols) (rc.1 * c.rCols + rc.2)) (a.contribution m j b k))
    | none => pure (some (0, 0))
  r ⟨.none, 0, 0⟩

/-- The non-finite elements of a block that an adder consumes (R47, R174). -/
def Cmd.consumed (c : Cmd) (b : Nat) (l : List BElem) : Raised :=
  ((List.range 64).mapM (m := RM) fun k => match blockCell c b k, l.getD k none with
    | some rc, none => at_ rc (raiseInv 3)
    | _, _ => pure ()) ⟨.none, 0, 0⟩ |>.2

/-- A bit of an element's mantissa changed, its nibble as it was (R171). -/
def flipElem (bit : Nat) (e : BElem) : BElem :=
  e.map fun x => (toSigned 32 (ofSigned 32 x.1 ^^^ 2 ^ bit), x.2)

/-- The changes that reach the leaf of a local contribution, or the block that arrives. -/
def flipBlock (hits : List BitHit) (leaf : Option Nat) (l : List BElem) : List BElem :=
  hits.foldl (fun l h => if h.leaf = leaf then l.modify h.elem (flipElem h.bit) else l) l

/-- The failed check of the lowest element; of several there, the one met first (R175). -/
def lowestBad (l : List (Nat × Option Nat)) : Option (Nat × Nat) :=
  l.foldl (fun acc s => match acc, s.2 with
    | none, some e => some (s.1, e)
    | some x, some e => if e < x.2 then some (s.1, e) else acc
    | _, none => acc) none

/-- What a bay makes of a block: the block it sends on, each contribution's flags, those of the block that arrived,
the node's own flags, whether it raised the block, and the first failed check with its stage. -/
structure BayBlock where
  block : Block
  leaf : List (Nat × Raised)
  inc : Raised
  flg : Flg
  sats : Nat
  raised : Bool
  bad : Option (Nat × Nat)
  deriving DecidableEq, Repr

/-- bay_block of R170. -/
def Act.bayBlock (a : Act) (m : Mach) (headroom q b : Nat) (inc : Option Block) (hits : List BitHit) : BayBlock :=
  let c := a.cmd
  let js := (List.range c.cpb).map (q * c.cpb + ·)
  let pred := m.predicted (a.handleAt 40).base headroom b
  let x0 : Int := match inc with | some i => i.exp | none => pred.getD (-160)
  let vals := js.flatMap fun j => (List.range 64).map fun k => a.contribution m j b k
  let x := vals.foldl (fun x v => match extLog2 v with | some e => max x (e - 30) | none => x) x0
  let sh := match inc with
    | some i => shiftBlock (x - i.exp).toNat (flipBlock hits none i.elems)
    | none => ⟨[], none, .none⟩
  let lv := js.map fun j =>
    let y := a.leaves m x j b
    (j, flipBlock hits (some (j - q * c.cpb)) y.1, y.2)
  let t := treeSum 8 (lv.map fun l => l.2.1)
  let tot := if inc.isSome then addBlocks t.1 sh.elems else ⟨t.1, none, .none⟩
  let r := rangeRaise x tot.elems
  -- the first alignment of an unpredicted block at position 0 is no raise (R173)
  let from_ := if inc.isNone && pred.isNone then x else x0
  let bad := lowestBad [(3, sh.bad), (1, t.2), (2, tot.bad), (3, r.2.bad)]
  -- a block that fails a check releases no result (R175)
  { block := if bad.isSome then ⟨r.1, List.replicate 64 none, true⟩ else ⟨r.1, r.2.elems, false⟩
    leaf := lv.map fun l => (l.1, l.2.2)
    inc := if inc.isSome then c.consumed b sh.elems else ⟨.none, 0, 0⟩
    flg := sh.flg.or r.2.flg
    sats := sh.flg.sats + r.2.flg.sats
    raised := bad.isNone && decide (from_ < r.1)
    bad := bad }

/-- The earlier of two mismatches: lowest block, then lowest element (R175). -/
def firstFault (a b : Option ResidueFault) : Option ResidueFault :=
  match a, b with
  | none, x => x
  | x, none => x
  | some x, some y => if y.block < x.block ∨ (y.block = x.block ∧ y.elem < x.elem) then some y else some x

/-- Additions a bay's checked adders make for a block (R445). -/
def bayAdds (cpb : Nat) (inc : Bool) : Nat := 64 * (cpb - 1 + if inc then 1 else 0)

/-- Block `b` is summed at chain position `q` and sent on: poisoned where what it adds is (R170, R173, R175, R176). -/
def Mach.sendBlock (m : Mach) (a : Act) (w : ReduceWork) (bay q b : Nat) (inc : Option Block) (hits : List BitHit) :
    Mach :=
  let c := a.cmd
  let e := bayEngine bay 5
  let m := m.startUnit e c b
  let m := m.spendFree e (bayAdds c.cpb inc.isSome)
  let links := w.links.filter fun l => !(l.1 == q && l.2.1 == b)
  let bad := (match inc with | some i => i.poisoned | none => false) ||
    (List.range c.cpb).any fun k => a.contributionPoisoned m (q * c.cpb + k) b
  let w := { w with doneAt := w.doneAt.set q (b + 1) }
  let last := decide (b + 1 = c.rBlocks)
  if bad then
    let x0 : Int := match inc with | some i => i.exp | none => 0
    let w := { w with links := links ++ [(q + 1, b, ⟨x0, List.replicate 64 none, true⟩)] }
    let m := if last then m.endRun e else m
    m.setAct { a with work := .reducing w }
  else
    let r := a.bayBlock m w.headroom q b inc hits
    let m := r.leaf.foldl (fun s l => s.flags e c l.2.flg l.2.row l.2.col l.1) m
    let m := (m.flags e c r.inc.flg r.inc.row r.inc.col 0).flags e c r.flg 0 0 0
    let flg := r.leaf.foldl (fun f l => f.or l.2.flg) (r.flg.or r.inc.flg)
    let w := { w with
      links := links ++ [(q + 1, b, r.block)]
      raises := w.raises + if r.raised then 1 else 0
      firstRaise := if r.raised then min w.firstRaise bay else w.firstRaise
      sats := w.sats + r.sats
      residue := firstFault w.residue (r.bad.map fun x => ⟨bay, x.1, b, x.2⟩) }
    let m := if last then m.endRun e else m
    m.setAct { a with work := .reducing w, flg := a.flg.or flg }

/-- What a bay reads for a block: the rows of elements of its contributions, and at position 0 the table's entry of the
block (R167, R170). -/
def Act.blockReads (a : Act) (q b : Nat) : List (Nat × Nat) :=
  let c := a.cmd
  let s := a.handleAt 32
  ((List.range c.cpb).flatMap fun j => (List.range 8).filterMap fun r =>
    (blockCell c b (8 * r)).map fun rc =>
      (s.base + (q * c.cpb + j) * s.stride + (rc.1 * c.rCols + rc.2) * s.size, min 8 (c.rCols - rc.2) * s.size)) ++
    if q = 0 then [((a.handleAt 40).base + 64 + 2 * b, 2)] else []

/-- REDUCE_BAY_BLOCK: the next block at a chain bay, once the block before it has arrived (R170). It waits for the bays
whose stores it reaches (R408). -/
def reduceBayBlock (id : CmdId) (bay : Nat) (hits : List BitHit) (errs : List ReadErr) (m : Mach) : Res :=
  match m.act? id with
  | none => cannot "no such command runs"
  | some a =>
    match a.work with
    | .reducing w =>
      let c := a.cmd
      match c.chain.findIdx? (· == bay) with
      | none => cannot "the bay is not in the chain"
      | some q =>
        let b := w.doneAt.getD q 0
        let inc := (w.links.find? fun l => l.1 == q && l.2.1 == b).map (·.2.2)
        if b ≥ c.rBlocks ∨ (q ≠ 0 ∧ inc.isNone) then .next m
        else if !m.awake a || !m.bayReady bay then .next (m.wakeBays (m.actBays a))
        else .next ((m.takeReads errs (a.blockReads q b)).sendBlock a w bay q b inc hits)
    | _ => cannot "the command is not a REDUCE"

/-! ### Distribution and the end of a command (R169, R175 to R179) -/

/-- The chain positions that write a block, in the order the chain end's block reaches them (R177). -/
def writers (c : Cmd) (b : Nat) : List Nat :=
  let q := c.chain.length
  let B := c.rBlocks
  ((List.range q).filter fun k => !c.shard || decide (k * B / q ≤ b ∧ b < (k + 1) * B / q)).reverse

/-- One block written to the copy at a chain position. -/
def Act.writeBlock (a : Act) (m : Mach) (q b : Nat) (blk : Block) : Mach × Act :=
  let c := a.cmd
  let out := a.handleAt 36
  let base := out.base + q * out.bayStride
  if out.fmt = 10 then (m.wr (base + b * 320) (if blk.poisoned then zerosB 320 else blockBytes blk) blk.poisoned, a)
  else
    let f := (out.format).getD .fp32
    let ff := (f.float?).getD .fp32
    let key := c.srKey out.tensor
    let x := (List.range 64).mapM (m := RM) fun k =>
      match blockCell c b k with
      | some rc => do
        let i := rc.1 * c.rCols + rc.2
        let v ← if blk.poisoned then pure 0
          else at_ rc (convertFloat ff (.sr (key.draw 0 (c.rRows * c.rCols) i)) (elemValue blk.exp (blk.elems.getD k none)))
        pure (some (i, v))
      | none => pure none
    let y := x ⟨.none, 0, 0⟩
    let m := y.1.foldl (fun s p => match p with
      | some p => s.wr (denseAddr f base p.1) (leBytes f.bytes p.2) blk.poisoned
      | none => s) m
    let e := bayEngine (c.chain.getD q 0) 5
    (m.flags e c y.2.flg y.2.row y.2.col 0, { a with flg := a.flg.or y.2.flg })

/-- Figures of a final block (R169, R178, R179): log2 of its largest finite element, that element, the sum
of squares, and its non-finite elements. -/
def blockFigures (c : Cmd) (b : Nat) (blk : Block) : Int × Ext × NM Nat × Nat :=
  let real := (List.range 64).filter fun k => (blockCell c b k).isSome
  let vals := real.map fun k => elemValue blk.exp (blk.elems.getD k none)
  let fin := vals.filter Ext.isFinite
  let mx := fin.foldl (fun (a v : Ext) => if a.lt v.abs then v.abs else a) .zero
  ((extLog2 mx).getD (-32768), mx,
    (foldNM (fun acc v => do
      let x ← rne32 v
      fadd acc (← fmul x x)) 0 fin : NM Nat),
    (vals.filter Ext.isNan).length)

/-- Every output line the command writes, poisoned (R175). -/
def Act.poisonReduction (a : Act) (m : Mach) : Mach :=
  let c := a.cmd
  (List.range c.rBlocks).foldl (fun s b =>
    (writers c b).foldl (fun t q => (a.writeBlock t q b ⟨0, List.replicate 64 none, true⟩).1) s) m

def Act.reduceWork (a : Act) : ReduceWork :=
  match a.work with
  | .reducing w => w
  | _ => .begin 0 0

/-- The exponent table of R169. -/
def Act.writeTable (a : Act) (m : Mach) : Mach :=
  let c := a.cmd
  let t := (a.handleAt 40).base
  m.wr t (leBytes 4 (a.handleAt 36).tensor ++ leBytes 6 c.step ++ leBytes 1 1 ++ leBytes 1 0 ++ leBytes 4 c.rBlocks ++
    zerosB 48 ++ a.reduceWork.log2max.flatMap fun l => leBytes 2 (ofSigned 16 l)) false

/-- The report of R179. -/
def Act.writeReport (a : Act) (m : Mach) (terms maxAbs : Nat) (faulted : Bool) : Mach :=
  match a.h 44 with
  | none => m
  | some h =>
    let c := a.cmd
    let w := a.reduceWork
    let fl := (if w.raises > 0 then 1 else 0) + (if w.nonfinite > 0 then 2 else 0) + (if w.sats > 0 then 4 else 0) +
      (if faulted then 8 else 0)
    let rf := w.residue
    m.wr h.base (leBytes 4 (a.handleAt 36).tensor ++ leBytes 6 c.step ++ leBytes 1 fl ++ leBytes 1 w.firstRaise ++
      leBytes 4 (sat32 w.raises) ++ leBytes 4 (sat32 w.nonfinite) ++ leBytes 4 (sat32 w.sats) ++
      leBytes 4 (if faulted then 0 else w.normSq) ++ leBytes 4 (if faulted then 0 else maxAbs) ++
      leBytes 4 c.rBlocks ++ leBytes 4 terms ++ leBytes 1 (match rf with | some f => f.bay | none => 0xFF) ++
      leBytes 1 (match rf with | some f => f.stage | none => 0) ++
      leBytes 4 (match rf with | some f => f.block | none => 0) ++
      leBytes 1 (match rf with | some f => f.elem | none => 0) ++ zerosB 17) false

/-- A REDUCE or IMPORT whose blocks are all written completes (R169, R173, R175, R176, R249). -/
def finishReduce (m : Mach) (a : Act) (terms poisonDetail : Nat) : Mach :=
  let c := a.cmd
  let p := c.part
  let w := a.reduceWork
  let specific := w.firstRaise + min w.raises 0xFFFFFF * 256
  let m := (m.bump O.RAISED_BLOCKS p w.raises).bump O.NONFINITE_ELEMENTS p w.nonfinite
  if w.residue.isSome then
    (a.writeReport (a.poisonReduction m) terms 0 true).complete c rRESIDUE 0xFF specific a.flg true
  else if !w.poisonedBlocks.isEmpty then
    (a.writeReport m terms 0 true).complete c rPOISON poisonDetail specific a.flg true
  else
    let e := bayEngine (c.chain.getLastD 0) 5
    let x := rne32 w.maxAbs .none
    let b := m.book e a ⟨x.2, 0, 0⟩
    let m := a.writeReport (a.writeTable b.1) terms x.1 false
    let m := m.bump O.REDUCES p 1
    let m := if w.raises > 0 then m.bump O.SCALE_RAISED_CMDS p 1 else m
    m.complete c (if w.raises > 0 then 0x83 else 0) 0 specific b.2.flg a.poisoned

/-- A final block written everywhere and its figures taken. -/
def Act.finalBlock (a : Act) (m : Mach) (b : Nat) (blk : Block) : Mach × Act :=
  let c := a.cmd
  let x := (writers c b).foldl (fun (s : Mach × Act) q => s.2.writeBlock s.1 q b blk) (m, a)
  let m := x.1
  let a := x.2
  let w := a.reduceWork
  if blk.poisoned then
    (m, { a with work := .reducing { w with written := b + 1, log2max := w.log2max ++ [-32768],
                                            poisonedBlocks := w.poisonedBlocks ++ [b] } })
  else
    let f := blockFigures c b blk
    let s := (do fadd w.normSq (← f.2.2.1) : NM Nat) .none
    let bk := m.book (bayEngine (c.chain.getLastD 0) 5) a ⟨s.2, 0, 0⟩
    (bk.1, { bk.2 with work := .reducing { w with
      written := b + 1, log2max := w.log2max ++ [f.1], normSq := s.1, nonfinite := w.nonfinite + f.2.2.2,
      maxAbs := if w.maxAbs.lt f.2.1 then f.2.1 else w.maxAbs } })

/-- A final block is written to every output, and after the last one the command completes (R177). -/
def Mach.distribute (m : Mach) (a : Act) (w : ReduceWork) (b : Nat) (blk : Block) : Mach :=
  let q := a.cmd.chain.length
  let a := { a with work := .reducing { w with links := w.links.filter fun x => !(x.1 == q && x.2.1 == w.written) } }
  let x := a.finalBlock m b blk
  let m := x.1.setAct x.2
  if x.2.reduceWork.written = a.cmd.rBlocks then finishReduce m x.2 (q * a.cmd.cpb) 32 else m

/-- REDUCE_RESULT_BLOCK: the next final block is written, and after the last the command completes
(R177), where the chain end can issue (R395). -/
def reduceResultBlock (id : CmdId) (m : Mach) : Res :=
  match m.act? id with
  | none => cannot "no such command runs"
  | some a =>
    match a.work with
    | .reducing w =>
      let q := a.cmd.chain.length
      match w.links.find? fun l => l.1 == q && l.2.1 == w.written with
      | none => .next m
      | some l =>
        if m.awake a && m.bayReady (a.cmd.chain.getLastD 0) then .next (m.distribute a w l.2.1 l.2.2)
        else .next (m.wakeBays (m.actBays a))
    | _ => cannot "the command is not a REDUCE"

/-! ### EXPORT (R180 to R183) -/

def Cmd.dest (c : Cmd) : Nat := c.f 40 8
def Cmd.participant (c : Cmd) : Nat := c.f 50 2

/-- Entries or blocks of an image, and its plaintext bytes. -/
def exportK (m : Mach) (c : Cmd) : Nat := if c.f 48 2 = 0 then m.obj O.EXPORT_K c.part else c.f 48 2

def exportEntries (m : Mach) (c : Cmd) : Nat :=
  let n := c.rRows * c.rCols
  if c.cpb = 1 then c.rBlocks
  else n / 1024 * min (exportK m c) 1024 + min (exportK m c) (n % 1024)

def exportBytes (m : Mach) (c : Cmd) : Nat := 64 + exportEntries m c * (if c.cpb = 1 then 320 else 8)

def validateExport (m : Mach) (c : Cmd) : Chk Act := do
  let hs ← readHandles m c (handleFields c)
  let topk := c.cpb == 2
  need (count24 c.rRows) rFIELD 20
  need (count24 c.rCols) rFIELD 23
  let g ← mustHave hs c 32
  need (tierOf g.base == some .module || tierOf g.base == some .cluster) rFIELD 32
  match mget hs 36 with
  | some h => need (topk && tierOf h.base == some .module) rFIELD 36
  | none => need (!topk) rFIELD 36
  need (tierOf c.dest == some .host && c.dest % 64 == 0) rFIELD 40
  need (decide (c.f 48 2 ≤ 1024)) rFIELD 48
  need (c.participant != 0xFFFF) rFIELD 50
  need (c.f 56 8 != 2 ^ 64 - 1) rFIELD 56
  need (m.belongs c.part g.base g.bytes) rPARTITION 32
  match mget hs 36 with
  | some h => need (m.belongs c.part h.base h.bytes) rPARTITION 36
  | none => pure ()
  need (m.belongs c.part c.dest (m.hostSpace c.part (c.f 56 8))) rPARTITION 40
  need (decide (c.rBlocks * 320 ≤ g.bytes)) rBOUND 32
  match mget hs 36 with
  | some h => need (decide (c.rRows * c.rCols * 4 ≤ h.bytes)) rBOUND 36
  | none => pure ()
  need (decide (m.hostSpace c.part (exportBytes m c) ≤ m.hostSpace c.part (c.f 56 8))) rBOUND 56
  need (g.fmt == 10) rFORMAT 32
  match mget hs 36 with
  | some h => do
    need (h.fmt == 9) rFORMAT 36
    need (!(m.tablesInUse c.part).any fun t => rangesOverlap h.base (c.rRows * c.rCols * 4) t.1 t.2) rOVERLAP 36
  | none => pure ()
  pure { Act.of c .items with handles := hs }

def imageHeader (m : Mach) (a : Act) : Bytes :=
  let c := a.cmd
  leBytes 4 (a.handleAt 32).tensor ++ leBytes 6 c.step ++ leBytes 2 c.participant ++ leBytes 1 c.cpb ++ leBytes 1 0 ++
    leBytes 2 (if c.cpb = 1 then 0 else exportK m c) ++ leBytes 4 c.rRows ++ leBytes 4 c.rCols ++
    leBytes 4 (exportEntries m c) ++ zerosB 36

/-- Block `b` of a BX32 tensor at an address. -/
def Mach.readBlock (m : Mach) (base b : Nat) : Block :=
  parseBlock (m.rd (base + b * 320) 320) (m.rdPoison (base + b * 320) 290)

/-- The first fault of a tensor's blocks (R41): FORMAT, or RESIDUE with block and element. -/
def Mach.blockFault (m : Mach) (base n : Nat) : Option (Nat × Nat × Nat) :=
  (List.range n).findSome? fun b =>
    let k := m.readBlock base b
    if k.poisoned then none
    else if !k.expOk then some (rFORMAT, b, 0)
    else k.badNibble.map fun e => (rRESIDUE, b, e)

/-- U of element `i` (R181), none where G or the residual reads poisoned. -/
def Act.exportU (a : Act) (m : Mach) (i : Nat) : Option Ext :=
  let c := a.cmd
  let cb := blocksOf c.rCols
  let r := i / c.rCols
  let col := i % c.rCols
  let b := r / 8 * cb + col / 8
  let k := r % 8 * 8 + col % 8
  let res := (a.handleAt 36).base + 4 * i
  let blk := m.readBlock (a.handleAt 32).base b
  if blk.poisoned || m.rdPoison res 4 then none
  else some (extAdd (elemValue blk.exp (blk.elems.getD k none)) (dec32 (m.rdNat res 4)) .none).1

/-- Whether `x` ranks above `y` (R181). -/
def ranksAbove (x y : Ext) : Bool :=
  if !x.isFinite then y.isFinite else if !y.isFinite then false else y.abs.lt x.abs

/-- Positions of the `k` elements that rank highest, ascending. -/
def topIndices (us : List Ext) (k : Nat) : List Nat :=
  (List.range us.length).filter fun i =>
    let u := us.getD i .zero
    decide (((List.range us.length).filter fun j =>
      let v := us.getD j .zero
      j != i && (ranksAbove v u || (!ranksAbove u v && decide (j < i)))).length < k)

/-- A segment of a TOPK export: its entries, its new residual, and what the node raised. -/
def Act.segment (a : Act) (m : Mach) (first len : Nat) : Marked × Marked × Raised :=
  let c := a.cmd
  let k := min (exportK m c) len
  let n := c.rRows * c.rCols
  let gKey := c.srKey (a.handleAt 32).tensor
  let rKey := c.srKey (a.handleAt 36).tensor
  match (List.range len).foldr (fun i acc => match acc, a.exportU m (first + i) with
      | some l, some u => some (u :: l)
      | _, _ => none) (some []) with
  | none => (List.replicate (8 * k) (0, true), List.replicate (4 * len) (0, true), ⟨.none, 0, 0⟩)
  | some us =>
    let sel := topIndices us k
    let pos := fun (i : Nat) => ((first + i) / c.rCols, (first + i) % c.rCols)
    let x : RM (Bytes × Bytes) := do
      let es ← sel.mapM fun i => do
        let u := us.getD i .zero
        let v ← at_ (pos i) (if u.isFinite then convertFloat .fp32 (.sr (gKey.draw c.participant n (first + i))) u
          else do raiseInv 3; pure FloatFmt.fp32.nan)
        pure (leBytes 4 (first + i) ++ leBytes 4 v)
      let rs ← (List.range len).mapM fun i =>
        if sel.contains i then pure (zerosB 4)
        else do
          let v ← at_ (pos i) (convertFloat .fp32 (.sr (rKey.draw c.participant n (first + i))) (us.getD i .zero))
          pure (leBytes 4 v)
      pure (es.flatten, rs.flatten)
    let y := x ⟨.none, 0, 0⟩
    (y.1.1.map fun b => (b, false), y.1.2.map fun b => (b, false), y.2)

/-- EXPORT moves poison without faulting (R303). -/
def finishExport (m : Mach) (a : Act) (poisoned : Bool) (specific : Nat) : Mach :=
  let m := if poisoned then m.bump O.POISON_MOVES a.cmd.bay 1 else m
  m.complete a.cmd 0 0 specific a.flg poisoned

/-- A command that is made in one piece waits for the bays it names, which are woken, and for its node (R395, R408). -/
def Mach.nodeReady (m : Mach) (a : Act) (bay : Nat) : Bool := m.awake a && m.bayReady bay

/-- What an EXPORT reads in the module. -/
def Act.exportReads (a : Act) : List (Nat × Nat) :=
  let c := a.cmd
  ((a.handleAt 32).base, c.rBlocks * 320) ::
    match a.h 36 with
    | some h => [(h.base, c.rRows * c.rCols * 4)]
    | none => []

/-- The checks that any EXPORT meets once validated: the link, and the blocks as read. Whatever ends it, the residual
stays as it was (R182); and it waits for its node (R408). -/
def exportWith (k : Act → Mach → Res) (errs : List ReadErr) (c : Cmd) (m : Mach) : Res :=
  match validateExport m c with
  | .error e => .next (m.refuse c e.1 e.2)
  | .ok a =>
    if !m.nodeReady a c.bay then .next (m.wakeBays (m.actBays a))
    else if !m.linkUp then .next (m.linkFault c 40)
    else
      let m := m.touch errs a.exportReads
      match m.blockFault (a.handleAt 32).base c.rBlocks with
      | some f => .next (m.refuse c f.1 (if f.1 = rRESIDUE then 0xFF else 32))
      | none => k a m

/-- A run that a node makes of a command in one piece ends, of so many blocks (R446). -/
def Mach.endBlocks (m : Mach) (e n work : Nat) : Mach :=
  let g := m.engine e
  ((m.setEngine e { g with units := sat32 n }).spendFree e work).endRun e

/-- The image of a DENSE export and its completion. -/
def Mach.makeDense (m : Mach) (a : Act) : Mach :=
  let c := a.cmd
  let data := m.rdMarked (a.handleAt 32).base (c.rBlocks * 320)
  let m := (m.startUnit (bayEngine c.bay 5) c 0).endBlocks (bayEngine c.bay 5) c.rBlocks 0
  finishExport (m.hostWrite c.part c.dest 0 ((imageHeader m a).map (fun b => (b, false)) ++ data)) a (data.any (·.2)) 0

/-- DENSE: the blocks whole, residues included (R183). -/
def exportDense (id : CmdId) (errs : List ReadErr) (m : Mach) : Res :=
  descRow (13, 1) id errs (exportWith (fun a m => .next (m.makeDense a)) errs) m

/-- The image and the residual of a TOPK export and its completion. -/
def Mach.makeTopk (m : Mach) (a : Act) : Mach :=
  let c := a.cmd
  let n := c.rRows * c.rCols
  let segs := (List.range (ceilDiv n 1024)).map fun s => a.segment m (1024 * s) (min 1024 (n - 1024 * s))
  let es := segs.flatMap (·.1)
  let rs := segs.flatMap (·.2.1)
  let r := segs.foldl (fun (x : Raised) s => x.or s.2.2) ⟨.none, 0, 0⟩
  let e := bayEngine c.bay 5
  let b := (m.startUnit e c 0).book e a r
  let m := b.1.endBlocks e c.rBlocks 0
  let bad := (es ++ rs).any (·.2)
  let m := m.hostWrite c.part c.dest 0 ((imageHeader m a).map (fun b => (b, false)) ++ es)
  let m := m.wrMarked (a.handleAt 36).base rs
  let m := m.bump O.EXPORTED_ENTRIES c.part (exportEntries m c)
  finishExport m b.2 bad (sat32 (exportEntries m c))

/-- TOPK: entries of every segment, then the residual (R181, R182). -/
def exportTopk (id : CmdId) (errs : List ReadErr) (m : Mach) : Res :=
  descRow (13, 2) id errs (exportWith (fun a m => .next (m.makeTopk a)) errs) m

/-! ### IMPORT (R184, R185) -/

/-- An image as validation reads it: address, mode, participant, tensor, entries. -/
structure Image where
  addr : Nat
  mode : Nat
  participant : Nat
  tensor : Nat
  entries : Nat
  deriving DecidableEq, Repr

def Image.bytes (i : Image) : Nat := 64 + i.entries * (if i.mode = 1 then 320 else 8)

def Cmd.images (c : Cmd) : Nat := c.f 48 8

def readImage (m : Mach) (c : Cmd) (addr : Nat) : Chk Image := do
  need (tierOf addr == some .host) rFIELD 48
  need (m.belongs c.part addr (m.hostSpace c.part 64)) rPARTITION 48
  let x := (m.hostRead c.part addr 0 64).1
  need (!x.any (·.2)) rPOISON 48
  let b := x.map (·.1)
  need (fld b 4 6 == c.step && fld b 16 4 == c.rRows && fld b 20 4 == c.rCols && (fld b 12 1 == 1 || fld b 12 1 == 2) &&
    fld b 24 4 != 0xFFFFFFFF) rFIELD 48
  need (fld b 12 1 != 1 || fld b 24 4 == c.rBlocks) rBOUND 48
  let i : Image := ⟨addr, fld b 12 1, fld b 10 2, fld b 0 4, fld b 24 4⟩
  need (m.belongs c.part addr (m.hostSpace c.part i.bytes)) rBOUND 48
  pure i

def ascending : List Nat → Bool
  | a :: b :: r => decide (a < b) && ascending (b :: r)
  | _ => true

def validateImport (m : Mach) (c : Cmd) : Chk (Act × List Image) := do
  let hs ← readHandles m c (handleFields c)
  checkReduceShape c
  match mget hs 32 with
  | some h => need ((tierOf h.base).isSome) rFIELD 32
  | none => pure ()
  let (out, tab) ← checkReduceOuts hs c
  need (tierOf c.images == some .host) rFIELD 48
  need (c.chain.all fun b => smem (m.part c.part).bays b) rPARTITION 29
  need (m.belongs c.part c.images (8 * c.cpb)) rPARTITION 48
  checkBufs m c (optBuf (mget hs 32) 0 32 (c.rBlocks * 320) ++ reduceBufs hs c out tab)
  match mget hs 32 with
  | some h => need (h.fmt == 10) rFORMAT 32
  | none => pure ()
  need (out.fmt == 9 || out.fmt == 7 || out.fmt == 10) rFORMAT 36
  checkTable m c out tab
  -- the list and the images lie in host memory: the first access there (R165, R345)
  need m.linkUp rLINK 48
  need (!m.rdPoison c.images (8 * c.cpb)) rPOISON 48
  let is ← (List.range c.cpb).mapM fun k => readImage m c (m.rdNat (c.images + 8 * k) 8)
  need (ascending (is.map (·.participant))) rFIELD 48
  need (is.all fun i => i.tensor == (is.map (·.tensor)).headD 0) rFIELD 48
  pure ({ Act.of c (.reducing (.begin (m.obj O.HEADROOM c.part) c.chain.length)) with handles := hs }, is)

/-- The running sum of a block at the chain end, with what it met. -/
structure Running_ where
  exp : Int
  sum : Option (List BElem)
  flg : Raised
  sats : Nat
  adds : Nat
  bad : Option (Nat × Nat)
  aligned : Option Int
  deriving DecidableEq, Repr

/-- A failed check: the lowest element is kept (R175). -/
def Running_.fail (r : Running_) (stage : Nat) (e : Option Nat) : Running_ :=
  { r with bad := lowestBad [((r.bad.map (·.1)).getD 0, r.bad.map (·.2)), (stage, e)] }

/-- The running sum shifted up to an exponent. -/
def Running_.raiseTo (r : Running_) (x : Int) : Running_ :=
  if x ≤ r.exp then r
  else
    match r.sum with
    | none => { r with exp := x }
    | some s =>
      let k := shiftBlock (x - r.exp).toNat s
      { r with exp := x, sum := some k.elems, flg := r.flg.or ⟨k.flg, 0, 0⟩, sats := r.sats + k.flg.sats }.fail 5 k.bad

/-- Elements at the running exponent added; the first term sets the sum. -/
def Running_.add (r : Running_) (b : List BElem) : Running_ :=
  match r.sum with
  | none => { r with sum := some b }
  | some s =>
    let k := addBlocks s b
    { r with sum := some k.elems, adds := r.adds + 64 }.fail 4 k.bad

/-- The range test after a term, and the alignment of the first term (R173). -/
def Running_.settle (r : Running_) : Running_ :=
  let r := { r with aligned := match r.aligned with | some x => some x | none => some r.exp }
  match r.sum with
  | none => r
  | some s =>
    let k := rangeRaise r.exp s
    { r with exp := k.1, sum := some k.2.elems, flg := r.flg.or ⟨k.2.flg, 0, 0⟩, sats := r.sats + k.2.flg.sats }.fail 5 k.2.bad

/-- A block term: BASE or a DENSE image, of block number `no`. -/
def Running_.block (r : Running_) (c : Cmd) (no : Nat) (b : Block) : Running_ :=
  let r := { r with flg := r.flg.or (c.consumed no b.elems) }.fail 5 b.badNibble
  let r := r.raiseTo b.exp
  let k := shiftBlock (r.exp - b.exp).toNat b.elems
  let r := { r with flg := r.flg.or ⟨k.flg, 0, 0⟩, sats := r.sats + k.flg.sats }.fail 5 k.bad
  (r.add k.elems).settle

/-- The TOPK entries of an image that lie in a block: element within it, row, column, value. -/
def imageEntries (c : Cmd) (data : Bytes) (i : Image) (b : Nat) : List (Nat × Nat × Nat × Nat) :=
  (List.range i.entries).filterMap fun e =>
    let idx := fld data (64 + 8 * e) 4
    let r := idx / c.rCols
    let col := idx % c.rCols
    if r / 8 * blocksOf c.rCols + col / 8 = b then some (r % 8 * 8 + col % 8, r, col, fld data (68 + 8 * e) 4) else none

/-- The entries of an image in a block, each a leaf (R185). -/
def Running_.entries (r : Running_) (a : Act) (participant : Nat) (es : List (Nat × Nat × Nat × Nat)) : Running_ :=
  let c := a.cmd
  let key := c.srKey (a.handleAt 36).tensor
  let r := es.foldl (fun (r : Running_) e =>
    let v := dec32 e.2.2.2
    let r := match extLog2 v with | some l => r.raiseTo (l - 30) | none => r
    let x := leafElem r.exp (key.draw participant (c.rRows * c.rCols) (e.2.1 * c.rCols + e.2.2.1)) v .none
    let r := { r with flg := r.flg.or ⟨x.2, e.2.1, e.2.2.1⟩ }
    r.add ((List.range 64).map fun k => if k = e.1 then x.1 else some (0, 0))) r
  if es.isEmpty then r else r.settle

/-- Whether the entries of a TOPK image are in strictly ascending INDEX within the view. -/
def entriesOk (c : Cmd) (data : Bytes) (i : Image) : Bool :=
  let ix := (List.range i.entries).map fun e => fld data (64 + 8 * e) 4
  ascending ix && ix.all fun x => decide (x < c.rRows * c.rCols)

/-- One block of an IMPORT (R185): the block, or its fault FORMAT. -/
def importBlock (m : Mach) (a : Act) (is : List (Image × Marked)) (b : Nat) : Option (Block × Running_ × Bool) :=
  let base := (a.h 32).map fun h => m.readBlock h.base b
  let dense := fun (x : Image × Marked) =>
    let d := (x.2.drop (64 + 320 * b)).take 320
    parseBlock (d.map (·.1)) (d.any (·.2))
  let terms := (base.toList) ++ (is.filter fun x => x.1.mode == 1).map dense
  let topkBad := is.any fun x => x.1.mode == 2 && x.2.any (·.2)
  let poisoned := topkBad || terms.any (·.poisoned)
  let pred := m.predicted (a.handleAt 40).base a.reduceWork.headroom b
  let r0 : Running_ := ⟨pred.getD (-160), none, ⟨.none, 0, 0⟩, 0, 0, none, none⟩
  if poisoned then some (⟨0, List.replicate 64 none, true⟩, r0, false)
  else if terms.any fun t => !t.expOk then none
  else
    let r := match base with | some k => r0.block a.cmd b k | none => r0
    let r := is.foldl (fun (r : Running_) x =>
      if x.1.mode = 1 then r.block a.cmd b (dense x)
      else r.entries a x.1.participant (imageEntries a.cmd (x.2.map (·.1)) x.1 b)) r
    let from_ := if pred.isNone then r.aligned.getD r.exp else pred.getD 0
    some (⟨r.exp, r.sum.getD (List.replicate 64 (some (0, 0))), false⟩, r, decide (from_ < r.exp))

/-- The blocks of an IMPORT in turn, none where one has an exponent out of range. -/
def importBlocks (is : List (Image × Marked)) : Nat → Nat → Mach × Act → Option (Mach × Act)
  | 0, _, x => some x
  | n + 1, b, x =>
    match importBlock x.1 x.2 is b with
    | none => none
    | some (blk, r, raised) =>
      let c := x.2.cmd
      let bay := c.chain.getLastD 0
      let e := bayEngine bay 5
      let m := (x.1.startUnit e c b).spendFree e r.adds
      let bk := m.book e x.2 r.flg
      let w := bk.2.reduceWork
      let a := { bk.2 with work := .reducing { w with
        raises := w.raises + if raised && r.bad.isNone then 1 else 0
        firstRaise := if raised && r.bad.isNone then bay else w.firstRaise
        sats := w.sats + r.sats
        residue := firstFault w.residue (r.bad.map fun (f : Nat × Nat) => (⟨bay, f.1, b, f.2⟩ : ResidueFault)) } }
      importBlocks is n (b + 1) (a.finalBlock bk.1 b (if r.bad.isSome then ⟨blk.exp, List.replicate 64 none, true⟩ else blk))

/-- The field that names the block whose exponent is out of range: BASE, or the images. -/
def importFormatField (m : Mach) (a : Act) (is : List (Image × Marked)) : Nat :=
  match (List.range a.cmd.rBlocks).find? fun b => (importBlock m a is b).isNone with
  | some b => if (a.h 32).any fun h => !(m.readBlock h.base b).expOk then 32 else 48
  | none => 48

/-- The images of an IMPORT read from host memory. -/
def Mach.readImages (m : Mach) (p : Nat) (is : List Image) : Mach × List (Image × Marked) :=
  is.foldl (fun (x : Mach × List (Image × Marked)) i =>
    let y := x.1.hostRead p i.addr 0 i.bytes
    (y.2, x.2 ++ [(i, y.1)])) (m, [])

/-- The images of an IMPORT read, added at the chain end and distributed, and its completion. -/
def Mach.makeImport (m : Mach) (c : Cmd) (a : Act) (is : List Image) : Mach :=
  let rd := m.readImages c.part is
  let m := rd.1
  let terms := c.cpb + if (a.h 32).isSome then 1 else 0
  if rd.2.any fun x => x.1.mode == 2 && !x.2.any (·.2) && !entriesOk c (x.2.map (·.1)) x.1 then
    -- the outputs are written poisoned (R184)
    (a.poisonReduction m).complete c rBOUND 48 0 .none true
  else
    match importBlocks rd.2 c.rBlocks 0 (m, a) with
    | none => m.refuse c rFORMAT (importFormatField m a rd.2)
    | some x => finishReduce (x.1.endRun (bayEngine (c.chain.getLastD 0) 5)) x.2 terms
        (if (a.h 32).any fun h => m.rdPoison h.base (c.rBlocks * 320) then 32 else 48)

/-- What an IMPORT reads in the module: its exponent table and BASE. -/
def Act.importReads (a : Act) : List (Nat × Nat) :=
  ((a.handleAt 40).base, tableBytes a.cmd) ::
    match a.h 32 with
    | some h => [(h.base, a.cmd.rBlocks * 320)]
    | none => []

/-- IMPORT (R184, R185): once validated it waits for its bays (R408). -/
def importRow (id : CmdId) (errs : List ReadErr) (m : Mach) : Res :=
  descRow (14, 0) id errs (fun c m =>
    match validateImport m c with
    | .error e => .next (if e.1 = rLINK then m.linkFault c e.2 else m.refuse c e.1 e.2)
    | .ok (a, is) =>
      if m.nodeReady a (c.chain.getLastD 0) && c.chain.all m.bayReady then
        .next ((m.touch errs a.importReads).makeImport c a is)
      else .next (m.wakeBays (m.actBays a))) m

end Sys2Proof.Machine
end

