-- ==== Sys2Proof/Machine/Update.lean ====
section
/-! DEFINITION. The parameter update units (R189 to R217, R487): validation of an UPDATE, the working
gradient, the optimisers, update records and step agreement, and the end of the command. -/

namespace Sys2Proof.Machine

open Sys2Proof

/-! ### The list entry and the optimiser record (R190 to R194) -/

def UpdEntry.tensor (e : UpdEntry) : Nat := fld e.raw 0 4
def UpdEntry.rows (e : UpdEntry) : Nat := fld e.raw 4 3
def UpdEntry.cols (e : UpdEntry) : Nat := fld e.raw 8 3
def UpdEntry.layer (e : UpdEntry) : Nat := fld e.raw 12 2
def UpdEntry.flag (e : UpdEntry) (b : Nat) : Bool := (fld e.raw 14 1).testBit b
def UpdEntry.mBf16 (e : UpdEntry) : Bool := e.flag 0
def UpdEntry.clipTensor (e : UpdEntry) : Bool := e.flag 1
def UpdEntry.presence (e : UpdEntry) : Bool := e.flag 2
def UpdEntry.decay (e : UpdEntry) : Bool := e.flag 3
def UpdEntry.rotCode (e : UpdEntry) : Nat := bits (fld e.raw 15 1) 3 3
def UpdEntry.gradFmt (e : UpdEntry) : Nat := fld e.raw 16 1
def UpdEntry.stride (e : UpdEntry) : Nat := fld e.raw 24 8
def UpdEntry.master (e : UpdEntry) (q : Nat) : Nat := fld e.raw 32 8 + q * e.stride
def UpdEntry.m1 (e : UpdEntry) (q : Nat) : Nat := fld e.raw 40 8 + q * e.stride
def UpdEntry.m2 (e : UpdEntry) (q : Nat) : Nat := fld e.raw 48 8 + q * e.stride
def UpdEntry.rec_ (e : UpdEntry) (q : Nat) : Nat := fld e.raw 56 8 + q * e.stride
def UpdEntry.grad (e : UpdEntry) (q : Nat) : Nat := fld e.raw 64 8 + q * fld e.raw 72 8
def UpdEntry.presMap (e : UpdEntry) : Nat := fld e.raw 80 8
def UpdEntry.freezeAt (e : UpdEntry) : Nat := fld e.raw 88 8
def UpdEntry.report (e : UpdEntry) : Nat := fld e.raw 96 8
def UpdEntry.optAt (e : UpdEntry) : Nat := fld e.raw 104 8
def UpdEntry.hasM2 (e : UpdEntry) : Bool := fld e.raw 48 8 != 0
def UpdEntry.rb (e : UpdEntry) : Nat := blocksOf e.rows
def UpdEntry.cb (e : UpdEntry) : Nat := blocksOf e.cols
def UpdEntry.blocks (e : UpdEntry) : Nat := e.rb * e.cb
/-- Bytes of a block of moments. -/
def UpdEntry.mSize (e : UpdEntry) : Nat := if e.mBf16 then 128 else 256
/-- First block of shard `q` of `n`; the next shard's first block ends it (R190). -/
def UpdEntry.bound (e : UpdEntry) (n q : Nat) : Nat := q * e.blocks / n
/-- Block rows of a rotation's column group. -/
def UpdEntry.group (e : UpdEntry) : Nat := if e.rotCode = 0 then 1 else rotSize e.rotCode / 8

def UpdEntry.algo (e : UpdEntry) : Nat := fld e.opt 0 1
def UpdEntry.lrMult (e : UpdEntry) : Nat := fld e.opt 4 4
def UpdEntry.mu (e : UpdEntry) : Nat := fld e.opt 8 4
def UpdEntry.beta1 (e : UpdEntry) : Nat := fld e.opt 12 4
def UpdEntry.beta2 (e : UpdEntry) : Nat := fld e.opt 16 4
def UpdEntry.eps (e : UpdEntry) : Nat := fld e.opt 20 4
def UpdEntry.lambda (e : UpdEntry) : Nat := fld e.opt 24 4
def UpdEntry.gscale (e : UpdEntry) : Nat := fld e.opt 28 4
def UpdEntry.clipMax (e : UpdEntry) : Nat := fld e.opt 32 4

/-- Element `k` of block `b` in the view, none for a pad. -/
def UpdEntry.cell (e : UpdEntry) (b k : Nat) : Option (Nat × Nat) :=
  let r := b / e.cb * 8 + k / 8
  let c := b % e.cb * 8 + k % 8
  if r < e.rows ∧ c < e.cols then some (r, c) else none

def Cmd.updMode (c : Cmd) : Nat := c.f 31 1
def Cmd.listAt (c : Cmd) : Nat := c.f 32 8
def Cmd.count (c : Cmd) : Nat := c.f 20 3

/-! ### Validation (R195) -/

def geZero (v : Nat) : Bool := finiteP v && Ext.le .zero (dec32 v)
def gtZero (v : Nat) : Bool := finiteP v && Ext.lt .zero (dec32 v)
def leOne (v : Nat) : Bool := Ext.le (dec32 v) (.ofNat 1)
def ltOne (v : Nat) : Bool := Ext.lt (dec32 v) (.ofNat 1)

/-- R194: the used fields of the optimiser record. -/
def optOk (e : UpdEntry) : Bool :=
  let a := e.algo
  (a == 1 || a == 2 || a == 3) && fld e.opt 1 3 == 0 && fld e.opt 36 28 == 0 &&
    geZero e.lrMult && finiteP e.gscale &&
    (a == 2 || (geZero e.mu && leOne e.mu)) &&
    (a != 2 || (geZero e.beta1 && ltOne e.beta1 && geZero e.beta2 && ltOne e.beta2 && gtZero e.eps)) &&
    (!e.decay || geZero e.lambda) && (!e.clipTensor || gtZero e.clipMax)

/-- The constants of R199: η, λ, a1, a2, b1, b2. -/
def optConsts (e : UpdEntry) (stepSize stamp : Nat) : NM (List Nat) := do
  let eta ← fmul stepSize e.lrMult
  let lam := if e.decay then e.lambda else 0
  if e.algo = 2 then
    pure [eta, lam, ← fsub oneFp32 e.beta1, ← fsub oneFp32 e.beta2,
      ← fsub oneFp32 (← fpow e.beta1 stamp), ← fsub oneFp32 (← fpow e.beta2 stamp)]
  else if e.algo = 3 then pure [eta, lam, ← fsub oneFp32 e.mu, 0, 0, 0]
  else pure [eta, lam, 0, 0, 0, 0]

/-- A clip factor of R198 from the sum `s` and its limit. -/
def clipFrom (s limit : Nat) : NM Nat := do
  if (dec32 s).isZero then pure oneFp32
  else
    let p ← fmul limit (← frsqrt s)
    pure (if Ext.le (.ofNat 1) (dec32 p) then oneFp32 else p)

/-- The per-tensor factor c_t. -/
def clipTensorOf (e : UpdEntry) (normSq : Nat) : NM Nat := do
  if e.clipTensor then clipFrom (← fmul (← fmul normSq e.gscale) e.gscale) e.clipMax else pure oneFp32

/-- The lengths of masters, first and second moments and update record of a shard. -/
def UpdEntry.pieces (e : UpdEntry) (n q : Nat) : List (Nat × Nat) :=
  let k := e.bound n (q + 1) - e.bound n q
  [(e.master q, 256 * k), (e.m1 q, e.mSize * k), (e.rec_ q, 64)] ++ if e.hasM2 then [(e.m2 q, e.mSize * k)] else []

/-- The gradient range of a copy: a BX32 copy is read at the shard's own blocks. -/
def UpdEntry.gradRange (e : UpdEntry) (n q : Nat) : Nat × Nat :=
  if e.gradFmt = 10 then (e.grad q + 320 * e.bound n q, 320 * (e.bound n (q + 1) - e.bound n q))
  else (e.grad q, if e.gradFmt = 9 then 4 * e.rows * e.cols else if e.gradFmt = 7 then 2 * e.rows * e.cols else 1)

def isModule (a : Nat) : Bool := tierOf a == some .module

/-- Every range an entry names by a raw address. -/
def UpdEntry.ranges (e : UpdEntry) (n : Nat) : List (Nat × Nat) :=
  ([(e.optAt, 64)] ++ (if e.freezeAt = 0 then [] else [(e.freezeAt, mapBytes (fld e.freeze 4 1) e.rb e.cb)]) ++
    (if e.clipTensor then [(e.report, 64)] else []) ++
    (if e.presence then [(e.presMap, ceilDiv e.rows 8)] else []) ++
    (List.range n).flatMap fun q => e.gradRange n q :: e.pieces n q).filter fun r => decide (0 < r.2)

/-- R195: the last byte of a range lies in the unit of its first and belongs to the partition. -/
def Mach.rangeWhole (m : Mach) (p a n : Nat) : Bool :=
  tierOf a == tierOf (a + n - 1) && addrUnit a == addrUnit (a + n - 1) && m.belongs1 p (a + n - 1)

/-- Check 1 of R195 for the entry at position `i`, with what it reads once. -/
def readEntry (m : Mach) (c : Cmd) (stamp i : Nat) : Chk UpdEntry := do
  let raw := m.rd (c.listAt + 128 * i) 128
  let e : UpdEntry := ⟨raw, [], [], 0, [], oneFp32⟩
  let n := c.chain.length
  need (!m.rdPoison (c.listAt + 128 * i) 128) rPOISON 32
  need (count24 e.rows && count24 e.cols && fld raw 7 1 == 0 && fld raw 11 1 == 0) rFIELD 32
  need (decide (fld raw 14 1 < 16) && fld raw 15 1 % 8 == 0 && decide (fld raw 15 1 < 64) &&
    fld raw 17 7 == 0 && fld raw 112 16 == 0) rFIELD 32
  need (decide (e.rotCode ≤ 4)) rFIELD 32
  need ((e.presMap != 0) == e.presence && (e.report != 0) == e.clipTensor) rFIELD 32
  need (!e.presence || (c.updMode == 1 && e.rotCode == 0)) rFIELD 32
  need (isModule e.optAt && (e.freezeAt == 0 || isModule e.freezeAt) && isModule e.presMap && isModule e.report) rFIELD 32
  need (!m.rdPoison e.optAt 64) rPOISON 32
  let e := { e with opt := m.rd e.optAt 64 }
  need (optOk e) rFIELD 32
  need (fld raw 40 8 != 0 && e.hasM2 == (e.algo == 2)) rFIELD 32
  need (!(e.algo == 2 && stamp == 0)) rFIELD 8
  let g := e.group
  need (e.rows % (8 * g) == 0 || e.rotCode == 0) rFIELD 32
  need (e.rotCode == 0 || (List.range (n + 1)).all fun q => e.bound n q % (g * e.cb) == 0) rFIELD 32
  need ((List.range n).all fun q =>
    let b := c.chain.getD q 0
    (e.pieces n q).all (fun r => isModule r.1 && addrBay r.1 == b) &&
      (e.grad q :: if e.bound n q < e.bound n (q + 1) then [(e.gradRange n q).1] else []).all
        fun g => (isModule g || tierOf g == some .cluster) && addrBay g == b) rFIELD 32
  let e ← if e.freezeAt = 0 then pure e else do
      need (!m.rdPoison e.freezeAt 32) rPOISON 32
      need (mapHeaderOk (m.rd e.freezeAt 32) e.rb e.cb e.tensor) rFIELD 32
      let k := mapBytes (m.rdNat (e.freezeAt + 4) 1) e.rb e.cb
      need (!m.rdPoison e.freezeAt k) rPOISON 32
      pure { e with freeze := m.rd e.freezeAt k }
  if e.clipTensor then do
    need (!m.rdPoison e.report 64) rPOISON 32
    pure { e with normSq := m.rdNat (e.report + 24) 4 }
  else pure e

def readEntries (m : Mach) (c : Cmd) (stamp : Nat) : Nat → Nat → Chk (List UpdEntry)
  | _, 0 => pure []
  | i, k + 1 => do
    let e ← readEntry m c stamp i
    pure (e :: (← readEntries m c stamp (i + 1) k))

/-- A shard as the command starts: one with no blocks is complete, and counts as applied (R190). -/
def Shard.new (entry pos : Nat) (empty : Bool) : Shard :=
  ⟨entry, pos, empty, false, false, 0, 0, 0, 0, 0, 0, 0, 0, false, 0⟩

/-- The ranges running UPDATEs of a partition write (check 7). -/
def Mach.updatesInUse (m : Mach) (p : Nat) : List (Nat × Nat) :=
  m.acts.flatMap fun a =>
    match a.work with
    | .updating w =>
      if a.cmd.part ≠ p then []
      else w.entries.flatMap fun e => (List.range a.cmd.chain.length).flatMap fun q => e.pieces a.cmd.chain.length q
    | _ => []

/-- The validation of an UPDATE, with the flags its constants raise. -/
def validateUpdate (m : Mach) (c : Cmd) : Chk (Act × Flg) := do
  let p := c.part
  let n := c.chain.length
  let stamp := m.obj O.STEP_COUNTER p % 2 ^ 48
  need (decide (1 ≤ c.count ∧ c.count ≤ 256)) rFIELD 20
  need (n != 0) rFIELD 29
  need (isModule c.listAt && c.listAt % 128 == 0) rFIELD 32
  let hs ← readHandles m c (handleFields c)
  let es ← readEntries m c stamp 0 c.count
  match mget hs 40 with
  | some h => need (h.addrOk 0 && h.base % 64 == 0) rFIELD 40
  | none => pure ()
  need (c.chain.all fun b => smem (m.part p).bays b) rPARTITION 29
  need (m.belongs1 p c.listAt) rPARTITION 32
  match mget hs 40 with
  | some h => do
    need (m.belongs p h.base h.bytes) rPARTITION 40
    m.noClear p [⟨40, h.base, h.bytes, 0⟩]
    need (!m.inHole h.base) rTILELOST 0xFF
  | none => pure ()
  es.forM fun e => need ((e.ranges n).all fun r => m.belongs1 p r.1) rPARTITION 32
  need (m.rangeWhole p c.listAt (128 * c.count)) rBOUND 32
  match mget hs 40 with
  | some h => need (decide (64 + 32 * c.count ≤ h.bytes)) rBOUND 40
  | none => pure ()
  es.forM fun e => need ((e.ranges n).all fun r => m.rangeWhole p r.1 r.2) rBOUND 32
  let lt := m.obj O.LAYER_TABLE p
  need (lt == 0 || (isModule lt && lt % 32 == 0 && m.belongs1 p lt && m.rangeWhole p lt (32 * 65536))) rBOUND 0xFF
  es.forM fun e => need (e.gradFmt == 7 || e.gradFmt == 9 || e.gradFmt == 10) rFORMAT 32
  need (c.step == stamp) rSTEPSKEW 0xFF
  es.forM fun e => need (!e.clipTensor ||
    (!(m.rdNat (e.report + 10) 1).testBit 3 && m.rdNat (e.report + 4) 6 == stamp)) rSTATE 0x12
  need (!es.any fun e => (List.range n).any fun q => (e.pieces n q).any fun r =>
    (m.updatesInUse p).any fun u => rangesOverlap r.1 r.2 u.1 u.2) rOVERLAP 32
  let made := (es.mapM fun e => do
    pure { e with consts := ← optConsts e (m.obj O.STEP_SIZE p) stamp, clipT := ← clipTensorOf e e.normSq } : NM (List UpdEntry)) .none
  let w : UpdateWork :=
    { stamp := stamp, globalMax := m.obj O.GLOBAL_CLIP_MAX p, veto := m.obj O.NONFINITE_VETO p == 1
      entries := made.1
      shards := (List.range made.1.length).flatMap fun i => (List.range n).map fun q =>
        Shard.new i q ((made.1[i]?).all fun e => e.bound n q == e.bound n (q + 1))
      phase := 0, globalSq := 0, clip := oneFp32, doneAt := [], resetAt := [], layerTable := lt }
  pure ({ Act.of c (.updating w) with handles := hs }, made.2)

/-! ### The gradient of a block (R196, R197) -/

/-- Whether a row of the view has its presence bit, and whether the map's bit reads poisoned (R207). -/
def UpdEntry.rowPresent (e : UpdEntry) (m : Mach) (r : Nat) : Bool :=
  !e.presence || (m.rdByte (e.presMap + r / 8)).toNat.testBit (r % 8)

def UpdEntry.blockRows (e : UpdEntry) (b : Nat) : List Nat :=
  ((List.range 8).map (b / e.cb * 8 + ·)).filter (· < e.rows)

def UpdEntry.frozen (e : UpdEntry) (b : Nat) : Bool := !e.freeze.isEmpty && frozenBit e.freeze (b / e.cb) (b % e.cb)

/-- A block with an element to update: not frozen, and not all its rows absent. -/
def UpdEntry.live (e : UpdEntry) (m : Mach) (b : Nat) : Bool :=
  !e.frozen b && (e.blockRows b).any (e.rowPresent m)

/-- The fault a command keeps of two: a residue mismatch (1) before an exponent out of range (2), 0 for none
(R210). -/
def worseFault (a b : Nat) : Nat := if a = 1 ∨ b = 1 then 1 else max a b

/-- A block of gradient elements as read: the FP32 values by element with what reading raised, whether a
carrier is poisoned, and 1 for a residue mismatch or 2 for an exponent out of range (R41). -/
structure GradBlock where
  vals : List Nat
  raised : Raised
  poisoned : Bool
  fault : Nat
  /-- The worst fault of the frozen blocks of its column group, told by the group's first live block. -/
  aside : Nat
  deriving DecidableEq, Repr

/-- Step 1 of R197, for the elements whose row is present: the others are not read (R207). A block that fails R41
has no element values: each is a free value, which only the other blocks of a rotated column group can meet (log
entry 2). -/
def UpdEntry.readGrad (e : UpdEntry) (m : Mach) (seed stamp q b : Nat) : GradBlock :=
  let bx := e.gradFmt == 10
  let blk := parseBlock (m.rd (e.grad q + 320 * b) 320) false
  let seen := fun (k : Nat) => (e.cell b k).any fun rc => e.rowPresent m rc.1
  let badNibble := (List.range 64).any fun k => seen k && (blk.elems.getD k none).any fun x => x.2 != mod15 x.1
  let f := (Fmt.ofCode e.gradFmt).getD .fp32
  let at2 := fun (rc : Nat × Nat) => e.grad q + (rc.1 * e.cols + rc.2) * f.bytes
  let poisoned := if bx then
      m.rdPoison (e.grad q + 320 * b + 256) 34 || (List.range 64).any fun k =>
        seen k && m.rdPoison (e.grad q + 320 * b + 4 * k) 4
    else (List.range 64).any fun k => match e.cell b k with
      | some rc => e.rowPresent m rc.1 && m.rdPoison (at2 rc) f.bytes
      | none => false
  let fault := if !bx || poisoned then 0 else if badNibble then 1 else if !blk.expOk then 2 else 0
  let presPoison := e.presence && (e.blockRows b).any fun r => m.rdPoison (e.presMap + r / 8) 1
  let key : SrKey := ⟨seed, e.tensor, stamp⟩
  let x := (List.range 64).mapM (m := RM) fun k =>
    match e.cell b k with
    | none => pure 0
    | some rc =>
      if !e.rowPresent m rc.1 then pure 0
      else if fault ≠ 0 then pure (Config.freeValue (m.freeCount + 64 * b + k)).toNat
      else if bx then
        match blk.elems.getD k none with
        | none => pure FloatFmt.fp32.nan
        | some v => at_ rc (convertFloat .fp32 (.sr (key.draw 0 (e.rows * e.cols) (rc.1 * e.cols + rc.2)))
            (elemValue blk.exp (some v)))
      else pure (elem32 f (m.rdNat (at2 rc) f.bytes))
  let y := x ⟨.none, 0, 0⟩
  ⟨y.1, y.2, poisoned || presPoison, fault, 0⟩

/-- Step 2: the values of the blocks of one column group, rotated back, with what that raised. -/
def UpdEntry.rotateBack (e : UpdEntry) (u j : Nat) (g : List GradBlock) : List (List Nat) × Raised :=
  let cols := (List.range 8).mapM (m := RM) fun k =>
    at_ (u * e.group * 8, 8 * j + k)
      (rotate ((List.range (8 * g.length)).map fun i => (((g[i / 8]?).map (·.vals)).getD []).getD (i % 8 * 8 + k) 0))
  let y := cols ⟨.none, 0, 0⟩
  ((List.range g.length).map fun i => (List.range 64).map fun k =>
    (y.1.getD (k % 8) []).getD (8 * i + k / 8) 0, y.2)

/-- The gradient of a block in the ordinary basis: a poisoned block of its column group poisons it (R214).
What reading and rotating raised, and what faults the frozen blocks of the group have, is told by its first live block
alone. -/
def UpdEntry.gradOf (e : UpdEntry) (m : Mach) (seed stamp q b : Nat) : GradBlock :=
  if e.rotCode = 0 then e.readGrad m seed stamp q b
  else
    let u := b / e.cb / e.group
    let j := b % e.cb
    let bs := (List.range e.group).map fun i => (u * e.group + i) * e.cb + j
    let g := bs.map fun x => e.readGrad m seed stamp q x
    let y := e.rotateBack u j g
    let i := b / e.cb % e.group
    let first := (bs.find? fun x => e.live m x) == some b
    ⟨y.1.getD i [], if first then (g.foldl (fun (r : Raised) x => r.or x.raised) ⟨.none, 0, 0⟩).or y.2 else ⟨.none, 0, 0⟩,
      g.any (·.poisoned), ((g[i]?).map (·.fault)).getD 0,
      if first then (bs.zip g).foldl (fun r x => if e.live m x.1 then r else worseFault r x.2.fault) 0 else 0⟩

/-- Steps 3 and 4 of R197. -/
def UpdEntry.working (e : UpdEntry) (clip v : Nat) : NM Nat := do
  let g ← fmul v e.gscale
  if clip = oneFp32 then pure g else fmul g clip

/-! ### The optimisers (R200) -/

/-- The lines of R200: the new master, moments and the applied step. -/
def UpdEntry.optimise (e : UpdEntry) (w mo vo g : Nat) : NM (Nat × Nat × Nat × Nat) := do
  let k := fun (i : Nat) => e.consts.getD i 0
  let x ← (if e.algo = 2 then do
      let m' ← fadd (← fmul e.beta1 mo) (← fmul (k 2) g)
      let v' ← fadd (← fmul e.beta2 vo) (← fmul (k 3) (← fmul g g))
      let u ← fdiv (← fdiv m' (k 4)) (← fadd (← fsqrt (← fdiv v' (k 5))) e.eps)
      pure (m', v', u)
    else if e.algo = 3 then do
      let m' ← fadd (← fmul e.mu mo) (← fmul (k 2) g)
      let z := dec32 m'
      pure (m', 0, if z.isNan then FloatFmt.fp32.nan else if z.isZero then 0 else if z.sign then 0xBF800000 else oneFp32)
    else do
      let m' ← fadd (← fmul e.mu mo) g
      pure (m', 0, m') : NM (Nat × Nat × Nat))
  let d ← fmul (k 0) (← fadd x.2.2 (← fmul (k 1) w))
  pure (← fsub w d, x.1, x.2.1, d)

/-- A moment as it is written (R200). -/
def UpdEntry.momentOut (e : UpdEntry) (seed stamp prob idx v : Nat) : NM Nat :=
  if e.mBf16 then convertFloat .bf16 (.sr ((⟨seed, e.tensor, stamp⟩ : SrKey).draw prob (e.rows * e.cols) idx)) (dec32 v)
  else pure v

def UpdEntry.mBytes (e : UpdEntry) : Nat := if e.mBf16 then 2 else 4
def UpdEntry.momentIn (e : UpdEntry) (code : Nat) : Nat := if e.mBf16 then elem32 .bf16 code else code

/-- One element: the codes of master and moments to write, and w′, g and d where it was applied. -/
structure ElemOut where
  w : Nat
  m1 : Nat
  m2 : Nat
  terms : Option (Nat × Nat × Nat)
  nonfinite : Bool
  deriving DecidableEq, Repr

/-- Element `k` of a block whose lines hold `w`, `a` and `b` there. -/
def UpdEntry.element (e : UpdEntry) (m : Mach) (seed stamp clip b k w a v grad : Nat) : RM ElemOut :=
  match e.cell b k with
  | none => pure ⟨0, 0, 0, none, false⟩
  | some rc =>
    if !e.rowPresent m rc.1 then pure ⟨w, a, v, none, false⟩
    else do
      let g ← at_ rc (e.working clip grad)
      if !finiteP g then
        at_ rc (do raiseInv 3)
        pure ⟨w, a, v, none, true⟩
      else
        let idx := rc.1 * e.cols + rc.2
        at_ rc (do
          let r ← e.optimise w (e.momentIn a) (e.momentIn v) g
          pure ⟨r.1, ← e.momentOut seed stamp 1 idx r.2.1, ← e.momentOut seed stamp 2 idx r.2.2.1,
            some (r.1, g, r.2.2.2), false⟩)

/-- Squares added within a block, then onto a shard's total (R178, R211). -/
def sumSquares (total : Nat) (xs : List Nat) : NM Nat := do
  fadd total (← foldNM (fun acc x => do fadd acc (← fmul x x)) 0 xs)

/-! ### A shard (R203 to R209, R214, R487) -/

/-- How a unit judges a shard (R203). -/
inductive Judge where
  | empty | fresh | inStep | applied | skewed | foreign
  deriving DecidableEq, Repr

def UpdEntry.judge (e : UpdEntry) (m : Mach) (onePass : Bool) (stamp n q : Nat) : Judge :=
  let first := e.bound n q
  let k := e.bound n (q + 1) - first
  let r := e.rec_ q
  if k = 0 then .empty
  else if m.rdPoison r 64 then .skewed
  else if m.rdNat (r + 4) 1 % 2 = 0 then .fresh
  else if m.rdNat r 4 ≠ e.tensor then .foreign
  else if m.rdNat (r + 16) 4 ≠ first ∨ m.rdNat (r + 20) 4 ≠ k then .skewed
  else if (m.rdNat (r + 4) 1).testBit 1 then .skewed
  else if m.rdNat (r + 8) 6 = stamp then (if onePass then .applied else .skewed)
  else if m.rdNat (r + 8) 6 + 1 = stamp then .inStep
  else .skewed

/-- Elements of a block that are absent, or requested and frozen (R207, R208). -/
def UpdEntry.skips (e : UpdEntry) (m : Mach) (b : Nat) : Nat × Nat :=
  let cells := (List.range 64).filterMap fun k => e.cell b k
  let here := cells.filter fun rc => e.rowPresent m rc.1
  (cells.length - here.length, if e.frozen b then here.length else 0)

/-- Flags of a unit's work go to it and to the command. -/
def Mach.bookUpd (m : Mach) (a : Act) (q : Nat) (r : Raised) : Mach × Act :=
  m.book (bayEngine (a.cmd.chain.getD q 0) 6) a r

/-- One block of a shard in the single pass or pass 2. -/
def updateBlock (e : UpdEntry) (stamp clip q first : Nat) (x : Mach × Act × Shard) (b : Nat) : Mach × Act × Shard :=
  let m := x.1
  let a := x.2.1
  let s := x.2.2
  let sk := e.skips m b
  let s := { s with absent := s.absent + sk.1, frozen := s.frozen + sk.2 }
  if !e.live m b then (m, a, s)
  else
    let g := e.gradOf m a.cmd.seed stamp q b
    let s := { s with gradFault := worseFault s.gradFault (worseFault g.fault g.aside) }
    let i := b - first
    let wa := e.master q + 256 * i
    let ma := e.m1 q + e.mSize * i
    let va := e.m2 q + e.mSize * i
    if g.poisoned || m.rdPoison wa 256 || m.rdPoison ma e.mSize || (e.hasM2 && m.rdPoison va e.mSize) then
      let bk := if g.poisoned then (m, a) else m.bookUpd a q g.raised
      let m := (bk.1.wrPoison wa 256).wrPoison ma e.mSize
      (if e.hasM2 then m.wrPoison va e.mSize else m, bk.2, { s with poisoned := true })
    else if g.fault ≠ 0 then
      let bk := m.bookUpd a q g.raised
      (bk.1, bk.2, s)
    else
      let z := (List.range 64).mapM (m := RM) fun k =>
        e.element m a.cmd.seed stamp clip b k (m.rdNat (wa + 4 * k) 4) (m.rdNat (ma + e.mBytes * k) e.mBytes)
          (if e.hasM2 then m.rdNat (va + e.mBytes * k) e.mBytes else 0) (g.vals.getD k 0)
      let y := z ⟨.none, 0, 0⟩
      let out := y.1
      let terms := out.filterMap (·.terms)
      let sums := (do
        pure (← sumSquares s.wSq (terms.map (·.1)), ← sumSquares s.gSq (terms.map (·.2.1)),
          ← sumSquares s.uSq (terms.map (·.2.2))) : NM (Nat × Nat × Nat)) .none
      let bk := m.bookUpd a q ((g.raised.or y.2).or ⟨sums.2, 0, 0⟩)
      let m := bk.1.wr wa (out.flatMap fun o => leBytes 4 o.w) false
      let m := m.wr ma (out.flatMap fun o => leBytes e.mBytes o.m1) false
      let m := if e.hasM2 then m.wr va (out.flatMap fun o => leBytes e.mBytes o.m2) false else m
      (m, bk.2, { s with
        wSq := sums.1.1, gSq := sums.1.2.1, uSq := sums.1.2.2
        nonfinite := s.nonfinite + (out.filter (·.nonfinite)).length
        elements := s.elements + terms.length })

/-- The record of a shard that has been written (R203, R206), or cut short (R215). -/
def UpdEntry.writeRecord (e : UpdEntry) (m : Mach) (stamp n q : Nat) (partial_ : Bool) : Mach :=
  let first := e.bound n q
  let r := e.rec_ q
  let old := m.rd r 64
  let base := if fld old 4 1 % 2 = 1 then old
    else leBytes 4 e.tensor ++ leBytes 1 1 ++ zerosB 11 ++ leBytes 4 first ++
      leBytes 4 (e.bound n (q + 1) - first) ++ zerosB 40
  m.wr r (if partial_ then patch base 4 (leBytes 1 (fld base 4 1 ||| 2)) else patch base 8 (leBytes 6 stamp)) false

/-- A shard applied, block by block, its record last. -/
def applyShard (e : UpdEntry) (stamp clip n q : Nat) (x : Mach × Act × Shard) : Mach × Act × Shard :=
  let first := e.bound n q
  let bay := x.2.1.cmd.chain.getD q 0
  let eng := bayEngine bay 6
  let y := (List.range (e.bound n (q + 1) - first)).foldl (fun z i => updateBlock e stamp clip q first z (first + i))
    (x.1.startUnit eng x.2.1.cmd q, x.2)
  let m := ((e.writeRecord y.1 stamp n q false).spendFree eng y.2.2.elements).bump O.UPD_ELEMENTS bay y.2.2.elements
  (m, y.2.1, { y.2.2 with applied := true })

def Act.updateWork (a : Act) : UpdateWork :=
  match a.work with
  | .updating w => w
  | _ => ⟨0, 0, false, [], [], 0, 0, 0, [], [], 0⟩

def UpdateWork.entry (w : UpdateWork) (i : Nat) : UpdEntry := (w.entries[i]?).getD ⟨[], [], [], 0, [], 0⟩

/-- The clip factor c_t × c_g of an entry (R198). -/
def clipOf (e : UpdEntry) (cg : Nat) : Nat := (fmul e.clipT cg .none).1

/-- Pass 2, or the single pass, over one shard. -/
def runShard (onePass : Bool) (x : Mach × Act × List Shard) (s : Shard) : Mach × Act × List Shard :=
  let w := x.2.1.updateWork
  let n := x.2.1.cmd.chain.length
  let e := w.entry s.entry
  match e.judge x.1 onePass w.stamp n s.pos with
  | .empty | .applied => (x.1, x.2.1, x.2.2 ++ [{ s with applied := true }])
  | .skewed => (x.1, x.2.1, x.2.2 ++ [{ s with skewed := true }])
  | .foreign => (x.1, x.2.1, x.2.2 ++ [{ s with foreign := true }])
  | _ =>
    let y := applyShard e w.stamp (clipOf e w.clip) n s.pos (x.1, x.2.1, s)
    (y.1, y.2.1, x.2.2 ++ [y.2.2])

/-- Pass 1 over one shard (R205): its judgement, and every gradient element formed up to step 3. -/
def passOne (x : Mach × Act × List Shard) (s : Shard) : Mach × Act × List Shard :=
  let a := x.2.1
  let w := a.updateWork
  let n := a.cmd.chain.length
  let e := w.entry s.entry
  let j := e.judge x.1 false w.stamp n s.pos
  let s := { s with skewed := j == .skewed, foreign := j == .foreign }
  let first := e.bound n s.pos
  let count := e.bound n (s.pos + 1) - first
  let eng := bayEngine (a.cmd.chain.getD s.pos 0) 6
  let step := fun (y : Mach × Act × Shard) (i : Nat) =>
    let m := y.1
    let b := first + i
    let s := { y.2.2 with frozen := y.2.2.frozen + (e.skips m b).2 }
    if !e.live m b then (m, y.2.1, s)
    else
      let g := e.gradOf m a.cmd.seed w.stamp s.pos b
      let s := { s with gradFault := worseFault s.gradFault (worseFault g.fault g.aside), poisoned := s.poisoned || g.poisoned }
      if g.poisoned then (m, y.2.1, s)
      else
        let z := ((List.range 64).filterMap fun k => (e.cell b k).map fun rc => (rc, g.vals.getD k 0)).mapM (m := RM)
          fun p => at_ p.1 (do
            let v ← e.working oneFp32 p.2
            if finiteP v then pure () else raiseInv 3
            pure v)
        let v := if g.fault ≠ 0 then ([], ⟨.none, 0, 0⟩) else z ⟨.none, 0, 0⟩
        let fin := v.1.filter finiteP
        let t := sumSquares s.pass1 fin .none
        let bk := m.bookUpd y.2.1 s.pos ((g.raised.or v.2).or ⟨t.2, 0, 0⟩)
        (bk.1, bk.2, { s with
          pass1 := t.1, nonfinite := s.nonfinite + (v.1.length - fin.length) })
  let y := (List.range count).foldl step (if count = 0 then x.1 else x.1.startUnit eng a.cmd s.pos, a, s)
  let m := if count = 0 then y.1 else y.1.spendFree eng 0
  (m, y.2.1, x.2.2 ++ [y.2.2])

/-! ### The end of a command (R204, R205, R208, R210 to R213) -/

/-- R208: an element is requested somewhere, and every requested element of every entry is frozen. -/
def UpdateWork.allFrozen (w : UpdateWork) (m : Mach) : Bool :=
  let asked := fun (e : UpdEntry) (i : Nat) => e.cols != 0 &&
    ((List.range 8).map (8 * i + ·)).any fun r => decide (r < e.rows) && e.rowPresent m r
  w.entries.any (fun e => (List.range e.rb).any (asked e)) &&
    w.entries.all fun e => (List.range e.rb).all fun i =>
      !asked e i || (List.range e.cb).all fun j => e.frozen (i * e.cb + j)

/-- Shards of an entry in ascending chain position. -/
def UpdateWork.shardsOf (w : UpdateWork) (i : Nat) : List Shard := w.shards.filter fun s => s.entry == i

/-- The mask of bays that applied an entry. -/
def appliedMask (c : Cmd) (l : List Shard) : Nat := maskOf ((l.filter (·.applied)).map fun s => c.chain.getD s.pos 0)

/-- Sums of an entry over its shards (R211). -/
def entrySums (l : List Shard) : NM (Nat × Nat × Nat) := do
  pure (← foldNM fadd 0 (l.map (·.wSq)), ← foldNM fadd 0 (l.map (·.gSq)), ← foldNM fadd 0 (l.map (·.uSq)))

def total (l : List Shard) (f : Shard → Nat) : Nat := (l.map f).foldl (· + ·) 0

/-- One entry of the update report (R212). -/
def entryReport (c : Cmd) (w : UpdateWork) (i : Nat) (sums : Nat × Nat × Nat) : Bytes :=
  let e := w.entry i
  let l := w.shardsOf i
  leBytes 4 e.tensor ++ leBytes 2 e.layer ++ leBytes 2 (appliedMask c l) ++ leBytes 4 sums.1 ++ leBytes 4 sums.2.1 ++
    leBytes 4 sums.2.2 ++ leBytes 4 e.clipT ++ leBytes 4 (sat32 (total l (·.absent))) ++
    leBytes 1 ((if e.presence then 1 else 0) + (if l.any (·.poisoned) then 2 else 0) +
      (if l.any (fun s => s.gradFault != 0) then 4 else 0)) ++ zerosB 3

/-- The layer-norm table takes an entry's sums (R213). -/
def layerEntry (table stamp : Nat) (m : Mach) (layer : Nat) (s : Nat × Nat × Nat) : Mach × Flg :=
  let a := table + 32 * layer
  let put := fun (n : Nat) (v : Nat × Nat × Nat) =>
    m.wr a (leBytes 6 stamp ++ leBytes 2 n ++ leBytes 4 v.1 ++ leBytes 4 v.2.1 ++ leBytes 4 v.2.2 ++ zerosB 12) false
  if m.rdNat a 6 ≠ stamp then (put 1 s, .none)
  else
    let v := (do
      pure (← fadd (m.rdNat (a + 8) 4) s.1, ← fadd (m.rdNat (a + 12) 4) s.2.1, ← fadd (m.rdNat (a + 16) 4) s.2.2)
        : NM (Nat × Nat × Nat)) .none
    (put (m.rdNat (a + 6) 2 + 1) v.1, v.2)

/-- The command ends: report, layer table, counters and record (R210 to R213, R218). -/
def finishUpdate (m : Mach) (a : Act) (reason detail : Nat) (vetoed : Bool) : Mach :=
  let c := a.cmd
  let w := a.updateWork
  let p := c.part
  let e0 := bayEngine (c.chain.headD 0) 6
  let n := w.entries.length
  let sums := ((List.range n).mapM fun i => entrySums (w.shardsOf i) : NM (List (Nat × Nat × Nat))) .none
  let bk := m.book e0 a ⟨sums.2, 0, 0⟩
  let sumOf := fun (i : Nat) => sums.1.getD i (0, 0, 0)
  let skews := maskOf ((w.shards.filter (·.skewed)).map fun s => c.chain.getD s.pos 0)
  let nonf := total w.shards (·.nonfinite)
  let frz := total w.shards (·.frozen)
  let faulted := reason = rRESIDUE ∨ reason = rFORMAT ∨ reason = rOVERLAP
  let rep := leBytes 6 w.stamp ++ leBytes 1 c.updMode ++
    leBytes 1 ((if vetoed then 1 else 0) + (if skews ≠ 0 then 2 else 0) +
      (if w.shards.any (·.poisoned) then 4 else 0) + (if reason = 0x80 then 8 else 0) + (if faulted then 16 else 0)) ++
    leBytes 4 w.globalSq ++ leBytes 4 w.clip ++ leBytes 4 (sat32 nonf) ++ leBytes 4 (sat32 frz) ++ leBytes 2 skews ++
    zerosB 38 ++ (List.range n).flatMap fun i => entryReport c w i (sumOf i)
  let m := match a.h 40 with
    | some h => bk.1.wr h.base rep false
    | none => bk.1
  let lt := w.layerTable
  let x := if lt = 0 ∨ vetoed ∨ reason = rSTEPSKEW then (m, bk.2)
    else (List.range n).foldl (fun (x : Mach × Act) i =>
      let y := layerEntry lt w.stamp x.1 (w.entry i).layer (sumOf i)
      y.1.book e0 x.2 ⟨y.2, 0, 0⟩) (m, bk.2)
  let m := (x.1.bump O.FROZEN_SKIPS p frz).bump O.NONFINITE_SKIPS p nonf
  let m := if reason = 0 ∨ reason = 0x80 then m.bump O.UPDATES p 1 else m
  let m := if reason = 0x80 then m.bump O.FROZEN_NOOPS p 1 else m
  let m := if reason = rSTEPSKEW then m.bump O.STEP_SKEWS p 1 else m
  let m := if vetoed then m.bump O.VETOES p 1 else m
  let m := c.chain.foldl (fun s b => s.endRun (bayEngine b 6)) m
  let every := (List.range n).foldl (fun acc i => acc &&& appliedMask c (w.shardsOf i)) 0xFFFF
  let flg := if vetoed then { x.2.flg with inv := true } else x.2.flg
  m.complete c reason detail every flg (w.shards.any (·.poisoned) && w.phase != 1 || c.updMode == 1 && w.shards.any (·.poisoned))

/-- What faults the gradients, records and lines of a command met, by the first row of R210 that applies. -/
def UpdateWork.met (w : UpdateWork) : Option (Nat × Nat) :=
  if w.shards.any fun s => s.gradFault == 1 then some (rRESIDUE, 0xFF)
  else if w.shards.any fun s => s.gradFault == 2 then some (rFORMAT, 32)
  else if w.shards.any (·.poisoned) then some (rPOISON, 32)
  else if w.shards.any (·.foreign) then some (rOVERLAP, 32)
  else if w.shards.any (·.skewed) then some (rSTEPSKEW, 0xFF)
  else none

/-- The reason of a command whose shards have all been run: a unit that was reset decides it (R215), then R210. -/
def updateOutcome (m : Mach) (w : UpdateWork) : Nat × Nat :=
  if !w.resetAt.isEmpty then (rSTATE, 0x14)
  else match w.met with
    | some r => r
    | none => if w.allFrozen m then (0x80, 0) else (0, 0)

/-- What the unit of a chain position reads for its shards: gradients, and the lines it writes anew. -/
def UpdateWork.reads (w : UpdateWork) (n q : Nat) : List (Nat × Nat) :=
  w.entries.flatMap fun e => e.gradRange n q :: e.pieces n q

def Act.updateReads (a : Act) : List (Nat × Nat) :=
  (List.range a.cmd.chain.length).flatMap (a.updateWork.reads a.cmd.chain.length)

/-- What pass 1 reads: gradients, and the update records (R205). -/
def Act.passOneReads (a : Act) : List (Nat × Nat) :=
  let n := a.cmd.chain.length
  (List.range n).flatMap fun q => a.updateWork.entries.flatMap fun e => [e.gradRange n q, (e.rec_ q, 64)]

/-- The single pass (R204). -/
def runOnePass (m : Mach) (a : Act) : Mach :=
  let w := a.updateWork
  let m := m.touch [] a.updateReads
  let x := w.shards.foldl (runShard true) (m, a, [])
  let used := (w.entries.map (·.blocks)).foldl max 0
  let m := { x.1 with freeCount := x.1.freeCount + 64 * used }
  let a := { x.2.1 with work := .updating { w with shards := x.2.2, phase := 1 } }
  let r := updateOutcome m a.updateWork
  finishUpdate (m.setAct a) a r.1 r.2 false

/-- Pass 1 of every unit (R205). -/
def runPassOne (m : Mach) (a : Act) : Mach :=
  let w := a.updateWork
  let m := m.touch [] a.passOneReads
  let x := w.shards.foldl passOne (m, a, [])
  x.1.setAct { x.2.1 with work := .updating { w with shards := x.2.2, phase := 1 } }

/-- Whether an earlier UPDATE still has a unit of a chain (R189). -/
def Mach.unitsTaken (earlier : List Act) (c : Cmd) : Bool :=
  earlier.any fun a => match a.work with
    | .updating _ => a.cmd.chain.any fun b => c.chain.contains b
    | _ => false

/-- An UPDATE whose units are free and whose bays work (R189, R404). -/
def Mach.unitsFree (m : Mach) (i : Nat) : Option Act :=
  match m.acts[i]? with
  | some a => match a.work with
    | .updating w =>
      if w.phase = 0 ∧ !Mach.unitsTaken (m.acts.take i) a.cmd ∧ a.cmd.chain.all m.issues ∧ m.awake a then some a else none
    | _ => none
  | none => none

/-- It starts; one whose lines the mirror does not accept is held (R359). -/
def Mach.startUpdate (m : Mach) (i : Nat) : Option Mach :=
  match m.unitsFree i with
  | none => none
  | some a =>
    let r := if a.cmd.updMode = 1 then runOnePass m a else runPassOne m a
    if m.psLagging && r.mirrorWrites != m.mirrorWrites then none else some r

/-- UPDATEs whose units have become free start, in the order accepted (R189). Each completes or takes its
units, so one pass over the list settles them. -/
def Mach.startUpdates (m : Mach) : Mach :=
  let m := (List.range m.acts.length).foldl (fun s _ =>
    match (List.range s.acts.length).findSome? s.startUpdate with
    | some r => r
    | none => s) m
  if m.psLagging && (List.range m.acts.length).any fun i => (m.unitsFree i).isSome then m.holdWrite else m

/-- A descriptor's row: validation, and the start where its units are free. -/
def startUpdate (c : Cmd) (m : Mach) : Res :=
  match validateUpdate m c with
  | .error e =>
    let m := if e.1 = rSTEPSKEW then m.bump O.STEP_SKEWS c.part 1 else m
    .next (m.refuse c e.1 e.2)
  | .ok (a, f) =>
    let bk := m.book (bayEngine (c.chain.headD 0) 6) a ⟨f, 0, 0⟩
    .next (bk.1.launch bk.2).startUpdates

def onePassRow (id : CmdId) (errs : List ReadErr) (m : Mach) : Res := descRow (8, 1) id errs startUpdate m
def twoPassRow (id : CmdId) (errs : List ReadErr) (m : Mach) : Res := descRow (8, 2) id errs startUpdate m

/-- The global sum of R205. -/
def globalSum (w : UpdateWork) : NM Nat := do
  let per ← (List.range w.entries.length).mapM fun i => foldNM fadd 0 ((w.shardsOf i).map (·.pass1))
  foldNM fadd 0 per

/-- Why a TWO_PASS goes no further than its first pass: reason and DETAIL of the first row that applies. -/
def agreed (w : UpdateWork) : Option (Nat × Nat) :=
  match w.met with
  | some r => some r
  | none => if w.veto && w.shards.any (fun s => s.nonfinite != 0) then some (rSTATE, 0x13) else none

/-- The command ends after its first pass: every APPLIED mask is zero, and its counts are those of pass 1 (R205,
R210). -/
def Mach.endAgreed (m : Mach) (a : Act) (w : UpdateWork) (reason detail : Nat) : Mach :=
  finishUpdate m { a with work := .updating { w with shards := w.shards.map fun s => { s with applied := false } } }
    reason detail (reason == rSTATE)

/-- The global sum and its clip factor go to every unit (R198, R205). -/
def Mach.beginPassTwo (m : Mach) (a : Act) (w : UpdateWork) : Mach :=
  let g := globalSum w .none
  let cg := clipFrom g.1 w.globalMax .none
  let c := w.entries.foldl (fun (f : Flg) e => f.or (fmul e.clipT cg.1 .none).2) .none
  let bk := m.book (bayEngine (a.cmd.chain.headD 0) 6) a ⟨(g.2.or cg.2).or c, 0, 0⟩
  bk.1.setAct { bk.2 with work := .updating { w with
    globalSq := g.1, clip := cg.1, phase := 2
    shards := w.shards.map fun s => { s with nonfinite := 0, frozen := 0 } } }

/-- UPDATE_AGREEMENT (R205): the decision, by the first row that applies. -/
def updateAgreement (id : CmdId) (m : Mach) : Res :=
  match m.act? id with
  | none => cannot "no such command runs"
  | some a =>
    match a.work with
    | .updating w =>
      if a.cmd.updMode ≠ 2 ∨ w.phase ≠ 1 then .next m
      else
        .next (match agreed w with
          | some r => (m.endAgreed a w r.1 r.2).startUpdates
          | none => m.beginPassTwo a w)
    | _ => cannot "the command is not an UPDATE"

/-- The command ends once the units of every chain position are done (R205). -/
def Mach.closePassTwo (m : Mach) (a : Act) : Mach :=
  let w := a.updateWork
  let m := m.setAct a
  if w.doneAt.length = a.cmd.chain.length then
    let r := updateOutcome m w
    (finishUpdate m a r.1 r.2 false).startUpdates
  else m

/-- The shards of chain position `q` are applied (R205). -/
def Mach.passTwo (m : Mach) (a : Act) (w : UpdateWork) (q : Nat) : Mach :=
  let x := (w.shards.filter fun s => s.pos == q).foldl (fun (x : Mach × Act × List Shard) s =>
    let n := a.cmd.chain.length
    let e := w.entry s.entry
    if e.bound n (q + 1) = e.bound n q then (x.1, x.2.1, x.2.2 ++ [s])
    else
      let y := applyShard e w.stamp (clipOf e w.clip) n q (x.1, x.2.1, s)
      (y.1, y.2.1, x.2.2 ++ [y.2.2])) (m, a, [])
  x.1.closePassTwo { x.2.1 with work := .updating { w with
    doneAt := w.doneAt ++ [q]
    shards := w.shards.map fun s => (x.2.2.find? fun t => t.entry == s.entry && t.pos == s.pos).getD s } }

/-- UPDATE_PASS_2 (R205): the unit of a chain bay applies its shards; after the last unit the command
ends. -/
def updatePass2 (id : CmdId) (bay : Nat) (errs : List ReadErr) (m : Mach) : Res :=
  match m.act? id with
  | none => cannot "no such command runs"
  | some a =>
    match a.work with
    | .updating w =>
      match a.cmd.chain.findIdx? (· == bay) with
      | none => cannot "the bay is not in the chain"
      | some q =>
        if w.phase ≠ 2 ∨ w.doneAt.contains q ∨ !m.issues bay ∨ !m.awake a then .next m
        else .next ((m.takeReads errs (w.reads a.cmd.chain.length q)).passTwo a w q)
    | _ => cannot "the command is not an UPDATE"

/-- R215 on the unit of a bay, which stops within 1 µs (log entry 41). In pass 2 the first of its shards that has
lines to write is marked PARTIAL (log entry 22), and the other units go on; before, its command completes at once. -/
def Mach.resetUnit (m : Mach) (bay : Nat) : Mach :=
  let x := m.free
  let m := x.2.setBay bay { x.2.bay bay with updReset := m.now + x.1 % 1001 }
  match m.acts.find? fun a => a.cmd.chain.contains bay && (match a.work with | .updating w => w.phase != 0 | _ => false) with
  | none => m
  | some a =>
    let w := a.updateWork
    let n := a.cmd.chain.length
    match a.cmd.chain.findIdx? (· == bay) with
    | none => m
    | some q =>
      if w.doneAt.contains q then m
      else if w.phase ≠ 2 then (finishUpdate m a rSTATE 0x14 false).startUpdates
      else
        let cut := w.shards.find? fun s => s.pos == q && decide ((w.entry s.entry).bound n q < (w.entry s.entry).bound n (q + 1))
        let m := match cut with
          | some s => (w.entry s.entry).writeRecord m w.stamp n q true
          | none => m
        (m.stopRun (bayEngine bay 6)).closePassTwo { a with work := .updating { w with
          doneAt := w.doneAt ++ [q], resetAt := w.resetAt ++ [q] } }

/-- UPD_BUSY (R219). -/
def Mach.updBusy (m : Mach) (bay : Nat) : Bool :=
  m.acts.any fun a => match a.work with
    | .updating w => w.phase != 0 && (match a.cmd.chain.findIdx? (· == bay) with
      | some q => !w.doneAt.contains q
      | none => false)
    | _ => false

end Sys2Proof.Machine
end

