-- ==== Sys2Proof/Machine/Copy.lean ====
section
/-! DEFINITION. Data movement: COPY with its queues, regulator, multicast and recompute alternative (R129 to
R134, R268 to R276), tensor dumps (R463 to R465), the lent store (R264 to R267) and placement (R258 to
R262). -/

namespace Sys2Proof.Machine

open Sys2Proof

/-! ### Fields of a COPY -/

def Cmd.srcOff (c : Cmd) : Nat := c.f 20 6
def Cmd.dstOff (c : Cmd) : Nat := c.f 26 6
def Cmd.length (c : Cmd) : Nat := c.f 52 6
def Cmd.deadline (c : Cmd) : Nat := c.f 48 4
def Cmd.recompute (c : Cmd) : Nat := c.f 40 8
def Cmd.recomputeCount (c : Cmd) : Nat := c.opflags % 32
def Cmd.stream (c : Cmd) : Nat := c.f 60 1

def isTile (a : Nat) : Bool := tierOf a == some .tile

/-! ### The lent store (R264 to R267) -/

/-- Where a COPY moves its bytes from and to (R232). -/
def CopyWork.source (w : CopyWork) : Nat := w.src + w.srcOff
def CopyWork.dest (w : CopyWork) : Nat := w.dst + w.dstOff

/-- The bytes of a COPY at a tile of its group, from an offset. -/
def CopyWork.memberAddr (w : CopyWork) (t o : Nat) : Nat := tileAddr t (addrOff w.dst + w.dstOff + o)

/-- The tiles of its group, the dropped ones included. -/
def CopyWork.group (w : CopyWork) : List Nat := w.members ++ w.dropped.map (·.tile)

/-- The store of a tile that a COPY moves bytes from or to. -/
def CopyWork.namesTile (w : CopyWork) (t : Nat) : Bool :=
  (isTile w.source && addrUnit w.source == t) ||
    (if w.multicast then w.group.contains t else isTile w.dest && addrUnit w.dest == t)

def Act.spans (a : Act) (cluster : Nat) : Bool :=
  decide (1 ≤ a.cmd.opcode ∧ a.cmd.opcode ≤ 6) && a.cmd.span.contains cluster

/-- R264: whether a tile is idle. The commands of a recompute list count, which are validated with their COPY. -/
def Mach.tileIdle (m : Mach) (t : Nat) : Bool :=
  !(m.acts ++ m.listed).any fun a => a.spans (t / 64) || (match a.work with | .copying w => w.namesTile t | _ => false)

/-- Whether an object placed in the tile stores of a tile's partition overlaps a piece. -/
def Mach.pieceTaken (m : Mach) (t k : Nat) : Bool :=
  m.placed.any fun o => o.tier == 1 && some o.part == m.bayPart (t / 640) &&
    rangesOverlap (o.base % 2 ^ 18) o.len (k * 32768) 32768

/-- The pieces a tile lends: 1 to 5, not taken and not bound (R264). -/
def Mach.lendable (m : Mach) (t : Nat) : List Nat :=
  if m.isHole t || !m.tileIdle t then []
  else (List.range 5).map (· + 1) |>.filter fun k =>
    !m.pieceTaken t k && !m.lent.any fun l => l.tile == t && l.piece == k

/-- Home addresses of the lent pieces of a bay that are at home, in ascending object base address. -/
def Mach.homePieces (m : Mach) (b : Nat) : List (Nat × Nat) :=
  let objs := m.placed.filterMap fun o =>
    if o.tier ≠ 3 then none
    else if o.every then (if smem (m.part o.part).bays b then some (o.part, b * 2 ^ 36 + o.base % 2 ^ 36, o.len) else none)
    else if addrBay o.base = b then some (o.part, o.base, o.len) else none
  let all := objs.flatMap fun o => (List.range (o.2.2 / 32768)).map fun i => (o.1, o.2.1 + i * 32768)
  sortBy (fun x y => decide (x.2 ≤ y.2)) (all.filter fun x => (m.lentAt x.2).isNone)

/-- Whether a bay's stores can hold lent pieces: they are kept, and not about to be lost (R266, R404). -/
def Mach.lends (m : Mach) (b : Nat) : Bool :=
  m.inRun && (m.bay b).power != .failed && (m.bay b).power != .off && !(m.bay b).leaving

/-- LENT_BIND (R265): the first piece at home meets the first free lendable piece of the bay. -/
def lentBind (b : Nat) (m : Mach) : Res :=
  if !m.lends b then .next m
  else
    match m.homePieces b with
    | [] => .next m
    | (p, home) :: _ =>
      match ((List.range 640).map (b * 640 + ·)).findSome? fun t =>
          (m.lendable t).head?.map fun k => (t, k) with
      | none => .next m
      | some tk => .next { m with lent := m.lent ++ [(⟨p, home, tk.1, tk.2, [], []⟩ : Lent)] }

/-- A piece written back and pointed home (R266). -/
def Mach.revokePiece (m : Mach) (l : Lent) : Mach :=
  let m' := { m with lent := m.lent.filter fun x => decide (x ≠ l) }
  let lines := (List.range 128).filter fun i => (List.range 8).any fun k => smem l.dirty (8 * i + k)
  let m' := lines.foldl (fun s i =>
    let ds := (List.range 8).filter fun k => smem l.dirty (8 * i + k)
    let data := fun (k : Nat) => (List.range 32).map fun j => m.rdByte (tileAddr l.tile (l.piece * 32768 + (8 * i + k) * 32 + j))
    let bad := fun (k : Nat) => m.sectorPoisoned (sectorOf (tileAddr l.tile (l.piece * 32768 + (8 * i + k) * 32)))
    if ds.length = 8 then s.wrLine (lineOf l.home + i) 0 (ds.flatMap data) (ds.any bad)
    else ds.foldl (fun s k => s.wrLine (lineOf l.home + i) (32 * k) (data k) (bad k)) s) m'
  (m'.bump O.REVOKES l.part 1).bump O.REVOKE_BYTES l.part (32 * l.dirty.length)

def Mach.revokeWhere (m : Mach) (f : Lent → Bool) : Mach := (m.lent.filter f).foldl (fun s l => s.revokePiece l) m

/-- LENT_REVOKE (R266): a tile that has stopped being idle. -/
def lentRevoke (t : Nat) (errs : List ReadErr) (m : Mach) : Res :=
  if m.tileIdle t then .next m else .next ((m.meet errs).revokeWhere fun l => l.tile == t)

/-! ### Validation of a COPY (R268, R275, R129, R130) -/

/-- The main output of a list command: address and extent (R130). -/
def Act.mainOutput (a : Act) : Option (Nat × Nat) :=
  let c := a.cmd
  match c.opcode with
  | 1 => (a.h 40).map fun h => (h.at_ c.problem, (outShape c).1 * (outShape c).2 * h.size)
  | 4 => (a.h 36).map fun h => (h.at_ c.problem,
      if a.dstFmt.isFour then pagesOf (gridBlocks c.cRows c.cCols) * 1024 else c.cRows * c.cCols * h.size)
  | 5 => (a.h 36).map fun h => (h.at_ c.problem, c.cRows * c.cCols * h.size)
  | 6 => (a.h 40).map fun h => (h.at_ c.problem,
      if c.wOp = 11 then c.cRows * c.f 26 3 * h.size
      else if c.wOp = 12 then c.cCols * h.size
      else if c.wOp = 7 then (c.cRows + 1) * h.size
      else c.cRows * c.cCols * h.size)
  | 9 => (a.h 36).map fun h => (h.at_ c.problem + c.dstOff, c.length)
  | _ => none

/-- Whether a moved range belongs to a partition; one in sealed host memory takes the space of its frames
(R379). -/
def Mach.endBelongs (m : Mach) (p base off len : Nat) : Bool :=
  if isHost base && (m.part p).confidential then m.belongs p base (m.hostSpace p (off + len))
  else m.belongs p (base + off) len

/-- Checks 1 to 4 of R268. -/
def validateMove (m : Mach) (c : Cmd) : Chk Act := do
  let hs ← readHandles m c (handleFields c)
  let s ← mustHave hs c 32
  let d ← mustHave hs c 36
  let p := c.part
  let sb := s.at_ c.problem
  let db := d.at_ c.problem
  let sa := sb + c.srcOff
  let da := db + c.dstOff
  need ((tierOf sa).isSome && sa % 32 == 0) rFIELD 32
  need ((tierOf da).isSome && da % 32 == 0) rFIELD 36
  need (!(isHost sa && isHost da)) rFIELD 36
  if c.recompute ≠ 0 then do
    need (tierOf sa == some .module) rFIELD 32
    need (isModule c.recompute && c.recompute % 64 == 0 && m.belongs p c.recompute (64 * c.recomputeCount)) rFIELD 40
    need (c.deadline != 0) rFIELD 48
  else pure ()
  need (c.deadline != 0xFFFFFFFF) rFIELD 48
  need (c.length != 0 && c.length != 2 ^ 48 - 1 && c.length % 32 == 0) rFIELD 52
  if c.multicastFlag then do
    checkSpan c 58
    need (isTile db && addrUnit db == 64 * c.spanFirst) rFIELD 36
    need (decide (addrOff db + c.dstOff + c.length ≤ 196608)) rFIELD 36
  else pure ()
  need (decide (c.stream < 64 ∨ c.stream = 0xFF)) rFIELD 60
  need (m.endBelongs p sb c.srcOff c.length) rPARTITION 32
  need (m.endBelongs p db c.dstOff c.length) rPARTITION 36
  need (!c.multicastFlag || spanBelongs m c) rPARTITION 58
  need (!m.inHole sa && (c.multicastFlag || !m.inHole da)) rTILELOST 0xFF
  need (decide (c.srcOff + c.length ≤ s.bytes)) rBOUND 32
  need (decide (c.dstOff + c.length ≤ d.bytes)) rBOUND 36
  if c.multicastFlag then need (!(isTile sa && c.span.contains (addrUnit sa / 64))) rOVERLAP 32
  else need (!rangesOverlap sa c.length da c.length) rOVERLAP 36
  let w : CopyWork :=
    { src := sb, srcOff := c.srcOff, dst := db, dstOff := c.dstOff, len := c.length, issued := 0, done := 0
      deadline := if c.deadline = 0 then none else some (m.now + c.deadline)
      stream := c.stream, aged := none, waitedFrom := m.now, multicast := c.multicastFlag
      members := if c.multicastFlag then c.span.flatMap m.liveTiles else [], dropped := [], count := 0, running := 0
      subEnd := none, lost := false }
  pure { Act.of c (.copying w) with handles := hs }

/-- The validation of one list command by its own chapter. -/
def validateListed (m : Mach) (c : Cmd) : Chk Act :=
  match c.opcode with
  | 1 => validateProduct m c
  | 4 => validateCast m c
  | 5 => validateRotate m c
  | 6 => validateWide m c
  | 9 => if c.recompute = 0 then validateMove m c else .error (rFIELD, 40)
  | _ => .error (rFIELD, 40)

/-- How a refusal of a list command is told by its COPY: DETAIL names RECOMPUTE but for STATE and RESOURCE (R130). -/
def listedReason (r : Nat × Nat) : Nat × Nat := if r.1 = rSTATE ∨ r.1 = rRESOURCE then r else (r.1, 0x28)

/-- How a list command that ends with a fault is told (R132): a field of its own is told as RECOMPUTE (log entry 50). -/
def listedFault (r : Nat × Nat) : Nat × Nat := if r.2 = 0xFF then r else listedReason r

/-- Check 5: the commands of the recompute list, validated (R130). -/
def readList (m : Mach) (c : Cmd) : Nat → Nat → Chk (List Act)
  | _, 0 => pure []
  | k, n + 1 => do
    let at' := c.recompute + 64 * (k - 1)
    need (!m.rdPoison at' 64) rPOISON 40
    let d := m.cmdOf { c.id with sub := k } c.part (m.rd at' 64)
    need ([1, 4, 5, 6, 9].contains d.opcode) rFIELD 40
    match m.commonCheck d with
    | some r => .error (listedReason r)
    | none =>
      match validateListed m d with
      | .error r => .error (listedReason r)
      | .ok a => do pure (a :: (← readList m c (k + 1) n))

def validateCopy (m : Mach) (c : Cmd) : Chk (Act × List Act) := do
  let a ← validateMove m c
  if c.recompute = 0 then pure (a, [])
  else do
    let l ← readList m c 1 c.recomputeCount
    let out := (a.h 36).map fun h => (h.at_ c.problem + c.dstOff, c.length)
    need ((l.getLast?.bind Act.mainOutput) == out) rFIELD 40
    match a.work with
    | .copying w => pure ({ a with work := .copying { w with count := c.recomputeCount } }, l)
    | _ => pure (a, l)

/-! ### Queues and the regulator (R269, R270, R272) -/

def Act.copyWork? (a : Act) : Option CopyWork :=
  match a.work with
  | .copying w => if w.running = 0 then some w else none
  | _ => none

/-- The COPYs a bay's DMA engine fetches for, in the order accepted. -/
def Mach.copies (m : Mach) (b : Nat) : List (Act × CopyWork) :=
  m.acts.filterMap fun a => if a.cmd.bay = b then a.copyWork?.map fun w => (a, w) else none

/-- The bytes of the transfer that starts at an offset: it ends at a 256-byte boundary of the source. -/
def CopyWork.piece (w : CopyWork) (off : Nat) : Nat := min (256 - (w.source + off) % 256) (w.len - off)

/-- Whether a dropped tile still waits for transfers of its catch-up to be issued (R276). -/
def Dropped.lacks (d : Dropped) (len : Nat) : Bool := !d.owed.isEmpty || decide (d.next < len)

/-- The offset from which a dropped tile is sent its next bytes. -/
def Dropped.offset (d : Dropped) : Nat := d.owed.headD d.next

/-- Its next transfer, of so many bytes, is issued. -/
def Dropped.sent (d : Dropped) (n : Nat) : Dropped :=
  match d.owed with
  | _ :: r => { d with owed := r }
  | [] => { d with next := d.next + n }

/-- Whether a COPY has a transfer still to issue. -/
def CopyWork.toIssue (w : CopyWork) : Bool := decide (w.issued < w.len) || w.dropped.any fun d => d.lacks w.len

/-- The next transfer of a COPY: offset, bytes, and the tile of a catch-up, which begins after the group's last byte
(R269, R276). -/
def Mach.nextTransfer (m : Mach) (a : Act) (w : CopyWork) : Option (Nat × Nat × Option Nat) :=
  if w.issued < w.len then some (w.issued, w.piece w.issued, none)
  else if m.transfers.any fun t => decide (t.cmd = a.cmd.id) && t.member.isNone then none
  else (w.dropped.find? fun d => d.lacks w.len).map fun d => (d.offset, w.piece d.offset, some d.tile)

/-- A queue: its rank among ties, its COPYs in order. -/
structure Queue where
  rank : Nat
  copies : List (Act × CopyWork)
  deriving Repr

def Mach.queues (m : Mach) (b : Nat) : List Queue :=
  let cs := m.copies b
  ((List.range 64).filterMap fun s =>
      let q := cs.filter fun x => x.2.stream == s
      if q.isEmpty then none else some ⟨s, q⟩) ++
    (((cs.filter fun x => x.2.stream == 0xFF).zipIdx).map fun x => ⟨64 + x.2, [x.1]⟩)

/-- The dry time of a queue; none for infinity. -/
def Queue.dry (q : Queue) : Option Nat :=
  match q.copies.head? with
  | some x => match x.2.deadline with | some d => some d | none => x.2.aged
  | none => none

def Queue.before (x y : Queue) : Bool :=
  match x.dry, y.dry with
  | some a, some b => decide (a < b ∨ (a = b ∧ x.rank ≤ y.rank))
  | some _, none => true
  | none, some _ => false
  | none, none => decide (x.rank ≤ y.rank)

/-- The COPY of a queue whose transfers are issued next: the first with any left (R270). -/
def Queue.turn (q : Queue) : Option (Act × CopyWork) := q.copies.find? fun x => x.2.toIssue

/-- The transfer a queue would issue next. -/
def Mach.queueNext (m : Mach) (q : Queue) : Option (Act × CopyWork × Nat × Nat × Option Nat) :=
  match q.turn with
  | some x => (m.nextTransfer x.1 x.2).map fun t => (x.1, x.2, t)
  | none => none

/-- Tokens of a bay's bucket now, in thousandths of a byte. -/
def Mach.tokens (m : Mach) (p b : Nat) : Nat :=
  let k := (m.bay b).bucket
  min (m.obj O.PF_BURST p * 1000) (k.milli + m.obj O.PF_RATE p * (m.now - k.at_))

/-- Whether a transfer waits on its prefetch regulator (R272). -/
def Mach.regulated (m : Mach) (a : Act) (w : CopyWork) (n : Nat) : Bool :=
  m.obj O.PF_RATE a.cmd.part != 0 && (isModule w.src || isHost w.src) &&
    decide (m.tokens a.cmd.part a.cmd.bay < n * 1000)

/-- When the bucket of a transfer that waits on it holds its bytes; none where it never will. -/
def Mach.fillsAt (m : Mach) (a : Act) (n : Nat) : Option Nat :=
  if m.obj O.PF_BURST a.cmd.part < n then none
  else some (m.now + ceilDiv (n * 1000 - m.tokens a.cmd.part a.cmd.bay) (m.obj O.PF_RATE a.cmd.part))

/-- The transfers of a partition that wait on a regulator now, by when each may go. -/
def Mach.regulatorWaits (m : Mach) (p : Nat) : List (Option Nat) :=
  (m.part p).bays.flatMap fun b => (m.queues b).filterMap fun q => match m.queueNext q with
    | some x => if x.1.cmd.part = p ∧ m.regulated x.1 x.2.1 x.2.2.2.1 then some (m.fillsAt x.1 x.2.2.2.1) else none
    | none => none

/-- When the last of some waits ends. -/
def lastOf : List (Option Nat) → Option Nat
  | [] => some 0
  | none :: _ => none
  | some t :: r => (lastOf r).map (max t)

/-- The time a partition has waited on its regulators since it was last counted (R272). -/
def Mach.throttledNow (m : Mach) (p : Nat) : Nat :=
  match mget m.throttled p with
  | some t => min m.now (t.2.getD m.now) - t.1
  | none => 0

/-- PF_THROTTLED_NS counts while a transfer waits (R272): brought to now, and begun anew. -/
def Mach.countThrottle (m : Mach) (p : Nat) : Mach :=
  let m := m.bump O.PF_THROTTLED_NS p (m.throttledNow p)
  match m.regulatorWaits p with
  | [] => { m with throttled := mdel m.throttled p }
  | l => { m with throttled := mset m.throttled p (m.now, lastOf l) }

/-- The bucket of a bay brought to now. -/
def Mach.settleBucket (m : Mach) (p b spent : Nat) : Mach :=
  m.setBay b { m.bay b with bucket := ⟨m.tokens p b - spent * 1000, m.now⟩ }

def Mach.setCopy (m : Mach) (a : Act) (w : CopyWork) : Mach := m.setAct { a with work := .copying w }

/-- A dry time and a beginning of the wait for every COPY of a queue (R270). -/
def Mach.ageQueue (m : Mach) (q : Queue) (aged : Option Nat) (t : Nat) : Mach :=
  let ids := q.copies.map fun x => x.1.cmd.id
  { m with acts := m.acts.map fun (x : Act) => match x.work with
    | .copying v => if ids.contains x.cmd.id then { x with work := .copying { v with aged := aged, waitedFrom := t } } else x
    | _ => x }

/-! ### The start and the end of a COPY -/

/-- A COPY ends with its record; transfers and list commands of it are gone. -/
def Mach.endCopy (m : Mach) (a : Act) (reason detail specific : Nat) : Mach :=
  let mine := fun (i : CmdId) => i.journal == a.cmd.id.journal && i.seq == a.cmd.id.seq && a.cmd.id.sub == 0
  let m := { m with
    transfers := m.transfers.filter fun t => decide (t.cmd ≠ a.cmd.id)
    listed := m.listed.filter fun x => !mine x.cmd.id }
  let e := bayEngine a.cmd.bay 7
  let m := if (m.engine e).run.map (·.id) = some a.cmd.id then m.endRun e else m
  let m := if a.poisoned then m.bump O.POISON_MOVES a.cmd.bay 1 else m
  (m.complete a.cmd reason detail specific a.flg a.poisoned).countThrottle a.cmd.part

/-- A COPY whose host access fails ends with LINK; what it would have written in the module is poisoned
(R251, R175). -/
def Mach.failCopy (m : Mach) (a : Act) (w : CopyWork) : Mach :=
  let out := !isHost w.dst
  let m := if !out then m
    else if w.multicast then w.group.foldl (fun s t => s.wrPoison (w.memberAddr t 0) w.len) m
    else m.wrPoison w.dest w.len
  m.endCopy { a with poisoned := a.poisoned || out } rLINK (if isHost w.src then 32 else 36) 0

/-- A COPY that starts waits from now, unless the queue of its stream waits already: it then shares its dry time and
its wait (R270; log entry 127). -/
def Mach.joins (m : Mach) (bay : Nat) (w : CopyWork) : CopyWork :=
  match (m.queues bay).find? fun q => q.rank == w.stream && decide (w.stream < 64) with
  | some q => match q.turn with
    | some x => { w with aged := x.2.aged, waitedFrom := x.2.waitedFrom }
    | none => { w with waitedFrom := m.now }
  | none => { w with waitedFrom := m.now }

/-- A validated COPY starts, unless it needs a host access it cannot make (R376, R251). -/
def Mach.launchCopy (m : Mach) (a : Act) : Mach :=
  match a.work with
  | .copying w =>
    let host := isHost w.src || isHost w.dst
    if host && (m.part a.cmd.part).confidential && (m.bounceKeys a.cmd.part).isNone then m.refuse a.cmd rKEY 0xFF
    else if host && !m.linkUp then (m.bump O.LINK_FAILS 0 1).failCopy a w
    else
      let w := m.joins a.cmd.bay { w with deadline := if a.cmd.deadline = 0 then none else some (m.now + a.cmd.deadline) }
      let a := { a with work := .copying w }
      ((m.launch a).countThrottle a.cmd.part).wakeBays (m.actBays a)
  | _ => m.launch a

def startCopy (c : Cmd) (m : Mach) : Res :=
  match validateCopy m c with
  | .error e => .next (m.refuseChecked c e)
  | .ok (a, l) =>
    let s := m.launchCopy a
    .next (if (s.act? c.id).isSome then { s with listed := s.listed ++ l } else s)

def copyRow (id : CmdId) (errs : List ReadErr) (m : Mach) : Res := descRow (9, 0) id errs startCopy m
def multicastRow (id : CmdId) (errs : List ReadErr) (m : Mach) : Res := descRow (9, 1) id errs startCopy m

/-! ### Transfers (R269, R270, R276) -/

/-- The ranges of the module that a transfer reads and writes. -/
def CopyWork.sides (w : CopyWork) (t : Option Nat) (off n : Nat) : List (Nat × Nat) :=
  (if isHost w.src then [] else [(w.source + off, n)]) ++
    match t with
    | some k => [(w.memberAddr k off, n)]
    | none => if w.multicast then w.members.map fun k => (w.memberAddr k off, n)
        else if isHost w.dst then [] else [(w.dest + off, n)]

/-- The bays whose stores hold them. -/
def Mach.sideBays (m : Mach) (l : List (Nat × Nat)) : List Nat := l.flatMap fun r => m.storeBays r.1 r.2

/-- Whether what a transfer touches can take it: the bays of its stores run, the memory controllers of its packages
issue, and its tiles lend nothing (R266, R404). -/
def Mach.endsReady (m : Mach) (l : List (Nat × Nat)) : Bool :=
  (m.sideBays l).all m.bayReady && (l.all fun r => !isModule r.1 || m.issues (addrBay r.1)) &&
    !m.lent.any fun x => l.any fun r => isTile r.1 && addrUnit r.1 == x.tile

/-- A group sends no byte that would raise a member's lag above 16,384 (R276). -/
def CopyWork.held (w : CopyWork) (t : Option Nat) (n : Nat) : Bool :=
  w.multicast && t.isNone && decide (16384 < w.issued - w.done + n)

def Mach.mayIssue (m : Mach) (x : Act × CopyWork × Nat × Nat × Option Nat) : Bool :=
  let w := x.2.1
  !m.regulated x.1 w x.2.2.2.1 && m.endsReady (w.sides x.2.2.2.2 x.2.2.1 x.2.2.2.1) && !w.held x.2.2.2.2 x.2.2.2.1

/-- A transfer is issued: its ticket, what the regulator counts, the COPY's progress, and its queue no longer waits
(R269, R270, R272). -/
def Mach.issueTransfer (m : Mach) (b : Nat) (q : Queue) (a : Act) (w : CopyWork) (off n : Nat) (tile : Option Nat) :
    Mach :=
  let p := a.cmd.part
  let ticket := (m.bay b).nextTicket
  let m := m.startUnit (bayEngine b 7) a.cmd off
  let m := if m.obj O.PF_RATE p != 0 && (isModule w.src || isHost w.src) then m.settleBucket p b n else m
  let m := m.setBay b { m.bay b with nextTicket := ticket + 1 }
  let m := { m with transfers := m.transfers ++ [(⟨b, ticket, a.cmd.id, off, n, tile⟩ : Transfer)] }
  let w' := match tile with
    | none => { w with issued := w.issued + n }
    | some t => { w with dropped := w.dropped.map fun (d : Dropped) => if d.tile = t then d.sent n else d }
  ((m.setCopy a w').ageQueue q none m.now).countThrottle p

/-- TRANSFER_ISSUE (R270): the queue with the earliest dry time whose next transfer can issue. Where none can, the bays
whose stores are waited for are woken (R408). -/
def transferIssue (b : Nat) (m : Mach) : Res :=
  if !m.issues b || decide ((m.transfers.filter fun t => t.bay == b).length ≥ 256) then .next m
  else
    let qs := sortBy Queue.before (m.queues b)
    match qs.findSome? fun q => match m.queueNext q with
        | some x => if m.mayIssue x then some (q, x) else none
        | none => none with
    | none =>
      .next (m.wakeBays (qs.flatMap fun q => match m.queueNext q with
        | some x => m.sideBays (x.2.1.sides x.2.2.2.2 x.2.2.1 x.2.2.2.1)
        | none => []))
    | some (q, a, w, off, n, tile) => .next (m.issueTransfer b q a w off n tile)

/-- DRY_TIME_AGING (R270): a queue of infinite dry time that has waited 20 µs. -/
def dryTimeAging (b : Nat) (id : CmdId) (m : Mach) : Res :=
  match (m.queues b).find? fun q => (q.copies.head?.map fun x => x.1.cmd.id) == some id with
  | none => cannot "the command heads no queue of the bay"
  | some q =>
    match q.copies.head? with
    | none => .next m
    | some x =>
      if q.dry.isSome || q.turn.isNone then .next m
      else
        let t := x.2.waitedFrom + 20000
        .next ((m.upTo t).ageQueue q (some t) x.2.waitedFrom)

/-! ### Moving bytes (R302, R303, R346, R379) -/

/-- Whether a COPY's host data travels in sealed frames: it then moves whole, with its last transfer. -/
def Mach.sealedCopy (m : Mach) (a : Act) (w : CopyWork) : Bool :=
  (isHost w.src || isHost w.dst) && (m.bounceKeys a.cmd.part).isSome

/-- Bytes as they travel on the armature: the POISON flag of a flit is that of any of its bytes, a flit the 64 bytes of
an aligned part of the source (R302; log entry 126). -/
def flitMarks (a : Nat) (x : Marked) : Marked :=
  x.zipIdx.map fun y => (y.1.1, (List.range 64).any fun k =>
    let j := (a + y.2) / 64 * 64 + k
    decide (a ≤ j) && (x.getD (j - a) (0, false)).2)

/-- Bytes of the source. -/
def Mach.fetchBytes (m : Mach) (p : Nat) (w : CopyWork) (off n : Nat) : Marked × Mach :=
  if isHost w.src then m.hostRead p w.src (w.srcOff + off) n
  else (flitMarks (w.source + off) (m.rdMarked (w.source + off) n), m)

/-- Bytes put at the destination, or at one tile, or at every member of the group. -/
def Mach.putBytes (m : Mach) (p : Nat) (w : CopyWork) (tile : Option Nat) (off : Nat) (x : Marked) : Mach :=
  match tile with
  | some t => m.wrMarked (w.memberAddr t off) x
  | none =>
    if w.multicast then w.members.foldl (fun s t => s.wrMarked (w.memberAddr t off) x) m
    else if isHost w.dst then m.hostWrite p w.dst (w.dstOff + off) x
    else m.wrMarked (w.dest + off) x

/-- A fetch that is complete: its deadline, its counts and its record (R131, R136, R271, R276). A sealed one puts its
bytes now, at dropped tiles too. -/
def finishCopy (m : Mach) (a : Act) (w : CopyWork) : Mach :=
  let p := a.cmd.part
  let x := if m.sealedCopy a w then
      let r := m.fetchBytes p w 0 w.len
      (r.2.putBytes p { w with members := w.group } none 0 r.1, { a with poisoned := a.poisoned || r.1.any (·.2) })
    else (m, a)
  let m := x.1
  let late := match w.deadline with | some d => decide (d < m.now) | none => false
  let m := if w.count ≠ 0 then m.bump O.FETCHES_IN_TIME p 1
    else if late then m.bump O.DEADLINE_MISSES a.cmd.bay 1 else m
  m.endCopy x.2 (if w.lost then rTILELOST else 0) (if w.lost then 0xFF else 0) 0

/-- Whether every byte of a COPY has been written. -/
def Mach.copyDone (m : Mach) (a : Act) (w : CopyWork) : Bool :=
  w.done == w.len && w.dropped.all (fun d => !d.lacks w.len) && !m.transfers.any fun t => decide (t.cmd = a.cmd.id)

def Mach.tryFinishCopy (m : Mach) (id : CmdId) : Mach :=
  match m.act? id with
  | some a => match a.copyWork? with
    | some w => if m.copyDone a w then finishCopy m a w else m
    | none => m
  | none => m

/-! ### The recompute path (R131, R132) -/

/-- A list command starts: it is validated already, and binds counters or moves bytes at once. -/
def Mach.startListed (m : Mach) (id : CmdId) (k : Nat) : Mach :=
  match m.listed.find? fun x => decide (x.cmd.id = { id with sub := k }) with
  | none => m
  | some x =>
    let c := { x.cmd with received := m.now, seed := m.obj O.SR_SEED x.cmd.part }
    let x := { x with cmd := c }
    let m := { m with listed := m.listed.filter fun y => decide (y.cmd.id ≠ c.id) }.wakeBays (m.actBays x)
    match c.opcode with
    | 1 => (m.launchProduct x).failStarted c.id
    | 4 => (m.launchCast x).failStarted c.id
    | 9 => m.launchCopy x
    | _ => (m.launch x).failStarted c.id

/-- Whether a fetch has written a byte: at its destination or at the members of its group, or, with a tile named, at a
dropped one. Of the transfers outstanding nothing arrives. -/
def CopyWork.wrote (w : CopyWork) (out : List Transfer) (o : Nat) : Bool :=
  decide (o < w.issued) && !out.any fun t => t.member.isNone && decide (t.offset ≤ o ∧ o < t.offset + t.len)

def CopyWork.wroteLate (w : CopyWork) (out : List Transfer) (d : Dropped) (o : Nat) : Bool :=
  decide (o < d.next) && (!d.owed.any fun s => decide (s ≤ o ∧ o < s + w.piece s)) &&
    !out.any fun t => t.member == some d.tile && decide (t.offset ≤ o ∧ o < t.offset + t.len)

/-- Whether a fetch has written a sector of an SRAM destination. -/
def CopyWork.wroteSector (w : CopyWork) (out : List Transfer) (s : Nat) : Bool :=
  let at_ := fun (b : Nat) (f : Nat → Bool) => decide (b ≤ s * 32 ∧ s * 32 < b + w.len) && f (s * 32 - b)
  if w.multicast then
    w.members.any (fun t => at_ (w.memberAddr t 0) (w.wrote out)) ||
      w.dropped.any fun d => at_ (w.memberAddr d.tile 0) (w.wroteLate out d)
  else at_ w.dest (w.wrote out)

/-- The switch at the deadline (R131): the fetch stops, the sectors it wrote of an SRAM destination are cleared, and
the list starts. What the fetch raised goes with it (R132). -/
def Mach.switchToList (m : Mach) (a : Act) (w : CopyWork) : Mach :=
  let out := m.transfers.filter fun t => decide (t.cmd = a.cmd.id)
  let m := { m with transfers := m.transfers.filter fun t => decide (t.cmd ≠ a.cmd.id) }
  let e := bayEngine a.cmd.bay 7
  let m := if (m.engine e).run.map (·.id) = some a.cmd.id then m.stopRun e else m
  let m := if isTile w.dst || tierOf w.dst == some .cluster then m.invalidate (w.wroteSector out) else m
  let m := m.setCopy { a with flg := .none, poisoned := false } { w with running := 1, subEnd := none }
  (m.startListed a.cmd.id 1).countThrottle a.cmd.part

/-- RECOMPUTE_SWITCH (R131). -/
def recomputeSwitch (id : CmdId) (m : Mach) : Res :=
  match m.act? id with
  | none => cannot "no such command runs"
  | some a =>
    match a.copyWork? with
    | none => cannot "the command fetches nothing"
    | some w =>
      match w.deadline with
      | none => cannot "the COPY has no deadline"
      | some d => if w.count = 0 then .next m else .next ((m.upTo d).switchToList a w)

/-- RECOMPUTE_NEXT (R131, R132). -/
def recomputeNext (id : CmdId) (m : Mach) : Res :=
  match m.act? id with
  | none => cannot "no such command runs"
  | some a =>
    match a.work with
    | .copying w =>
      match w.subEnd with
      | none => .next m
      | some r =>
        if 1 ≤ r.1 ∧ r.1 < 0x80 then
          let d := listedFault r
          .next (m.endCopy a d.1 d.2 0)
        else if w.running < w.count then
          .next ((m.setCopy a { w with running := w.running + 1, subEnd := none }).startListed id (w.running + 1))
        else if w.lost then .next (m.endCopy a rTILELOST 0xFF 0)
        else .next ((m.bump O.RECOMPUTES a.cmd.part 1).endCopy a 0x82 0 (sat32 w.done))
    | _ => cannot "the command is not a COPY"

/-- The bytes of a transfer are written and counted, and a COPY whose last one they are completes. -/
def Mach.landTransfer (m : Mach) (t : Transfer) (a : Act) (w : CopyWork) : Mach :=
  let p := a.cmd.part
  let x := if m.sealedCopy a w then (([] : Marked), m) else m.fetchBytes p w t.offset t.len
  let m := x.2.putBytes p w t.member t.offset x.1
  let n := t.len * (if w.multicast && t.member.isNone then w.members.length else 1)
  let m := (m.spendFree (bayEngine t.bay 7) n).bump O.DMA_BYTES t.bay n
  let a := { a with poisoned := a.poisoned || x.1.any (·.2) }
  let m := m.setCopy a (if t.member.isNone then { w with done := w.done + t.len } else w)
  m.tryFinishCopy t.cmd

/-- TRANSFER_DONE (R269): the destination write of a transfer is acknowledged. A write after the deadline of
a COPY with an alternative is not made: the switch has come first (R131). -/
def transferDone (b ticket : Nat) (errs : List ReadErr) (m : Mach) : Res :=
  match m.transfers.find? fun t => t.bay == b && t.ticket == ticket with
  | none => cannot "no such transfer is outstanding"
  | some t =>
    match m.act? t.cmd with
    | none => cannot "a transfer without its command"
    | some a =>
      match a.copyWork? with
      | none => cannot "a transfer of a COPY that fetches nothing"
      | some w =>
        if !m.issues b then .next m
        else if w.count ≠ 0 && (match w.deadline with | some d => decide (d < m.now) | none => false) then
          .next (m.switchToList a w)
        else
          let m := m.takeReads errs (if isHost w.src then [] else [(w.source + t.offset, t.len)])
          .next (({ m with
            transfers := m.transfers.filter fun x => !(x.bay == b && x.ticket == ticket) }.landTransfer t a w).countThrottle
              a.cmd.part)

/-- MULTICAST_DROP (R276): the lag of a member has stood at its limit for 2,000 ns. It lacks the bytes of the transfers
outstanding now and all that follow. -/
def multicastDrop (id : CmdId) (tile : Nat) (m : Mach) : Res :=
  match m.act? id with
  | none => cannot "no such command runs"
  | some a =>
    match a.copyWork? with
    | none => cannot "the command fetches nothing"
    | some w =>
      if !w.members.contains tile then cannot "the tile is no member of the group"
      else if !(w.multicast && decide (w.issued < w.len) && w.held none (w.piece w.issued)) then .next m
      else
        let m := (m.upTo (w.waitedFrom + 2000)).bump O.MC_DROPS a.cmd.part 1
        let owed := (m.transfers.filter fun t => decide (t.cmd = id) && t.member.isNone).map (·.offset)
        .next (m.setCopy a { w with
          members := w.members.filter (· != tile), dropped := w.dropped ++ [(⟨tile, owed, w.issued⟩ : Dropped)] })

/-- A fenced tile leaves every group, and every COPY that names its store loses it (R276, R440). -/
def Mach.copiesLose (m : Mach) (tile : Nat) : Mach :=
  let ids := m.acts.filterMap fun a => match a.work with
    | .copying w => if w.namesTile tile then some a.cmd.id else none
    | _ => none
  let m := { m with
    acts := m.acts.map fun a => match a.work with
      | .copying w => if w.namesTile tile then
          { a with work := .copying { w with
            lost := true
            members := w.members.filter (· != tile)
            dropped := w.dropped.filter fun d => d.tile != tile } } else a
      | _ => a
    transfers := m.transfers.filter fun t => decide (t.member ≠ some tile) }
  ids.foldl Mach.tryFinishCopy m

/-! ### DUMP (R463 to R465) -/

def validateDump (m : Mach) (c : Cmd) : Chk Act := do
  let hs ← readHandles m c (handleFields c)
  let s ← mustHave hs c 32
  let d ← mustHave hs c 36
  let sa := s.at_ c.problem
  need (!isHost sa) rFIELD 32
  need (s.bytes != 0 && s.bytes % 32 == 0) rFIELD 32
  need (isHost (d.at_ c.problem)) rFIELD 36
  need (m.belongs c.part sa s.bytes) rPARTITION 32
  need (m.endBelongs c.part (d.at_ c.problem) 0 d.bytes) rPARTITION 36
  need (decide (64 + s.bytes ≤ d.bytes)) rBOUND 36
  need (!m.inHole sa) rTILELOST 0xFF
  pure { Act.of c .items with handles := hs }

/-- The dump header (R464). -/
def dumpHeader (m : Mach) (c : Cmd) (s : Handle) (fmtByte poisoned : Nat) : Bytes :=
  asciiBytes "KRLD" ++ leBytes 4 s.tensor ++ leBytes 6 c.step ++ leBytes 3 c.problem ++ leBytes 1 fmtByte ++
    leBytes 2 c.layer ++ leBytes 2 c.operator ++ leBytes 1 c.part ++ leBytes 1 0 ++ leBytes 8 s.bytes ++
    leBytes 8 (s.at_ c.problem) ++ leBytes 8 m.now ++ leBytes 4 (sat32 poisoned) ++ zerosB 12

/-- Sectors of 32 bytes with a poisoned byte. -/
def poisonedSectors (x : Marked) : Nat :=
  ((List.range (x.length / 32)).filter fun i => ((x.drop (32 * i)).take 32).any (·.2)).length

/-- The bytes of a dump and its header into host memory: the data, then the header. A sealed dump is one run of
frames; in plaintext each transfer is a posted write of its own (R269, R346). -/
def Mach.writeDump (m : Mach) (c : Cmd) (sa base : Nat) (header data : Marked) : Mach :=
  if (m.bounceKeys c.part).isSome then m.hostWrite c.part base 0 (header ++ data)
  else
    let cuts := splitAt 256 (data.length + 1) sa (data.map (·.1))
    let m := cuts.foldl (fun s x => s.hostWrite c.part base (64 + (x.1 - sa)) ((data.drop (x.1 - sa)).take x.2.length)) m
    m.hostWrite c.part base 0 header

/-- A validated DUMP made and completed. -/
def Mach.makeDump (m : Mach) (c : Cmd) (a : Act) : Mach :=
  let s := a.handleAt 32
  let sa := s.at_ c.problem
  let data := m.rdMarked sa s.bytes
  let h := (dumpHeader m c s (m.rdNat (m.obj O.HANDLE_TABLE c.part + c.f 32 4 * 64 + 4) 1) (poisonedSectors data)).map
    fun b => (b, false)
  let e := bayEngine c.bay 7
  let m := ((m.launch a).startUnit e c 0).writeDump c sa ((a.handleAt 36).at_ c.problem) h data
  let n := (splitAt 256 (data.length + 1) sa (data.map (·.1))).length
  let m := (m.endBlocks e (n + 1) (64 + s.bytes)).bump O.DMA_BYTES c.bay (64 + s.bytes)
  m.endCopy { a with poisoned := data.any (·.2) } 0 0 0

/-- DUMP. -/
def dumpRow (id : CmdId) (errs : List ReadErr) (m : Mach) : Res :=
  descRow (12, 0) id errs (fun c m =>
    match validateDump m c with
    | .error e => .next (m.refuseChecked c e)
    | .ok a =>
      let sa := (a.handleAt 32).at_ c.problem
      let side := [(sa, (a.handleAt 32).bytes)]
      if !m.linkUp then .next (m.linkFault c 36)
      else if !m.issues c.bay || !m.endsReady side then .next (m.wakeBays (m.actBays a))
      else .next ((m.touch errs side).makeDump c a)) m

/-! ### Placement (R258 to R262) -/

/-- Clusters and tiles of a partition. -/
def Mach.partUnits (m : Mach) (p per : Nat) : List Nat :=
  (m.part p).bays.flatMap fun b => (List.range per).map (b * per + ·)

/-- Tables that count against Q_MODULE while enabled: address and bytes (R262). -/
def Mach.tables (m : Mach) (p : Nat) : List (Nat × Nat) :=
  ((if m.obj O.SCALE_ENABLE p = 1 then [(m.obj O.SCALE_TABLE p, 128 * m.obj O.SCALE_ENTRIES p)] else []) ++
    [(m.obj O.HANDLE_TABLE p, 64 * m.obj O.HANDLE_ENTRIES p)] ++
    (if m.obj O.LAYER_TABLE p ≠ 0 then [(m.obj O.LAYER_TABLE p, 32 * 65536)] else []) ++
    (if m.obj O.PLACE_ENABLE p = 1 then [(m.obj O.PLACE_TABLE p, 32 * m.obj O.PLACE_ENTRIES p)] else [])).filter
      fun r => decide (0 < r.2)

/-- The copies of an object in module memory: base address and length. -/
def Mach.copiesOf (m : Mach) (o : Placed) : List (Nat × Nat) :=
  if o.every then (m.part o.part).bays.map fun b => (b * 2 ^ 36 + o.base % 2 ^ 36, o.len) else [(o.base, o.len)]

def Mach.insidePlaced (m : Mach) (a n : Nat) : Bool :=
  m.placed.any fun o => (o.tier == 3 || o.tier == 4) && (m.copiesOf o).any fun r =>
    decide (r.1 ≤ a ∧ a + n ≤ r.1 + r.2)

/-- Copies of an object by tier. -/
def Mach.copyCount (m : Mach) (p tier : Nat) (every : Bool) : Nat :=
  if every then (m.part p).bays.length * (if tier = 1 then 640 else if tier = 2 then 10 else 1) else 1

/-- Bytes a partition has placed in a tier (R262). -/
def Mach.usage (m : Mach) (p tier : Nat) : Nat :=
  let os := m.placed.filter fun o => o.part == p && (o.tier == tier || (tier == 4 && o.tier == 3))
  let n := (os.map fun o => o.len * m.copyCount p o.tier o.every).foldl (· + ·) 0
  if tier = 4 then n + (((m.tables p).filter fun r => !m.insidePlaced r.1 r.2).map (·.2)).foldl (· + ·) 0 else n

def quotaObj (tier : Nat) : Nat :=
  if tier = 1 then O.Q_TILE else if tier = 2 then O.Q_CLUSTER else if tier = 3 then O.Q_LENT
  else if tier = 4 then O.Q_MODULE else O.Q_HOST

/-- A quota of all ones is no limit. -/
def Mach.inQuota (m : Mach) (p tier n : Nat) : Bool :=
  m.obj (quotaObj tier) p == 2 ^ 64 - 1 || decide (m.usage p tier + n ≤ m.obj (quotaObj tier) p)

/-- Offsets taken in a unit of a tier: tile stores alike, a cluster, a package, or a host window. -/
def Mach.taken (m : Mach) (p tier unit : Nat) : List (Nat × Nat) :=
  let os := m.placed.filter fun o => o.part == p &&
    (o.tier == tier || ((tier == 3 || tier == 4) && (o.tier == 3 || o.tier == 4)))
  let objs := os.filterMap fun o =>
    if tier = 5 then
      let w := (m.hostWindows p).getD unit (0, 0)
      if w.1 ≤ addrOff o.base ∧ addrOff o.base < w.1 + w.2 then some (addrOff o.base - w.1, o.len) else none
    else if o.every || addrUnit o.base == unit then some (addrOff o.base, o.len) else none
  let tabs := if tier = 3 ∨ tier = 4 then
      (m.tables p).filterMap fun r => if addrBay r.1 = unit then some (addrOff r.1, r.2) else none
    else []
  let trace := if tier = 2 ∧ m.traceOn ∧ unit % 10 < 8 then [(0x180000, 0x80000)] else []
  objs ++ tabs ++ trace

def roundUp (n a : Nat) : Nat := (n + a - 1) / a * a

/-- The lowest aligned offset where a length fits (R259). -/
def lowestFit (taken : List (Nat × Nat)) (len align limit : Nat) : Option Nat :=
  let cs := 0 :: taken.map fun r => roundUp (r.1 + r.2) align
  let ok := cs.filter fun c => decide (c + len ≤ limit) && taken.all fun r => !rangesOverlap c len r.1 r.2
  ok.foldl (fun a c => match a with | some b => some (min b c) | none => some c) none

/-- The base a tier gives an object, or why it gives none (R259, R260, R262). -/
def Mach.place (m : Mach) (p tier len home : Nat) (every : Bool) : Except Nat (Nat × Nat) :=
  let align := if tier = 3 then 32768 else 1024
  let size := roundUp len align
  let n := size * m.copyCount p tier every
  let bays := (m.part p).bays
  let homeOk := every || tier == 5 || (if tier = 2 then smem bays (home / 10) else smem bays home)
  if !homeOk then .error rPARTITION
  else if !m.inQuota p tier n || (tier == 3 && !m.inQuota p 4 n) then .error rQUOTA
  else if tier = 5 then
    let ws := (m.hostWindows p).zipIdx
    match ws.findSome? fun w =>
        (lowestFit (m.taken p 5 w.2) size align w.1.2).map fun o => (hostAddr (w.1.1 + o), size) with
    | some r => .ok r
    | none => .error rRESOURCE
  else
    let units := if tier = 1 then [0] else if !every then [home] else if tier = 2 then m.partUnits p 10 else bays
    let limit := if tier = 1 then 196608 else if tier = 2 then 2 ^ 21 else 2 ^ 36
    match lowestFit (units.flatMap (m.taken p tier)) size align limit with
    | none => .error rRESOURCE
    | some o =>
      let b := bays.headD 0
      .ok (if tier = 1 then tileAddr (b * 640) o
        else if tier = 2 then clusterAddr (if every then b * 10 else home) o
        else (if every then b else home) * 2 ^ 36 + o, size)

/-- The tiers tried for a class (R260). -/
def classOrder (cls : Nat) : List Nat :=
  match cls with
  | 1 => [2, 4]
  | 2 => [1, 2, 3, 4]
  | 3 => [2, 4]
  | 4 => [4]
  | 5 => [5]
  | 6 => [4]
  | _ => []

/-- Tiers tried in turn; the failure of the last one stands. -/
def Mach.placeFirst (m : Mach) (p len home : Nat) (every : Bool) : List Nat → Nat → Except Nat (Nat × Nat × Nat)
  | [], e => .error e
  | t :: r, _ =>
    match m.place p t len home every with
    | .ok x => .ok (t, x.1, x.2)
    | .error e => m.placeFirst p len home every r e

/-- An entry's fields (R258, R259). -/
def entryFieldsOk (e : Bytes) : Bool :=
  let cls := fld e 4 1
  let hint := fld e 5 1
  let every := fld e 6 1 == 1
  let mir := (fld e 7 1).testBit 0
  let len := fld e 8 8
  decide (1 ≤ cls ∧ cls ≤ 6 ∧ hint ≤ 5 ∧ fld e 6 1 ≤ 1 ∧ fld e 7 1 < 4 ∧ 32 ≤ len ∧ len ≤ 2 ^ 36) &&
    (!every || fld e 16 2 == 0) && fld e 30 2 == 0 &&
    !(hint == 1 && !every) && !(every && (hint == 5 || (hint == 0 && cls == 5))) &&
    (!mir || hint == 4 || (hint == 0 && (classOrder cls).head? == some 4))

/-- DIRTY bits of lines that lie in no mirrored object any more are gone with it (R263). -/
def Mach.pruneDirty (m : Mach) : Mach :=
  { m with
    dirty := m.dirty.filter m.isMirrored
    pair := { m.pair with
      queue := m.pair.queue.filter m.isMirrored
      sweepLeft := m.pair.sweepLeft.filter m.isMirrored } }

/-- A released object's ranges are freed; lent pieces are given up without write-back, and DIRTY bits with it (R261,
R263). -/
def Mach.unplace (m : Mach) (o : Placed) : Mach :=
  let homes := m.copiesOf o
  Mach.pruneDirty { m with
    placed := m.placed.filter fun x => decide (x ≠ o)
    lent := if o.tier = 3 then
        m.lent.filter fun l => !homes.any fun r => decide (r.1 ≤ l.home ∧ l.home < r.1 + r.2)
      else m.lent }

/-- The results of an entry: STATE, RESULT, BASE and TIER, bytes 18 to 28. -/
def Mach.writeEntry (m : Mach) (ad state result base tier : Nat) : Mach :=
  m.wr (ad + 18) (leBytes 1 state ++ leBytes 1 result ++ leBytes 8 base ++ leBytes 1 tier) false

/-- PLACE_COMMIT of entry `v` (R261): the reason code is the write's answer and the entry's RESULT. A number outside
its range is refused first (R282). -/
def Mach.placeEntry (m : Mach) (p v : Nat) : Mach × Nat :=
  if m.obj O.PLACE_ENTRIES p ≤ v then (m, rFIELD)
  else if m.obj O.PLACE_ENABLE p ≠ 1 then (m, rSTATE)
  else
    let ad := m.obj O.PLACE_TABLE p + 32 * v
    let e := m.rd ad 32
    let old := m.placed.find? fun o => o.part == p && o.entry == v
    let keep := fun (s r : Nat) => m.wr (ad + 18) (leBytes 1 s ++ leBytes 1 r) false
    if m.rdPoison ad 32 then (m, rPOISON)
    else if !entryFieldsOk e then (keep (if old.isSome then 1 else 2) rFIELD, rFIELD)
    else if (fld e 7 1).testBit 1 then
      match old with
      | some o => ((m.unplace o).writeEntry ad 0 0 0 0, 0)
      | none => (keep 2 rSTATE, rSTATE)
    else
      match old with
      | some _ => (keep 1 rSTATE, rSTATE)
      | none =>
        let every := fld e 6 1 == 1
        let hint := fld e 5 1
        let tiers := if hint ≠ 0 then [hint] else (classOrder (fld e 4 1)).filter fun t => every || t != 1
        match m.placeFirst p (fld e 8 8) (fld e 16 2) every tiers rRESOURCE with
        | .error r => (m.writeEntry ad 2 r 0 0, r)
        | .ok (t, base, len) =>
          let m := { m with placed := m.placed ++ [(⟨p, v, t, base, len, every, (fld e 7 1).testBit 0⟩ : Placed)] }
          -- a tile-store object over bound pieces has them revoked first (R264)
          let m := if t = 1 then
              m.revokeWhere fun l => l.part == p && rangesOverlap (base % 2 ^ 18) len (l.piece * 32768) 32768
            else m
          (m.writeEntry ad 1 0 base t, 0)

end Sys2Proof.Machine
end

