-- ==== Sys2Proof/Machine/Protect.lean ====
section
/-! DEFINITION. Stored-data protection: scrub, write-backs and retirement (R286 to R310), and a
module-memory line as its nine dies store it (R290 to R294). -/

namespace Sys2Proof.Machine

open Sys2Proof

/-- A bay that has failed, in service or at start (R25, R406). -/
def Mach.outOfService (m : Mach) (b : Nat) : Bool := (m.bay b).power == .failed

/-- Whether a bay's sequencer and its memory controller run: in RUN, in every bay but a FAILED one (R24, R28, R404,
R405). -/
def Mach.sequencerRuns (m : Mach) (b : Nat) : Bool := m.modState == .run && !m.outOfService b

/-! ### Scrub and write-backs -/

/-- Lines of a package. -/
def packageLines : Nat := 2 ^ 28

def Mach.isStale (m : Mach) (l : Nat) : Bool :=
  (m.lineMeta l).epoch != 0 && (m.lineMeta l).epoch != m.epochOf l

/-- The next line of a pass; its end counts, and CRC counting for retirement starts again (R306). -/
def Mach.advanceScrub (m : Mach) (b : Nat) : Mach :=
  let y := m.bay b
  if y.scrubNext + 1 < packageLines then m.setBay b { y with scrubNext := y.scrubNext + 1 }
  else (m.setBay b { y with scrubNext := 0, crcPeriod := List.replicate 9 0 }).bump O.SCRUB_PASSES b 1

/-- SCRUB_LINE (R306): patrol scrub reads the next line of its package. -/
def scrubLine (b : Nat) (o : LineObs) (m : Mach) : Res :=
  if m.obj O.SCRUB_ENABLE 0 ≠ 1 ∨ !m.sequencerRuns b then .next m
  else
    let l := b * packageLines + (m.bay b).scrubNext
    let stale := m.isStale l
    let m := m.readLine { o with addr := l * 256 } 2
    let m := if stale && (mget m.writeBacks l).isNone then { m with writeBacks := mset m.writeBacks l .blank } else m
    .next (m.advanceScrub b)

/-- LINE_WRITE_BACK (R300): a later write has already taken the entry away. -/
def lineWriteBack (l : Nat) (m : Mach) : Res :=
  match (if m.sequencerRuns (l / packageLines) then mget m.writeBacks l else none) with
  | none => .next m
  | some w =>
    let m := { m with writeBacks := mdel m.writeBacks l }
    match w with
    | .corrected => .next m
    | .poison => .next { m with
        mem := Memory.setAll m.mem (l * 256) (zerosB 256), lines := mset m.lines l ⟨m.epochOf l, 0xA0, m.lineKey l⟩ }
    | .blank => .next { m with mem := Memory.setAll m.mem (l * 256) (zerosB 256), lines := mdel m.lines l }

/-- SRAM_WRITE_BACK (R287). -/
def sramWriteBack (addr : Nat) (m : Mach) : Res :=
  if m.sequencerRuns (addrBay addr) then .next { m with sramBacks := sdel m.sramBacks (addr / 8 * 8) } else .next m

/-- A write of DIE_RETIRED (R301, R309). The error-log entry of a commanded retirement has no read behind
it: its SOURCE and ADDRESS are free values (log entry 23). -/
def Mach.retireDie (m : Mach) (b v : Nat) : Mach × Nat :=
  let old := maskOf (m.bay b).retired
  let added := (List.range 9).filter fun k => v.testBit k && !old.testBit k
  if v ≥ 512 then (m, rFIELD)
  else if (List.range 9).any fun k => old.testBit k && !v.testBit k then (m, rSTATE)
  else
    match added with
    | [] => (m, 0)
    | [k] =>
      if old ≠ 0 then (m, rSTATE)
      else
        let s := m.free
        let lo := s.2.free
        let hi := lo.2.free
        ((hi.2.setBay b { m.bay b with retired := [k] }).logError 5 b (2 ^ k) (s.1 % 256) (lo.1 + 2 ^ 32 * hi.1), 0)
    | _ => (m, rSTATE)

/-- CLEAR_COUNTS (R308): every counter of R309, and the error log. -/
def Mach.clearCounts (m : Mach) : Mach :=
  let counters := (List.range 16).flatMap fun b =>
    ((List.range 9).map fun k => (0x6030 + b * 256) * 256 + 1 + k) ++
      (List.range 9).map fun k => (0x6030 + b * 256) * 256 + 0x10 + k
  { m with errorLog := [], dict := counters.foldl mdel m.dict }.setObj O.ERROR_LOG_NEXT 0 0

/-- ERROR_LOG as it reads (R310). -/
def Mach.errorLogBytes (m : Mach) : Bytes := (List.range 16).flatMap fun i => mgetD m.errorLog i (zerosB 32)

/-! ### What the dies hold (R290 to R294) -/

/-- One bit of the CRC-16 of R291. -/
def crc16Bit (c : Nat) : Nat := if c ≥ 2 ^ 15 then Nat.xor (c * 2 % 2 ^ 16) 0x8BB7 else c * 2 % 2 ^ 16

/-- The CRC-16 of a byte string: polynomial 0x8BB7, initial value 0, no reflection. -/
def crc16 (b : Bytes) : Nat :=
  b.foldl (fun c x => (List.range 8).foldl (fun y _ => crc16Bit y) (Nat.xor c (x.toNat * 256))) 0

/-- A column with its metadata: 32 bytes, and CRC and TAG_PART, or on the check die CRC, STATE and EPOCH. -/
structure Column where
  data : Bytes
  crc : Nat
  low : Nat
  deriving DecidableEq, Repr

/-- The CRC of column `k` of a line (R291). -/
def columnCrc (l k state epoch : Nat) (data : Bytes) : Nat :=
  crc16 (data ++ (if k = 8 then leBytes 1 state ++ leBytes 1 epoch else []) ++ leBytes 5 (l * 256) ++ leBytes 1 k)

/-- The check column: the exclusive-or of the eight data columns (R292). -/
def checkColumn (cols : List Bytes) : Bytes :=
  (List.range 32).map fun i => cols.foldl (fun (x : Byte) c => x ^^^ c.getD i 0) 0

/-- The ciphertext of a line, and the 128-bit tag over it (R294). -/
def sealLine (key l epoch state : Nat) (plain : Bytes) : Bytes × Bytes :=
  let c := Config.xtsSeal key (l * 256 % 2 ^ 40 + epoch * 2 ^ 40) plain
  (c, Config.kmac256 (key + 1) (asciiBytes "KRL LINE")
    (leBytes 5 (l * 256) ++ leBytes 1 epoch ++ leBytes 1 state ++ [0] ++ bytesAt c 0 256))

/-- The nine columns of a line as stored (R290 to R296), under the session key it was written with: a blank line is
zeros with tag parts of zero. -/
def Mach.storedLine (m : Mach) (l : Nat) : List Column :=
  let x := m.lineMeta l
  let plain := (List.range 256).map fun i => Memory.get m.mem (l * 256 + i)
  let s := if x.epoch = 0 then (zerosB 256, zerosB 16) else sealLine x.key l x.epoch x.state plain
  let cols := (List.range 8).map fun k => bytesAt s.1 (32 * k) 32
  let chk := checkColumn cols
  (cols.zipIdx.map fun c => ⟨c.1, columnCrc l c.2 0 0 c.1, fld s.2 (2 * c.2) 2⟩) ++
    [⟨chk, columnCrc l 8 x.state x.epoch chk, x.epoch + 256 * x.state⟩]

end Sys2Proof.Machine
end

