-- ==== Sys2Proof/Machine/View.lean ====
section
/-! DEFINITION. What a reader of the dictionary sees (R318, R387, R388): the values of objects that the module
computes from its state, as each path sees them; DESCRIBE (R329); the answers and where they go (R325,
R328, R330). -/

namespace Sys2Proof

/-! ### Paths (R318) -/

/-- The partition a path serves: that of its VF. -/
def Path.part? : Path → Option Nat
  | .vf n => some (n - 1)
  | _ => none

def Path.isMgmt : Path → Bool
  | .umpor _ _ _ => true
  | _ => false

/-- The function whose mailbox a host path is: 0 for PF0, n for VFn. -/
def Path.fn : Path → Nat
  | .vf n => n
  | _ => 0

end Sys2Proof

namespace Sys2Proof.Machine

open Sys2Proof

/-- The bays a path sees (R387). -/
def Mach.viewBays (m : Mach) (p : Path) : List Nat :=
  match p.part? with
  | some q => (m.part q).bays
  | none => List.range 16

/-! ### Codes -/

def PState.code : PState → Nat
  | .absent => 0 | .keying => 1 | .active => 2 | .failed => 3

def BayPower.code : BayPower → Nat
  | .run => 0 | .idle => 1 | .sleep => 2 | .off => 3 | .failed => 4

def ModState.code : ModState → Nat
  | .off => 0 | .start => 1 | .run => 2 | .standby => 3

def PairState.code : PairState → Nat
  | .unpaired => 0 | .handshake => 1 | .resync => 2 | .paired => 3 | .broken => 4

/-! ### Caps (R415) -/

/-- A figure in thousandths of its unit, to the nearest (log entry 24). -/
def milli (code : Nat) : Nat :=
  match dec32 code with
  | .fin false n d => (2 * 1000 * n + d) / (2 * d)
  | _ => 0

/-- The FP32 code of a number of thousandths. -/
def ofMilli (x : Nat) : Nat := (rne32 (.fin false x 1000) Flg.none).1

/-- The cap of R415, in milliwatts. -/
def Mach.capMw (m : Mach) : Nat :=
  ((m.firedRules 3).map fun r => r.arg * 1000).foldl min (min (milli (m.obj O.POWER_CAP 0)) m.plinth.thermalMw)

/-! ### Coarsened readings (R388) -/

/-- Readings of power, energy and current, and of voltage, by the code they are kept under: the input codes
of R400, 0x80 + b for BAY_POWER, 0x90 for ENERGY. -/
def readingOf (o i : Nat) : Option Nat :=
  if o = O.INPUT_VOLTAGE then some 0x60
  else if o = O.INPUT_CURRENT then some 0x61
  else if o = O.INPUT_POWER then some 0x62
  else if o = O.ENERGY then some 0x90
  else if o / 256 = 0x1101 then some (o % 256 - 1)
  else if o / 256 = 0x1102 then some (0x20 + o % 256 - 1)
  else if o = O.BAY_POWER then some (0x80 + i)
  else none

/-- A coarsened reading on a host path. Through a VF only BAY_POWER, and INPUT_POWER as its sum, show. -/
def Mach.coarse (m : Mach) (p : Path) (k : Nat) : Nat :=
  let at_ := fun (k : Nat) => mgetD m.plinth.lastWindow k 0
  match p.part? with
  | none => at_ k
  | some _ =>
    if 0x80 ≤ k ∧ k < 0x90 then at_ k
    else if k = 0x62 then ofMilli (((m.viewBays p).map fun b => milli (at_ (0x80 + b))).foldl (· + ·) 0)
    else 0

/-! ### Numerics and counters by view (R54, R447, R469) -/

def numericsBlob (g : Engine) : Nat := g.flags + g.sats * 2 ^ 32 + g.firstFault * 2 ^ 128

def Counts.bytes (c : Counts) : Bytes :=
  leBytes 8 c.busy ++ leBytes 8 c.work ++ leBytes 8 c.stalls ++ leBytes 8 c.gated ++ leBytes 8 c.sat

/-- The view of R447; an engine of a hole reads zeros (R442). -/
def Mach.counterView (m : Mach) (e : Nat) : Bytes :=
  if engineKind e ≤ 3 && m.isHole (engineTile e) then zerosB 128
  else
    let g := m.engine e
    g.live.bytes ++ g.beginLatch.bytes ++ g.endLatch.bytes ++ leBytes 4 g.runCommandId ++ leBytes 4 g.units

/-- An engine a path may look at. -/
def Mach.seesEngine (m : Mach) (p : Path) (e : Nat) : Bool := (m.viewBays p).contains (engineBay e)

/-- NUM_SUMMARY: each flag of a bay the OR over its engines. -/
def Mach.numSummary (m : Mach) (p : Path) : Nat :=
  m.engines.foldl (fun a g => if m.seesEngine p g.1 then a ||| g.2.flags * 2 ^ (4 * engineBay g.1) else a) 0

/-- A sum over a bay's engines. -/
def Mach.sumEngines (m : Mach) (b : Nat) (f : Nat → Engine → Nat) : Nat :=
  sat64 ((m.engines.filter fun g => engineBay g.1 == b).foldl (fun a g => a + f g.1 g.2) 0)

def Mach.bayCounter (m : Mach) (b sub : Nat) : Nat :=
  if sub ≤ 5 then m.sumEngines b fun e g => if engineKind e + 1 = sub then g.live.work else 0
  else if sub = 6 then m.sumEngines b fun _ g => g.live.stalls
  else m.sumEngines b fun _ g => g.live.gated

/-- A module-wide counter that sums over bays. -/
def Mach.sumBays (m : Mach) (p : Path) (f : Nat → Nat) : Nat :=
  sat64 (((m.viewBays p).map f).foldl (· + ·) 0)

/-! ### Identity (R316, R381, R382) -/

def hash256 (b : Bytes) : Bytes := Config.shake256 b 32

/-- ROM_MEASUREMENT. -/
def romMeasurement : Bytes := bytesAt (Config.shake256 Config.bootRoms 64) 0 64

/-- FW_MEASUREMENT: zeros until an image is verified. -/
def Mach.fwMeasurement (m : Mach) : Bytes :=
  if m.start.fw.isEmpty then zerosB 64 else bytesAt (Config.shake256 m.start.fw 64) 0 64

/-- Seeds of the identity and alias keys. -/
def Mach.dikSeed (m : Mach) : Bytes :=
  Config.shake256 (asciiBytes "KRL IDENTITY" ++ leBytes 32 m.start.fuses.identitySeed) 32
def Mach.akSeed (m : Mach) : Bytes :=
  Config.shake256 (asciiBytes "KRL ALIAS" ++ leBytes 32 m.start.fuses.identitySeed ++ romMeasurement ++
    m.fwMeasurement) 32

/-- The fuses have been read in this start. -/
def Mach.fusesRead (m : Mach) : Bool := decide (m.start.fuses ≠ ⟨0, 0, 0, 0, 0, []⟩)

def Mach.identityHash (m : Mach) : Nat :=
  if m.fusesRead then leNat (bytesAt (hash256 (Config.dsaPublic m.dikSeed)) 0 32) else 0

/-! ### Values -/

/-- Holes a path sees, from a first tile, as a bit map (R443). -/
def Mach.holeMap (m : Mach) (p : Path) (first : Nat) : Nat :=
  maskOf ((m.start.holes.filter fun t => decide (first ≤ t ∧ t < first + 5120) &&
    (m.viewBays p).contains (t / 640)).map (· - first))

/-- The error log a path sees. -/
def Mach.errorLogView (m : Mach) (p : Path) : Nat :=
  leNat ((List.range 16).flatMap fun i =>
    let e := mgetD m.errorLog i (zerosB 32)
    if p.part?.isNone || (m.viewBays p).contains (fld e 9 1) then e else zerosB 32)

/-- BAY_OWNER and PT_EXISTS as a path sees them (R387). -/
def Mach.partsSeen (m : Mach) (p : Path) : List Nat :=
  ((match p.part? with | some q => [q] | none => List.range 16) : List Nat).filter fun q => (m.part q).exists_

def Mach.bayOwner (m : Mach) (p : Path) : Nat :=
  leNat ((List.range 16).map fun b => match (m.partsSeen p).find? fun q => smem (m.part q).bays b with
    | some q => BitVec.ofNat 8 q
    | none => 0xFF)

def boolNat (b : Bool) : Nat := if b then 1 else 0

/-! ### Stage reports by view (R387, R428) -/

/-- How a field of DETAIL is made of the figures of the bays. -/
inductive FieldKind where
  | sum | largest | mask
  deriving DecidableEq, Repr

/-- The fields of a stage's DETAIL that bays add to: offset in the report, bytes, and how. -/
def bayFields (stage : Nat) : List (Nat × Nat × FieldKind) :=
  match stage with
  | 2 => [(16, 2, .sum)]
  | 3 => [(16, 4, .sum), (20, 2, .sum), (22, 1, .sum), (24, 2, .mask)]
  | 4 => [(16, 2, .sum), (18, 2, .sum), (20, 2, .sum), (22, 1, .sum), (24, 2, .mask)]
  | 5 => [(16, 4, .sum), (20, 2, .sum), (22, 2, .sum), (24, 4, .largest)]
  | 6 => [(16, 2, .sum), (18, 2, .mask), (20, 4, .largest)]
  | 9 => [(16, 2, .sum), (18, 2, .mask)]
  | _ => []

/-- A field of DETAIL over some bays, from figure `i` of each; a count stops at its largest value. -/
def Mach.bayField (m : Mach) (stage : Nat) (bays : List Nat) (i : Nat) (x : Nat × Nat × FieldKind) : Bytes :=
  let v := fun (b : Nat) => (mgetD m.start.figures (stage * 32 + b) []).getD i 0
  leBytes x.2.1 (min (256 ^ x.2.1 - 1) (match x.2.2 with
    | .sum => (bays.map v).foldl (· + ·) 0
    | .largest => (bays.map v).foldl max 0
    | .mask => maskOf (bays.filter fun b => v b != 0)))

/-- A report with those fields over some bays. -/
def Mach.overBays (m : Mach) (stage : Nat) (bays : List Nat) (r : Bytes) : Bytes :=
  ((bayFields stage).zipIdx).foldl (fun r x => patch r x.1.1 (m.bayField stage bays x.2 x.1)) r

/-- A stage report as a path sees it: through a VF, over the partition's bays. -/
def Mach.reportView (m : Mach) (p : Path) (stage : Nat) : Option Nat :=
  match p.part? with
  | none => none
  | some q => some (leNat (m.overBays stage (m.part q).bays (leBytes 32 (m.objAt 0x1401 (stage + 1)))))

/-- The value of an object the module computes from its state, on a path; none where the object is held. -/
def Mach.derived (m : Mach) (p : Path) (o i : Nat) : Option Nat :=
  let c := o / 256
  let sub := o % 256
  if c = 0x1000 then
    if o = O.SERIAL then some m.start.fuses.serial
    else if o = O.EUI48 then some m.start.fuses.eui48
    else if o = O.SLOT_ID then some m.plinth.slotId
    else if o = O.ROM_VERSION then some Config.romVersion.toNat
    else if o = O.FW_VERSION then some (fld m.start.fw 4 4)
    else if o = O.MODULE_TIME then some m.now
    else none
  else if c = 0x1010 then
    if o = O.PLCA_NODE then some (m.plinth.slotId + 1) else none
  else if c = 0x1100 then
    if o = O.MODULE_STATE then some m.modState.code
    else if o = O.CAP_EFFECTIVE then some (ofMilli m.capMw)
    else if o = O.THERMAL_CAP then some (ofMilli m.plinth.thermalMw)
    else if o = O.THROTTLE_LEVEL then some m.plinth.level
    else none
  else if c = 0x1103 then
    match p.part? with
    | some q => if sub ≤ 16 && !smem (m.part q).bays (sub - 1) then some 0 else none
    | none => none
  else if c = 0x1108 then
    if o = O.RULE_ACTIVE then some (maskOf ((List.range 32).filter m.ruleFired)) else none
  else if c = 0x1400 then
    if o = O.TILES_FENCED then some (m.start.fenced.filter fun t => (m.viewBays p).contains (t / 640)).length
    else if o = O.HOLE_MAP_LO then some (m.holeMap p 0)
    else if o = O.HOLE_MAP_HI then some (m.holeMap p 5120)
    else if o = O.FENCE_DROPS then some (m.sumBays p fun b => (m.bay b).fenceDrops)
    else none
  else if c = 0x1401 then m.reportView p (sub - 1)
  else if c = 0x1800 then
    if o = O.P_BAYS then some (maskOf (m.part i).bays)
    else if o = O.P_CONFIDENTIAL then some (boolNat (m.part i).confidential)
    else if o = O.P_STATE then some (m.part i).state.code
    else none
  else if c = 0x2000 then
    if o = O.VENDOR_KEY_HASH then some m.start.fuses.vendorKeyHash
    else if o = O.IDENTITY_KEY_HASH then some m.identityHash
    else if o = O.ROM_MEASUREMENT then some (leNat romMeasurement)
    else if o = O.FW_MEASUREMENT then some (leNat m.fwMeasurement)
    else if o = O.FW_SVN then some (fld m.start.fw 8 4)
    else if o = O.MIN_SVN then some m.start.fuses.minSvn
    else if o = O.TRNG_STATE then some (boolNat m.trngFailed)
    else none
  else if c = 0x2010 then
    if o = O.PT_EXISTS then some (maskOf (m.partsSeen p))
    else if o = O.BAY_OWNER then some (m.bayOwner p)
    else none
  else if c = 0x2400 then
    let num := fun (e : Nat) => if m.seesEngine p e then numericsBlob (m.engine e) else 0
    if o = O.NUM_SUMMARY then some (m.numSummary p)
    else if o = O.ENGINE_NUM_HOST then some (num (m.obj O.SELECT_HOST 0))
    else if o = O.ENGINE_NUM_MGMT then some (num (m.obj O.SELECT_MGMT 0))
    else none
  else if c = 0x3000 then
    if o = O.U_TILE then some (m.usage i 1)
    else if o = O.U_CLUSTER then some (m.usage i 2)
    else if o = O.U_LENT then some (m.usage i 3)
    else if o = O.U_MODULE then some (m.usage i 4)
    else if o = O.U_HOST then some (m.usage i 5)
    else if o = O.LENT_PIECES then some (m.lent.filter fun l => l.part == i).length
    else if o = O.PF_THROTTLED_NS then
      some (sat64 (m.obj O.PF_THROTTLED_NS i + m.throttledNow i))
    else none
  else if c = 0x3400 then
    if o = O.ERROR_LOG then some (m.errorLogView p) else none
  else if c = 0x4000 then
    if o = O.J_STATE then some (m.journal i).state.code
    else if o = O.J_CONSUMED then some (m.journal i).consumed
    else if o = O.J_COMPLETED then some (m.journal i).completed
    else if o = O.J_IN_FLIGHT then some (m.inFlight i).length
    else none
  else if c = 0x4820 then
    if o = O.PS_STATE then some m.pair.state.code
    else if o = O.PS_RESYNC_LEFT then some m.pair.sweepLeft.length
    else if o = O.PS_HOLD_NS then some (sat64 (m.obj O.PS_HOLD_NS 0 + (match m.pair.heldSince with | some t => m.now - t | none => 0)))
    else none
  else if c = 0x5000 then
    let view := fun (e : Nat) => if m.seesEngine p e then leNat (m.counterView e) else 0
    if o = O.TR_STATE then some m.trace.state.code
    else if o = O.TR_CAPTURED then some (m.sumBays p fun b => m.obj O.TR_BAY_CAPTURED b)
    else if o = O.TR_DROPPED then some (m.sumBays p fun b => (m.bay b).trDropped)
    else if o = O.TR_SENT then some (m.sumBays p fun b => (m.bay b).trSent)
    else if o = O.TR_FRAMES then some (m.sumBays p fun b => (m.bay b).trFrames)
    else if o = O.CTR_VIEW_HOST then some (view (m.obj O.CTR_SELECT_HOST 0))
    else if o = O.CTR_VIEW_MGMT then some (view (m.obj O.CTR_SELECT_MGMT 0))
    else none
  else if c = 0x6000 then
    if o = O.BAY_STATE then some (m.bay i).power.code else none
  else if c = 0x6010 then
    if o = O.DMA_OUTSTANDING then some (m.transfers.filter fun t => t.bay == i).length
    else if o = O.DMA_QUEUES then some (m.queues i).length
    else none
  else if c = 0x6030 then
    if o = O.DIE_RETIRED then some (maskOf (m.bay i).retired)
    else if o = O.KEY_EPOCH then some (m.bay i).epoch
    else none
  else if c = 0x6038 then
    if o = O.UPD_BUSY then some (boolNat (m.updBusy i)) else none
  else if c = 0x6050 then
    if sub ≤ 7 then some (m.bayCounter i sub) else none
  else none

/-- The value an object reads as on a path. A WO object reads as zero (R6). -/
def Mach.readObj (m : Mach) (p : Path) (index sub : Nat) : Nat :=
  match objClass index with
  | none => 0
  | some (c, i) =>
    if sub = 0 then topSub index
    else
      match objRow index sub with
      | none => 0
      | some r =>
        if r.access = .wo then 0
        else
          let o := c * 256 + sub
          match (if p.isMgmt then none else readingOf o i) with
          | some k => m.coarse p k
          | none => (m.derived p o i).getD (m.objAt index sub)

/-- The row of an object; subindex 0 is the count of R311. -/
def rowAt (index sub : Nat) : Option ObjRow :=
  if sub = 0 then (objClass index).map fun _ => ⟨0, .u8, .ro, .either, 1, topSub index, false⟩
  else objRow index sub

def trimZeros (b : Bytes) : Bytes := (b.reverse.dropWhile (· == 0)).reverse

/-- A value as its answer carries it: a string at its current length (R312). -/
def Mach.readBytes (m : Mach) (p : Path) (index sub : Nat) : Bytes :=
  match rowAt index sub with
  | none => []
  | some r =>
    let b := leBytes r.size (m.readObj p index sub)
    if r.type = .str then trimZeros b else b

/-! ### DESCRIBE (R314, R329) -/

def safety (index sub : Nat) (r : ObjRow) : Bool :=
  match objClass index with
  | none => false
  | some (c, _) =>
    let o := c * 256 + sub
    [O.P_RESET, O.UPD_RESET, O.TRACE_RESET, O.PS_RESET, O.FLD_RESET, O.FLD_ENABLE].contains o ||
      (decide (0x1100 ≤ index ∧ index < 0x1300) && r.access != .ro)

/-- The default of an object: for a fused, strapped or derived value, the value read at start. -/
def Mach.defaultOf (m : Mach) (index sub : Nat) (r : ObjRow) : Nat :=
  match objClass index with
  | none => r.default
  | some (c, i) =>
    let o := c * 256 + sub
    if [O.SERIAL, O.EUI48, O.SLOT_ID, O.ROM_VERSION, O.PLCA_NODE, O.VENDOR_KEY_HASH, O.IDENTITY_KEY_HASH,
        O.ROM_MEASUREMENT, O.MIN_SVN].contains o then (m.derived .pf0 o i).getD r.default
    else if o = O.TR_CONSENT ∧ (m.part i).confidential then 0
    else r.default

def Mach.describeBytes (m : Mach) (index sub : Nat) : Bytes :=
  match rowAt index sub with
  | none => []
  | some r =>
    leBytes 1 r.type.code ++ leBytes 1 r.access.code ++ leBytes 1 r.owner.code ++
      leBytes 1 (boolNat (safety index sub r) + 2 * boolNat r.pf0) ++ leBytes 2 r.size ++ zerosB 2 ++
      leBytes r.size (m.defaultOf index sub r)

/-! ### Answers (R325, R328, R330, R331) -/

/-- An answer of R328. -/
def answerBytes (op index sub reason slotTime checkIndex checkSub : Nat) (value : Bytes) : Bytes :=
  leBytes 1 op ++ leBytes 1 sub ++ leBytes 2 index ++ leBytes 1 reason ++ zerosB 1 ++ leBytes 2 value.length ++
    leBytes 8 slotTime ++ leBytes 2 checkIndex ++ leBytes 1 checkSub ++ zerosB 5 ++ value

/-- A mailbox's answer is written: BUSY clears, DONE sets, and the vector is signalled (R325). A request that
a function-level reset has discarded has no answer (R326). -/
def Mach.mailboxAnswer (m : Mach) (fn reason : Nat) (b : Bytes) : Mach :=
  let x := m.mailbox fn
  if !x.busy then m
  else
    let m := m.setMailbox fn { x with busy := false, done := true, lastReason := reason, answer := b }
    if x.intEn && x.vectorValid then m.signalVector fn x.vector else m

/-- An answer queued for the requester, and kept in the answer cache of four sources (R330; log entry 25). An
interface that is off answers nothing (R335). -/
def Mach.umporAnswer (m : Mach) (src port token : Nat) (b : Bytes) : Mach :=
  if !m.fieldOn then m
  else
    let f := umporHeader 2 token b.length ++ b
    let others := m.cache.filter fun c => decide (c.src ≠ src)
    { m.queueFrame src port f with
      cache := (others.drop (others.length - 3)) ++ [⟨src, port, token, m.now, f⟩] }

def Mach.deliver (m : Mach) (p : Path) (reason : Nat) (b : Bytes) : Mach :=
  match p with
  | .pf0 => m.mailboxAnswer 0 reason b
  | .vf n => m.mailboxAnswer n reason b
  | .umpor src port token => m.umporAnswer src port token b

/-- An answer owed is given, with the value its object now holds (R328, R334). -/
def Mach.answerOwed (m : Mach) (w : Owed) (reason checkIndex checkSub : Nat) : Mach :=
  m.deliver w.path reason (answerBytes 2 w.index w.sub reason w.slotTime checkIndex checkSub
    (m.readBytes w.path w.index w.sub))

end Sys2Proof.Machine
end

