-- ==== Sys2Proof/Machine/Partition.lean ====
section
/-! DEFINITION. Partitions, sessions and keys (R369 to R377), the partition reset (R336), attestation reports
(R383), and the failure of a bay in service (R25). -/

namespace Sys2Proof.Machine

open Sys2Proof

/-- The per-partition indices (R315), by their first one. -/
def perPartClasses : List Nat := [0x1800, 0x2410, 0x2800, 0x3000, 0x3040, 0x3800, 0x3810, 0x3820, 0x4080, 0x5010]

/-- Every per-partition object of a partition back to its default. -/
def Mach.defaultPart (m : Mach) (p : Nat) : Mach := perPartClasses.foldl (fun s c => s.defaultIndex (c + p)) m

/-- The RO counters at a partition's indices (R336), by index and subindex. -/
def partCounters (p : Nat) : List (Nat × Nat) :=
  [O.BOUNCE_TAG_FAILS, O.BOUNCE_SEQ].map (fun o => (o / 256 + p, o % 256)) ++
    [0x2410, 0x2800, 0x3000, 0x3040, 0x3810, 0x3820].flatMap fun c =>
      ((objRows c).filter fun r => r.access == .ro).map fun r => (c + p, r.sub)

/-! ### Sessions (R295, R296, R373, R375) -/

/-- The last part of a session start: keys and the KEM pair drawn, the bounce path cleared. While the TRNG is
failed the start is withheld. -/
def Mach.finishSession (m : Mach) (p : Nat) : Mach :=
  if m.trngFailed then m
  else
    let m := { m with drawCount := m.drawCount + 3 }.setPart p { m.part p with
      state := .active, keys := some m.drawCount, bounce := none, blanking := [] }
    ([O.BOUNCE_ENABLE, O.KEM_CT_LO, O.KEM_CT_HI, O.KEY_CONFIRM, O.BOUNCE_SEQ].foldl (fun s o => s.setObj o p 0) m).bump
      O.P_SESSION p 1

/-- The epoch of a bay advances: write-backs of lines of the old epoch have nothing left to write. -/
def Mach.setEpoch (m : Mach) (b e : Nat) : Mach :=
  { m.setBay b { m.bay b with epoch := e } with
    writeBacks := m.writeBacks.filter fun w => w.1 / packageLines != b || w.2 == .blank }

/-- A session of a partition starts; where an epoch would pass 255, its package is rewritten blank first. -/
def Mach.beginSession (m : Mach) (p : Nat) : Mach :=
  if m.trngFailed || (m.part p).state != .keying then m
  else
    let bs := (m.part p).bays
    let wraps := bs.filter fun b => (m.bay b).epoch == 255
    let m := (bs.filter fun b => (m.bay b).epoch != 255).foldl (fun s b => s.setEpoch b ((s.bay b).epoch + 1)) m
    if wraps.isEmpty then m.finishSession p else m.setPart p { m.part p with blanking := wraps }

/-- The answer owed to a creation is given once its session has started (R371). -/
def Mach.answerCreator (m : Mach) (p : Nat) : Mach :=
  match (m.part p).creator with
  | some w =>
    if (m.part p).state = .active then (m.setPart p { m.part p with creator := none }).answerOwed w 0 0 0 else m
  | none => m

/-- PACKAGE_BLANK_REWRITE (R296): a package has been rewritten blank. -/
def packageBlankRewrite (b : Nat) (m : Mach) : Res :=
  match (List.range 16).find? fun p => smem (m.part p).blanking b with
  | none => cannot "no session start waits for this package"
  | some p =>
    let lo := b * 2 ^ 36
    let m := { m with
      mem := m.mem.filter fun c => !decide (lo ≤ c.1 ∧ c.1 < lo + 2 ^ 36)
      lines := m.lines.filter fun l => l.1 / packageLines != b
      writeBacks := m.writeBacks.filter fun l => l.1 / packageLines != b }.setEpoch b 1
    let left := sdel (m.part p).blanking b
    let m := m.setPart p { m.part p with blanking := left }
    if !left.isEmpty then .next m else .next ((m.finishSession p).answerCreator p)

/-! ### The partition reset (R336) -/

/-- Everything a partition's commands have in progress is gone; no record of theirs is written (R246, R253). -/
def Mach.dropCommands (m : Mach) (p : Nat) : Mach :=
  let mine := (m.received.filter fun c => c.part == p).map (·.id) ++
    (m.acts.filter fun a => a.cmd.part == p).map (·.cmd.id)
  { m with
    received := m.received.filter fun c => c.part != p
    acts := m.acts.filter fun a => a.cmd.part != p
    listed := m.listed.filter fun a => a.cmd.part != p
    counters := m.counters.filter fun k => !mine.contains k.cmd
    running := m.running.filter fun r => !mine.contains r.cmd
    addBacks := m.addBacks.filter fun b => !mine.contains b.cmd
    transfers := m.transfers.filter fun t => !mine.contains t.cmd
    throttled := mdel m.throttled p
    ready := m.ready.filter fun r => match r.cmd with
      | some c => m.obj O.J_PARTITION c.1.journal != p
      | none => true }

/-- The numerics and counters of a bay's engines cleared (R55, R445). -/
def Mach.clearEngines (m : Mach) (b : Nat) : Mach :=
  { m with
    engines := m.engines.map fun g =>
      if engineBay g.1 = b then
        (g.1, { g.2 with flags := 0, sats := 0, firstFault := 0, live := .zero, run := none })
      else g
    tileWatchdogs := m.tileWatchdogs.filter fun w => w.1 / 640 != b }

/-- The stores of a set of bays lose everything (R289), the traces in them included (R458). -/
def Mach.clearStores (m : Mach) (bs : List Nat) : Mach :=
  let m := if m.traceOn then bs.foldl Mach.invalidateTrace m else m
  { m.invalidate fun s => bs.contains (sectorBay s) with
    sramBacks := m.sramBacks.filter fun a => !bs.contains (addrBay a) }

/-- What the reset of a partition stops and discards (R336), with its event (R250). -/
def Mach.resetPart (m : Mach) (p cause : Nat) : Mach :=
  let bs := (m.part p).bays
  let m := m.dropCommands p
  let m := (List.range 64).foldl (fun s j =>
    if s.obj O.J_PARTITION j = p then
      (s.closeJournal j).setObj O.J_ENABLE j 0 else s) m
  let m := [O.SCALE_ENABLE, O.PLACE_ENABLE, O.BOUNCE_ENABLE].foldl (fun s o => s.setObj o p 0) m
  let m := if m.obj O.HDM_PARTITION 0 = p then m.setObj O.HDM_ENABLE 0 0 else m
  let m := { m with
    lent := m.lent.filter fun l => l.part != p
    placed := m.placed.filter fun o => o.part != p }.pruneDirty
  let m := (bs.foldl Mach.clearEngines m).clearStores bs
  let m := { m with dict := (partCounters p).foldl (fun d (k : Nat × Nat) => mdel d (k.1 * 256 + k.2)) m.dict }
  let m := m.setPart p { m.part p with keys := none, bounce := none, blanking := [] }
  (m.moduleEvent 7 (p + cause * 256)).settle

/-- P_RESET or a function-level reset (R370): a FAILED partition stays so, any other starts a session. -/
def Mach.partitionReset (m : Mach) (p cause : Nat) : Mach :=
  if !(m.part p).exists_ then m
  else
    let m := m.resetPart p cause
    if (m.part p).state = .failed then m else ((m.setPart p { m.part p with state := .keying }).beginSession p).answerCreator p

/-! ### Creation (R371) -/

/-- Why PT_CREATE is refused, or nothing. -/
def Mach.createRefused (m : Mach) : Option Nat :=
  let p := m.obj O.PT_SELECT 0
  let bs := bitsOf 16 (m.obj O.PT_BAYS 0)
  if bs.isEmpty then some rFIELD
  else if bs.any fun b => match m.bayPart b with | some q => q != p | none => false then some rOVERLAP
  else if m.trngFailed then some rKEY
  else if (m.part p).exists_ || bs.any m.outOfService ||
      !((List.range 64).any fun j => m.obj O.J_PARTITION j == 0xFF) then some rSTATE
  else none

/-- The partition is made; its answer is owed while a package is rewritten blank. -/
def Mach.createPart (m : Mach) (w : Owed) : Mach :=
  let p := m.obj O.PT_SELECT 0
  let bs := bitsOf 16 (m.obj O.PT_BAYS 0)
  let conf := m.obj O.PT_CONFIDENTIAL 0 == 1
  let m := (m.defaultPart p).setPart p { Partition.reset with state := .keying, bays := bs, confidential := conf }
  let m := if conf then m.setObj O.TR_CONSENT p 0 else m
  let m := m.clearStores bs
  let m := match (List.range 64).find? fun j => m.obj O.J_PARTITION j == 0xFF with
    | some j => m.setObj O.J_PARTITION j p
    | none => m
  let m := m.beginSession p
  if (m.part p).state = .active then m else m.setPart p { m.part p with creator := some w }

/-- The bays of a partition released and its objects defaults (R372 step 5, R371). Its journals forget what completed
in them. -/
def Mach.releasePart (m : Mach) (p : Nat) : Mach :=
  let m := (List.range 64).foldl (fun s j =>
    if s.obj O.J_PARTITION j = p then (s.setJournal j { s.journal j with reasons := [] }).setObj O.J_PARTITION j 0xFF
    else s) m
  { m.defaultPart p with parts := mdel m.parts p }

/-! ### The bounce key (R377) -/

/-- The 96 bytes both sides derive. -/
def Mach.bounceSecret (m : Mach) (p k : Nat) : Bytes :=
  let ct := leBytes 544 (m.obj O.KEM_CT_LO p) ++ leBytes 544 (m.obj O.KEM_CT_HI p)
  Config.shake256 (Config.kemDecap (k + 2) ct ++ asciiBytes "KRL BOUNCE" ++ leBytes 1 p ++
    leBytes 8 (m.obj O.P_SESSION p) ++ hash256 (Config.kemPublic (k + 2)) ++ hash256 ct) 96

/-- The maquette check of BOUNCE_ENABLE: the module with both keys, or reason and failing object. -/
def Mach.bounceCheck (m : Mach) (p : Nat) : Except (Nat × Nat) Mach :=
  match (m.part p).keys with
  | none => .error (rSTATE, O.P_STATE)
  | some k =>
    let s := m.bounceSecret p k
    if fld s 64 32 ≠ m.obj O.KEY_CONFIRM p then .error (rKEY, O.KEY_CONFIRM)
    else if (m.part p).state ≠ .active then .error (rSTATE, O.P_STATE)
    else .ok (m.setPart p { m.part p with bounce := some (fld s 0 32, fld s 32 32) })

/-- Whether a command of the partition that uses the bounce path runs: a non-confidential one uses none (R376). -/
def Mach.bounceInUse (m : Mach) (p : Nat) : Bool :=
  (m.part p).confidential && m.acts.any fun a => a.cmd.part == p && (match a.work with
    | .copying w => isHost w.src || isHost w.dst
    | _ => a.cmd.opcode == 12 || a.cmd.opcode == 13 || a.cmd.opcode == 14)

/-! ### Attestation (R381 to R383) -/

/-- CONFIG of a report. -/
def Mach.reportConfig (m : Mach) (p : Nat) : Bytes :=
  let x := m.part p
  bytesAt (Config.shake256 (leBytes 1 p ++ leBytes 2 (maskOf x.bays) ++ leBytes 1 (boolNat x.confidential) ++
    (m.hostWindows p).flatMap fun w => leBytes 8 w.1 ++ leBytes 8 w.2) 64) 0 64

/-- An attestation report of 12,128 bytes. -/
def Mach.report (m : Mach) (p : Nat) (pairing : Bool) (nonce ek : Bytes) : Bytes :=
  let x := m.part p
  let body := [0x4B, 0x52, 0x4C, 0x52] ++ leBytes 2 1 ++ leBytes 1 p ++
    leBytes 1 (boolNat x.confidential + 2 * boolNat pairing) ++ leBytes 2 (maskOf x.bays) ++ zerosB 6 ++
    leBytes 8 (m.obj O.P_SESSION p) ++ leBytes 8 m.now ++ bytesAt nonce 0 32 ++ romMeasurement ++ m.fwMeasurement ++
    leBytes 4 (fld m.start.fw 4 4) ++ leBytes 4 (fld m.start.fw 8 4) ++ leBytes 16 m.start.fuses.serial ++
    zerosB 40 ++ m.reportConfig p ++ bytesAt ek 0 1184 ++ zerosB 32
  let akPk := bytesAt (Config.dsaPublic m.akSeed) 0 1952
  body ++ bytesAt (Config.dsaSign m.akSeed (asciiBytes "KRL REPORT") body) 0 3309 ++ zerosB 3 ++ akPk ++
    m.fwMeasurement ++
    bytesAt (Config.dsaSign m.dikSeed (asciiBytes "KRL ALIAS") (akPk ++ m.fwMeasurement)) 0 3309 ++ zerosB 3 ++
    bytesAt (Config.dsaPublic m.dikSeed) 0 1952

/-- A write of 1 to ATTEST: the module after it, and the reason. In KEYING and FAILED every one is answered STATE
(R370). A reset of the partition in the slot interrupts the report: how much of it stands then is open (R383). -/
def Mach.attest (m : Mach) (p : Nat) (cut : Bool) : Mach × Nat :=
  let dest := m.obj O.ATTEST_DEST p
  match (m.part p).state, (m.part p).keys with
  | .active, some k =>
    if dest % 64 ≠ 0 then (m, rFIELD)
    else if !m.belongs p dest 12128 then (m, rPARTITION)
    else
      let r := m.report p false (leBytes 32 (m.obj O.ATTEST_NONCE p)) (Config.kemPublic (k + 2))
      if cut then
        let n := m.free
        (n.2.wr dest (r.take (n.1 % 12129)) false, rSTATE)
      else (m.wr dest r false, 0)
  | _, _ => (m, rSTATE)

/-! ### SLOT_MAP (R430, R444) -/

/-- Byte `k` of a cluster's slot map: the status of slot k below 68, the slot of position k − 68 above. -/
def Mach.slotByte (m : Mach) (cluster k : Nat) : Nat := bits (m.obj O.SLOT_MAP cluster) (8 * k) 8

def Mach.setSlotByte (m : Mach) (cluster k v : Nat) : Mach :=
  let w := m.obj O.SLOT_MAP cluster
  m.setObj O.SLOT_MAP cluster (w - bits w (8 * k) 8 * 2 ^ (8 * k) + v * 2 ^ (8 * k))

/-- The slots of a disabled cluster read so, and its tiles are holes (R429, R430). -/
def Mach.markCluster (m : Mach) (c : Nat) : Mach :=
  let m := (List.range 68).foldl (fun s k => s.setSlotByte c k 7) m
  { m with start := { m.start with holes := (List.range 64).foldl (fun h t => sadd h (c * 64 + t)) m.start.holes } }

/-- The clusters of a FAILED bay are disabled. -/
def Mach.markBay (m : Mach) (b : Nat) : Mach :=
  (List.range 10).foldl (fun s c => s.markCluster (b * 10 + c))
    { m with start := { m.start with badBays := sadd m.start.badBays b } }

/-! ### Failures in service (R25, R375) -/

/-- A bay in service fails for a cause: 1 watchdog, 2 uncorrectable word. -/
def Mach.failBay (m : Mach) (b cause : Nat) : Mach :=
  let m := match m.bayPart b with
    | none => m.clearStores [b]
    | some p =>
      match (m.part p).creator with
      | some w =>
        -- a creation not yet answered is undone (R371)
        let m := (m.clearStores (m.part p).bays).releasePart p
        m.answerOwed w rSTATE 0 0
      | none =>
        let m := m.resetPart p 3
        m.setPart p { m.part p with state := .failed, bays := sdel (m.part p).bays b }
  let m := (m.setBay b { m.bay b with
    power := .failed, since := m.now, wakeAsked := false, wakeStarted := false, leaving := false }).markBay b
  ((m.setObj O.BAY_FAIL_CAUSE b cause).alert 0).moduleEvent 3 (b + (cause - 1) * 256)

/-- BAY_WATCHDOG_RESTART (R25). -/
def bayWatchdogRestart (b : Nat) (m : Mach) : Res :=
  if m.sequencerRuns b then .next (m.setBay b { m.bay b with watchdog := m.now }) else .next m

/-- BAY_WATCHDOG_EXPIRY (R25): 1 ms without a restart. -/
def bayWatchdogExpiry (b : Nat) (m : Mach) : Res :=
  if m.sequencerRuns b then .next ((m.upTo ((m.bay b).watchdog + 1000000)).failBay b 1) else .next m

/-- BAY_STORE_UNCORRECTABLE (R24, R25): a word of the sequencer's stores is read, and an uncorrectable one fails the
bay. -/
def bayStoreUncorrectable (b : Nat) (o : WordObs) (m : Mach) : Res :=
  if !m.sequencerRuns b then .next m
  else
    let s := m.readSeqWord b o none
    .next (if (seqWordClass o).lost then s.failBay b 2 else s)

/-- TRNG_FAIL (R375). Only a module start clears the failed state. -/
def trngFail (m : Mach) : Res :=
  if !m.plinth.inputOn then .next m
  else .next ({ m with trngFailed := true }.bump O.TRNG_FAILS 0 1)

end Sys2Proof.Machine
end

