-- ==== Sys2Proof/Machine/Fence.lean ====
section
/-! DEFINITION. Tiles fenced in service (R438 to R442) and the slot map they revise (R429, R444). -/

namespace Sys2Proof.Machine

open Sys2Proof

/-! ### Holes (R429, R444) -/

/-- The physical slot of a logical tile, if it has one. -/
def Mach.slotOf (m : Mach) (tile : Nat) : Option Nat :=
  let s := m.slotByte (tile / 64) (68 + tile % 64)
  if s < 68 then some s else none

/-- A tile becomes a hole, its slot's status HOLE, unless its cluster is disabled, whose slots keep that status
(R429). -/
def Mach.addHole (m : Mach) (tile : Nat) : Mach :=
  let m := { m with start := { m.start with holes := sadd m.start.holes tile } }
  match m.slotOf tile with
  | some s => if m.slotByte (tile / 64) s = 7 then m else m.setSlotByte (tile / 64) s 6
  | none => m

/-! ### Fencing (R439, R440) -/

/-- A lent piece of a fenced tile is pointed home: lines with a DIRTY sector are written poisoned. -/
def Mach.loseLent (m : Mach) (l : Lent) : Mach :=
  let m := { m with lent := m.lent.filter fun x => decide (x.home ≠ l.home) }
  let lines := (List.range 128).filter fun i => l.dirty.any fun s => s / 8 == i
  lines.foldl (fun s i => s.wrLine (l.home / 256 + i) 0 (zerosB 256) true) m

/-- The runs of a tile's engines end when they stop (R446). -/
def Mach.stopRuns (m : Mach) (tile : Nat) : Mach :=
  (List.range 4).foldl (fun s k => s.stopRun (tileEngine tile k)) m

/-- A running tile is fenced for a cause; a hole stays as it is. -/
def Mach.fence (m : Mach) (tile cause : Nat) : Mach :=
  if m.isHole tile then m
  else
    let cl := tile / 64
    let lost := m.running.filter fun r => engineKind r.engine ≤ 3 && engineTile r.engine == tile
    let m := m.stopRuns tile
    let m := { m with running := m.running.filter fun r => !(engineKind r.engine ≤ 3 && engineTile r.engine == tile) }
    -- the store is lost
    let m := m.invalidate fun s => s / 2 ^ 51 == 2 && s % 2 ^ 51 / 2 ^ 13 == tile
    let m := { m with
      sramBacks := m.sramBacks.filter fun a => !(decide (a / 2 ^ 56 = 2) && addrUnit a == tile)
      tileWatchdogs := mdel m.tileWatchdogs tile }
    let m := (m.lent.filter fun l => l.tile == tile).foldl Mach.loseLent m
    let m := m.addHole tile
    let prior := match m.slotOf tile with
      | some s => sadd m.start.fencedPrior (cl * 68 + s)
      | none => m.start.fencedPrior
    let m := { m with start := { m.start with fenced := sadd m.start.fenced tile, fencedPrior := prior } }
    -- items and transfers that lose the tile
    -- an item whose terms are still to be added has not written its outputs (log entry 33)
    let waiting := m.addBacks.filter fun b => engineTile b.engine == tile
    let m := { m with addBacks := m.addBacks.filter fun b => engineTile b.engine != tile }
    let m := lost.foldl (fun s r => s.loseItem r.cmd cl r.item) m
    let m := waiting.foldl (fun s b => s.loseItem b.cmd cl b.item) m
    let m := ((m.loseCluster cl).copiesLose tile).finishFreed
    let rings := m.obj O.MODULE_EVENT_RING 0 :: (match m.bayPart (tile / 640) with
      | some p => if m.obj O.EVENT_RING p = m.obj O.MODULE_EVENT_RING 0 then [] else [m.obj O.EVENT_RING p]
      | none => [])
    (m.eventTo sourceModule rings none 4 0 (tile + cause * 2 ^ 16) 0 0 0).triggerOn 3

/-- Whether a tile's sequencer runs. -/
def Mach.tileRuns (m : Mach) (tile : Nat) : Bool := m.sequencerRuns (tile / 640) && !m.isHole tile

def Mach.holdsItem (m : Mach) (tile : Nat) : Bool :=
  m.running.any fun r => engineKind r.engine ≤ 3 && engineTile r.engine == tile

/-- TILE_WATCHDOG_RESTART (R438): kept in time that the watchdogs run. -/
def tileWatchdogRestart (tile : Nat) (m : Mach) : Res :=
  if m.tileRuns tile then .next { m with tileWatchdogs := mset m.tileWatchdogs tile (m.now - m.paused) } else .next m

/-- TILE_WATCHDOG_EXPIRY (R438): the period runs while the tile holds an item, its bay is not at level 16 and
not waiting for a wake. -/
def tileWatchdogExpiry (tile : Nat) (m : Mach) : Res :=
  let b := tile / 640
  if !m.tileRuns tile || !m.holdsItem tile || m.bayLevel b ≥ 16 || (m.bay b).power != .run then .next m
  else
    let t := mgetD m.tileWatchdogs tile 0 + m.obj O.TILE_WATCHDOG 0 + m.paused
    .next ((m.upTo t).fence tile 2)

/-- TILE_SEQUENCER_STORE_FAULT (R438): a word of the sequencer's stores is read, and an uncorrectable one fences the
tile. -/
def tileSequencerStoreFault (tile : Nat) (o : WordObs) (m : Mach) : Res :=
  if !m.tileRuns tile then .next m
  else
    let s := m.readSeqWord (tile / 640) o none
    .next (if (seqWordClass o).lost then s.fence tile 1 else s)

/-- SRAM_SCRUB (R307): a word is read in an idle bank cycle. One of a sector that is not valid, or poisoned, is skipped;
one of a sequencer's store that is uncorrectable fails its sequencer (R286). -/
def sramScrub (w : SramWord) (o : WordObs) (m : Mach) : Res :=
  if m.obj O.SCRUB_ENABLE 0 ≠ 1 then .next m
  else
    match w with
    | .store addr =>
      if !m.sequencerRuns (addrBay addr) || !smem m.valid (sectorOf addr) || smem m.poison (sectorOf addr) then .next m
      else .next (m.readWord addr o 2)
    | .baySequencer b =>
      if !m.sequencerRuns b then .next m
      else
        let s := m.readSeqWord b o (some 2)
        .next (if (seqWordClass o).lost then s.failBay b 2 else s)
    | .tileSequencer t =>
      if !m.tileRuns t then .next m
      else
        let s := m.readSeqWord (t / 640) o (some 2)
        .next (if (seqWordClass o).lost then s.fence t 1 else s)

end Sys2Proof.Machine
end

