-- ==== Sys2Proof/Machine/Pair.lean ====
section
/-! DEFINITION. The pointing stream (R353 to R365): records, acknowledgements, the seal, heartbeats, and the
handshake of R385 and R386. Writes into the partner's window are posted writes to PS_PEER_BAR4. -/

namespace Sys2Proof.Machine

open Sys2Proof

def Mach.setPair (m : Mach) (p : Pair) : Mach := { m with pair := p }
def Mach.psPart (m : Mach) : Nat := m.obj O.PS_PARTITION 0
def Mach.psPrimary (m : Mach) : Bool := m.obj O.PS_ROLE 0 == 1
def Mach.psBays (m : Mach) : List Nat := (m.part m.psPart).bays

/-- A posted write into the partner's window (R354). -/
def Mach.peerWrite (m : Mach) (off : Nat) (b : Bytes) : Mach := m.wr (hostAddr (m.obj O.PS_PEER_BAR4 0 + off)) b false

/-- The bytes of a write into the module's own window (R354; log entry 129). -/
def Mach.setWindow (m : Mach) (off : Nat) (b : Bytes) : Mach := { m with window := Memory.setAll m.window off b }

/-- A range of the window as it stands. -/
def Mach.windowAt (m : Mach) (off n : Nat) : Bytes := (List.range n).map fun i => Memory.get m.window (off + i)

/-- Places in a window: a slot of a bay's ring, ACKED of a bay, HEARTBEAT, and the handshake area. -/
def slotOff (b s : Nat) : Nat := b * 0x2000 + s % 16 * 0x200
def ackedOff (b : Nat) : Nat := 0x20000 + 8 * b
def heartbeatOff : Nat := 0x20080
def handshakeOff : Nat := 0x21000

/-! ### States (R361) -/

/-- Writes that were held go on where the mirror no longer lags: the engines send theirs again, and UPDATEs that wait
for it start (R359). -/
def Mach.resumeWrites (m : Mach) : Mach :=
  if m.pair.heldSince.isSome && !m.psLagging then m.releaseHold.startUpdates else m

/-- The stream changes state for a cause: the event, and the pair key gone in UNPAIRED and BROKEN. -/
def Mach.psState (m : Mach) (s : PairState) (cause : Nat) : Mach :=
  let key := if s = .unpaired ∨ s = .broken then none else m.pair.key
  ({ m with pair := { m.pair with state := s, key := key } }).moduleEvent 6 (s.code + cause * 256)

/-- WAITs of form SEAL that the stream can no longer serve complete with LINK (R360; log entry 26). -/
def Mach.dropSeals (m : Mach) : Mach :=
  (m.acts.filter fun a => a.cmd.opcode == 10 && a.cmd.opflags % 4 == 2).foldl
    (fun s a => s.complete a.cmd rLINK 0xFF 0 .none false) m

/-- The stream goes BROKEN for a cause; held writes are released. -/
def Mach.psBreak (m : Mach) (cause : Nat) : Mach :=
  ({ m with pair := { m.pair with unacked := [], sweepLeft := [], ackDue := [] } }.psState .broken cause).dropSeals.resumeWrites

/-- The stream goes UNPAIRED for a cause; PS_ENABLE reads 0. -/
def Mach.psUnpair (m : Mach) (cause : Nat) : Mach :=
  let p := m.pair
  let m := m.setPair { Pair.reset with
    state := p.state, queue := p.queue, writer := p.writer, peerTime := p.peerTime, lastHeard := p.lastHeard,
    heldSince := p.heldSince }
  ((m.setObj O.PS_ENABLE 0 0).psState .unpaired cause).dropSeals.resumeWrites

/-! ### Handshake fragments (R385) -/

/-- A fragment without its NUMBER. -/
def fragment (kind frag frags : Nat) (payload : Bytes) : Bytes :=
  leBytes 1 kind ++ leBytes 1 frag ++ leBytes 1 frags ++ zerosB 1 ++ leBytes 2 payload.length ++ zerosB 26 ++ payload

/-- A fragment is written into the partner's handshake area with the writer's next NUMBER. -/
def Mach.putFragment (m : Mach) (b : Bytes) : Mach :=
  let n := m.pair.sentNumber + 1
  let m := m.setPair { m.pair with sentNumber := n, awaiting := if fld b 0 1 < 5 then some n else m.pair.awaiting }
  m.peerWrite handshakeOff (patch b 8 (leBytes 8 n))

/-- The next fragment goes out unless an ACK is awaited. -/
def Mach.pumpFragments (m : Mach) : Mach :=
  match m.pair.awaiting, m.pair.outFrags with
  | none, b :: r => (m.setPair { m.pair with outFrags := r }).putFragment b
  | _, _ => m

def Mach.sendFragments (m : Mach) (bs : List Bytes) : Mach :=
  (m.setPair { m.pair with outFrags := m.pair.outFrags ++ bs }).pumpFragments

def Mach.sendClose (m : Mach) : Mach := m.putFragment (fragment 6 0 1 [])

/-- The maquette check of PS_ENABLE fails (R361, R362). -/
def Mach.psFail (m : Mach) (reason o cause : Nat) : Mach :=
  let w := m.pair.writer
  let m := m.psUnpair cause
  let m := m.setPair { m.pair with writer := none }
  match w with
  | some w => m.answerOwed w reason (o / 256) (o % 256)
  | none => m

/-- The module that detects a failure of the handshake sends CLOSE (R386). -/
def Mach.psFailClose (m : Mach) (reason o : Nat) : Mach := m.sendClose.psFail reason o 7

/-- Three fragments of a report. -/
def reportFragments (r : Bytes) : List Bytes :=
  [fragment 2 0 3 (bytesAt r 0 4064), fragment 2 1 3 (bytesAt r 4064 4064), fragment 2 2 3 (bytesAt r 8128 4000)]

/-- PS_ENABLE written 1 and its first conditions hold: the handshake begins. -/
def Mach.psBegin (m : Mach) (w : Owed) : Mach :=
  let p := { Pair.reset with
    queue := m.pair.queue, beganAt := m.now, nonce := m.drawCount, kemDraw := m.drawCount + 1, writer := some w }
  let m := { m with drawCount := m.drawCount + 2, pair := p }.psState .handshake 1
  if m.psPrimary then
    m.sendFragments [fragment 1 0 1 (leBytes 1 1 ++ zerosB 1 ++ leBytes 2 (maskOf m.psBays) ++ zerosB 4 ++
      leBytes 32 (Config.trng m.pair.nonce))]
  else m

/-- The 64 bytes of R386 step 5. -/
def pairSecret (ss hM hP : Bytes) : Bytes := Config.shake256 (ss ++ asciiBytes "KRL PAIR" ++ hM ++ hP) 64

/-- Whether a partner's report passes R384 as R386 substitutes it (log entry 27). -/
def Mach.reportOk (m : Mach) (r nonce : Bytes) : Bool :=
  let akPk := bytesAt r 4848 1952
  let dikPk := bytesAt r 10176 1952
  r.length == 12128 && fld r 0 4 == 0x524C524B && fld r 4 2 == 1 && (fld r 7 1).testBit 1 &&
    leNat (bytesAt (hash256 dikPk) 0 32) == m.obj O.PAIR_PEER_ID 0 &&
    bytesAt r 32 32 == bytesAt nonce 0 32 && bytesAt r 64 64 == romMeasurement && bytesAt r 128 64 == m.fwMeasurement &&
    bytesAt r 6800 64 == bytesAt r 128 64 &&
    Config.dsaVerify dikPk (asciiBytes "KRL ALIAS") (bytesAt r 4848 2016) (bytesAt r 6864 3309) &&
    Config.dsaVerify akPk (asciiBytes "KRL REPORT") (bytesAt r 0 1536) (bytesAt r 1536 3309)

/-! ### Mirrored lines (R353, R357, R363) -/

/-- Whether a line lies in a MIRRORED object of PS_PARTITION. -/
def Mach.psLine (m : Mach) (l : Nat) : Bool :=
  m.placed.any fun o => o.mirrored && o.tier == 4 && o.part == m.psPart && (m.copiesOf o).any fun r =>
    decide (r.1 ≤ l * 256 ∧ l * 256 < r.1 + r.2)

/-- Every line of every MIRRORED object of PS_PARTITION. -/
def Mach.psLines (m : Mach) : NSet :=
  ((m.placed.filter fun o => o.mirrored && o.tier == 4 && o.part == m.psPart).flatMap fun o =>
    (m.copiesOf o).flatMap fun r => (List.range ((r.2 + 255) / 256)).map (r.1 / 256 + ·)).foldl sadd []

def Mach.psNext (m : Mach) (b : Nat) : Nat := mgetD m.pair.seq b 0
def Mach.psAcked (m : Mach) (b : Nat) : Nat := mgetD m.pair.ackedSeq b 0

/-- A record may be written to slot s mod 16 of a bay's ring (R355). -/
def Mach.psRoom (m : Mach) (b : Nat) : Bool := decide (m.psNext b < m.psAcked b + 16)

/-- Nonce of a record (R356). -/
def recordNonce (b s : Nat) : Nat := leNat (leBytes 1 b ++ zerosB 3 ++ leBytes 8 s)

/-- A record written into the partner's window under the pair key (R355, R356). -/
def Mach.putRecord (m : Mach) (b kind flags addr step : Nat) (plain : Bytes) (line : Option Nat) : Mach :=
  match m.pair.key with
  | none => m
  | some k =>
    let s := m.psNext b
    let head := leBytes 1 kind ++ leBytes 1 flags ++ leBytes 1 b ++ zerosB 5 ++ leBytes 8 s ++ leBytes 8 addr ++
      leBytes 6 step ++ zerosB 2
    let r := head ++ bytesAt (Config.gcmSeal k (recordNonce b s) head plain) 0 272
    let m := (m.peerWrite (slotOff b s) r).bump O.PS_RECORDS_SENT 0 1
    m.setPair { m.pair with
      seq := mset m.pair.seq b (s + 1), unacked := m.pair.unacked ++ [(⟨b, s, line, m.now⟩ : SentRecord)] }

/-! ### The seal (R360) -/

/-- A running WAIT of form SEAL goes on as far as it can: its SEAL records once its lines are acknowledged and
the pair is PAIRED, its completion once they are. -/
def Mach.trySeal (m : Mach) (id : CmdId) : Mach :=
  match m.act? id with
  | none => m
  | some a =>
    match a.work with
    | .waiting [] needs seals =>
      if m.pair.state ≠ .paired || needs.any (fun n => decide (m.psAcked n.1 < n.2)) then m
      else
        let bs := m.psBays.filter fun b => (mget seals b).isNone && m.psRoom b
        let x := bs.foldl (fun (s : Mach × SMap Nat) b =>
          (s.1.putRecord b 2 0 0 a.cmd.step (zerosB 256) none, mset s.2 b (s.1.psNext b))) (m, seals)
        if m.psBays.all fun b => match mget x.2 b with | some s => decide (s < x.1.psAcked b) | none => false then
          x.1.complete a.cmd 0 0 0 .none false
        else x.1.setAct { a with work := .waiting [] needs x.2 }
    | _ => m

def Mach.trySeals (m : Mach) : Mach :=
  (m.acts.filter fun a => a.cmd.opcode == 10 && a.cmd.opflags % 4 == 2).foldl (fun s a => s.trySeal a.cmd.id) m

/-- SEAL: the WAIT takes the mirrored lines that are dirty or unacknowledged when it starts. -/
def waitSeal (id : CmdId) (m : Mach) : Res :=
  descRow (10, 2) id [] (fun c m =>
    if m.pair.state = .broken then .next (m.refuse c rLINK 0xFF)
    else
      let needs := m.pair.unacked.foldl (fun (n : SMap Nat) r => if r.line.isSome then mset n r.bay (r.seq + 1) else n) []
      .next ((m.launch (.of c (.waiting (m.dirty.filter m.psLine) needs []))).trySeal c.id)) m

/-- A line of a seal's set has been sent as a record: from now its acknowledgement counts. -/
def Mach.sealSent (m : Mach) (l b s : Nat) : Mach :=
  { m with acts := m.acts.map fun a => match a.work with
    | .waiting lines needs seals =>
      if smem lines l then { a with work := .waiting (sdel lines l) (mset needs b (s + 1)) seals } else a
    | _ => a }

/-! ### The sweep (R363) -/

/-- The PRIMARY's sweep is over once every line of it is acknowledged. -/
def Mach.trySweep (m : Mach) : Mach :=
  if m.psPrimary && m.pair.state == .resync && m.pair.sweepLeft.isEmpty then
    ((m.putFragment (fragment 5 0 1 [])).psState .paired 3).trySeals
  else m

/-- The handshake has passed on this module: RESYNC, unless the partition is not ACTIVE (R362, R370). The KEM pair is
discarded (R386). -/
def Mach.psResync (m : Mach) : Mach :=
  if (m.part m.psPart).state ≠ .active then m.psFailClose rSTATE (0x180003 + m.psPart * 256)
  else
    let lines := if m.psPrimary then m.psLines else []
    let p := m.pair
    let m := { m with
      dirty := lines.foldl sadd m.dirty
      pair := { p with
        seq := [], ackedSeq := [], unacked := [], sweepLeft := lines, lastHeard := m.now, lastBeat := m.now,
        queue := if m.psPrimary then lines ++ p.queue.filter fun l => !m.psLine l else p.queue,
        ackDue := [], sealed := [], writer := none, gathered := [], kemDraw := 0 } }
    let m := (m.setObj O.PS_ENABLE 0 1).psState .resync 2
    let m := match p.writer with
      | some w => m.answerOwed w 0 0 0
      | none => m
    m.trySweep

/-! ### Rows of the PRIMARY -/

/-- The line a bay's memory controller sends next: the first of its package in the order of their DIRTY bits, while the
stream is open and a slot of the bay's ring is free (R353, R355, R357). -/
def Mach.psCandidate (m : Mach) (b : Nat) : Option Nat :=
  if (m.pair.state == .resync || m.pair.state == .paired) && m.psPrimary && m.linkUp && m.issues b && m.psRoom b then
    m.pair.queue.find? fun l => l / packageLines == b && smem m.dirty l && m.psLine l
  else none

/-- The line is read, its DIRTY bit cleared, and the record sent (R357). -/
def Mach.sendLine (m : Mach) (b l : Nat) : Mach :=
  let bad := m.rdPoison (l * 256) 256
  let plain := if bad then zerosB 256 else m.rd (l * 256) 256
  let s := m.psNext b
  let m := { m with dirty := sdel m.dirty l, pair := { m.pair with queue := m.pair.queue.filter (· != l) } }
  (m.putRecord b 1 (boolNat bad) (l * 256) 0 plain (some l)).sealSent l b s

/-- PS_SEND_LINE (R357): each bay sends for itself. A line lent to a tile of a bay that sleeps waits for its wake
(R408). -/
def psSendLine (b : Nat) (errs : List ReadErr) (m : Mach) : Res :=
  match m.psCandidate b with
  | none => .next m
  | some l =>
    let bs := m.storeBays (l * 256) 256
    if bs.all m.bayUp then .next ((m.takeReads errs [(l * 256, 256)]).sendLine b l) else .next (m.wakeBays bs)

/-- ACKED (R359): the MIRROR has applied records below `v` of a bay; writes held for them go on. -/
def acked (b v : Nat) (m : Mach) : Res :=
  let m := m.setWindow (ackedOff b) (leBytes 8 v)
  if !(m.psPrimary && (m.pair.state == .resync || m.pair.state == .paired)) || v ≤ m.psAcked b || m.psNext b < v then
    .next m
  else
    let gone := m.pair.unacked.filter fun r => r.bay == b && decide (r.seq < v)
    let m := m.setPair { m.pair with
      ackedSeq := mset m.pair.ackedSeq b v
      unacked := m.pair.unacked.filter fun r => !(r.bay == b && decide (r.seq < v))
      sweepLeft := gone.foldl (fun s r => match r.line with | some l => sdel s l | none => s) m.pair.sweepLeft }
    .next m.trySweep.trySeals.resumeWrites

/-! ### Rows of the MIRROR -/

/-- ACKED of a bay advances in the PRIMARY's window (R358). -/
def Mach.sendAcked (m : Mach) (b : Nat) : Mach :=
  let n := m.psNext b
  (m.setPair { m.pair with ackedSeq := mset m.pair.ackedSeq b n, ackDue := mdel m.pair.ackDue b }).peerWrite
    (ackedOff b) (leBytes 8 n)

/-- A mirrored line written on the MIRROR: no DIRTY bit of its own (R353). -/
def Mach.mirrorLine (m : Mach) (addr : Nat) (v : Bytes) (poison : Bool) : Mach :=
  match m.lentAt addr with
  | none => m.putLine (lineOf addr) 0 v poison
  | some _ =>
    { m.wrPiece (addr / 256 * 256) v poison with dirty := m.dirty, pair := m.pair, mirrorWrites := m.mirrorWrites }

/-- A record that opened: a line is written, or a SEAL of its bay noted (R358, R360). -/
def Mach.applyRecord (m : Mach) (b : Nat) (rec_ d : Bytes) : Mach :=
  if fld rec_ 0 1 = 1 then
    let bad := (fld rec_ 1 1).testBit 0
    m.mirrorLine (fld rec_ 16 8) (if bad then zerosB 256 else bytesAt d 0 256) bad
  else
    let done := (b, fld rec_ 24 6) :: m.pair.sealed.filter fun x => x.1 != b
    let step := fld rec_ 24 6
    if m.psBays.all fun q => done.contains (q, step) then
      (m.setPair { m.pair with sealed := [] }).setObj O.PS_LAST_SEAL 0 step
    else m.setPair { m.pair with sealed := done }

/-- PS_APPLY_RECORD (R358): the record stands in the slot of the bay's next number. -/
def psApplyRecord (b : Nat) (rec_ : Bytes) (m : Mach) : Res :=
  let m := m.setWindow (slotOff b (m.psNext b)) rec_
  if m.psPrimary || !(m.pair.state == .resync || m.pair.state == .paired) then .next m
  else
    let kind := fld rec_ 0 1
    let s := m.psNext b
    let head := bytesAt rec_ 0 32
    let plain := match m.pair.key with
      | some k => Config.gcmOpen k (recordNonce b s) head (bytesAt rec_ 32 272)
      | none => none
    match (if (kind = 1 ∨ kind = 2) ∧ fld rec_ 2 1 = b ∧ fld rec_ 8 8 = s then plain else none) with
    | none => .next ((m.bump O.PS_REJECTS 0 1).psBreak 5)
    | some d =>
      let m := ((m.applyRecord b rec_ d).setPair { (m.applyRecord b rec_ d).pair with
        seq := mset (m.applyRecord b rec_ d).pair.seq b (s + 1) }).bump O.PS_RECORDS_APPLIED 0 1
      if s + 1 ≥ m.psAcked b + 4 then .next (m.sendAcked b)
      else if (mget m.pair.ackDue b).isSome then .next m
      else .next (m.setPair { m.pair with ackDue := mset m.pair.ackDue b m.now })

/-- PS_ACK_TIMER (R358). -/
def psAckTimer (b : Nat) (m : Mach) : Res :=
  match mget m.pair.ackDue b with
  | none => .next m
  | some t => .next ((m.upTo (t + 1000)).sendAcked b)

/-! ### Either module -/

def Mach.psLive (m : Mach) : Bool := m.pair.state == .resync || m.pair.state == .paired

/-- HEARTBEAT (R361): every 100 µs in RESYNC and PAIRED. -/
def heartbeat (m : Mach) : Res :=
  if !m.psLive then .next m
  else
    let m := m.upTo (m.pair.lastBeat + 100000)
    .next ((m.setPair { m.pair with lastBeat := m.now }).peerWrite heartbeatOff (leBytes 8 m.now))

/-- PEER_HEARTBEAT: the partner's write restarts the measurement of PS_PEER_TIMEOUT. -/
def peerHeartbeat (t : Nat) (m : Mach) : Res :=
  if !m.plinth.inputOn then .next m
  else .next ((m.setWindow heartbeatOff (leBytes 8 t)).setPair { m.pair with peerTime := t, lastHeard := m.now })

/-- PS_PEER_TIMEOUT (R361). -/
def psPeerTimeout (m : Mach) : Res :=
  if !m.psLive then .next m
  else .next ((m.upTo (m.pair.lastHeard + m.obj O.PS_PEER_TIMEOUT 0)).psBreak 4)

/-- PS_HANDSHAKE_TIMEOUT (R362): 100 ms after the enable with no message from the partner. -/
def psHandshakeTimeout (m : Mach) : Res :=
  if m.pair.state ≠ .handshake ∨ m.pair.seenNumber ≠ 0 then .next m
  else .next ((m.upTo (m.pair.beganAt + 100000000)).psFail rLINK O.PS_PEER_BAR4 7)

/-- PS_RESET (R336, R361): nothing is sent; counters clear and DIRTY bits stay. -/
def Mach.psReset (m : Mach) : Mach :=
  let w := m.pair.writer
  let m := (m.setPair { m.pair with writer := none }).psUnpair 8
  let m := [O.PS_RECORDS_SENT, O.PS_RECORDS_APPLIED, O.PS_HOLD_NS, O.PS_REJECTS].foldl (fun s o => s.setObj o 0 0) m
  match w with
  | some w => m.answerOwed w rSTATE (O.PS_ENABLE / 256) (O.PS_ENABLE % 256)
  | none => m

/-- PS_ENABLE written 0 (R361). -/
def Mach.psDisable (m : Mach) : Mach := if m.pair.state = .unpaired then m else m.sendClose.psUnpair 7

/-! ### Messages received (R385, R386) -/

/-- A message of a kind reaches the handshake area; it counts when its NUMBER has changed. -/
def psMessage (kind : Nat) (b : Bytes) (m : Mach) (k : Bytes → Mach → Mach) : Res :=
  if fld b 0 1 ≠ kind then cannot "the fragment is of another kind"
  else
  let m := m.setWindow handshakeOff b
  if fld b 8 8 = m.pair.seenNumber ∨ m.pair.state = .unpaired ∨ fld b 4 2 > 4064 then .next m
  else .next (k (bytesAt b 32 (fld b 4 2)) (m.setPair { m.pair with seenNumber := fld b 8 8 }))

/-- The ACK of a fragment just received. -/
def Mach.sendAck (m : Mach) (b : Bytes) : Mach := m.putFragment (fragment 7 0 1 (bytesAt b 8 8))

/-- HELLO (R386 step 1). -/
def hello (b : Bytes) (m : Mach) : Res :=
  psMessage 1 b m fun x m =>
    if m.pair.state ≠ .handshake then m
    else if fld x 2 2 ≠ maskOf m.psBays then m.psFailClose rPARTITION O.PS_PARTITION
    else if fld x 0 1 = m.obj O.PS_ROLE 0 then m.psFailClose rKEY O.PS_ROLE
    else if m.psPrimary then m.sendAck b
    else
      let r := m.report m.psPart true (bytesAt x 8 32) (Config.kemPublic m.pair.kemDraw)
      let m := (m.sendAck b).setPair { m.pair with
        sentNumber := m.pair.sentNumber + 1, hashM := hash256 (bytesAt r 0 1536) }
      m.sendFragments (reportFragments r)

/-- The PRIMARY has the MIRROR's report: its own report and ENCAP follow (R386 steps 3 and 4). -/
def Mach.primaryReport (m : Mach) (r : Bytes) : Mach :=
  let hM := hash256 (bytesAt r 0 1536)
  let own := m.report m.psPart true hM (Config.kemPublic m.pair.kemDraw)
  let hP := hash256 (bytesAt own 0 1536)
  let e := Config.kemEncap (bytesAt r 320 1184) m.drawCount
  let s := pairSecret e.1 hM hP
  let m := { m with drawCount := m.drawCount + 1 }.setPair { m.pair with
    hashM := hM, hashP := hP, key := some (fld s 0 32), confirmValue := bytesAt s 32 32, gathered := [] }
  m.sendFragments (reportFragments own ++ [fragment 3 0 1 (bytesAt e.2 0 1088)])

/-- REPORT (R386 steps 2 and 3): fragments are gathered, and the whole report is verified. -/
def report (b : Bytes) (m : Mach) : Res :=
  psMessage 2 b m fun x m =>
    if m.pair.state ≠ .handshake then m
    else
      let r := m.pair.gathered ++ x
      let m := (m.setPair { m.pair with gathered := r }).sendAck b
      if fld b 1 1 + 1 < fld b 2 1 then m
      else
        let nonce := if m.psPrimary then leBytes 32 (Config.trng m.pair.nonce) else m.pair.hashM
        if fld r 8 2 ≠ maskOf m.psBays then m.psFailClose rPARTITION O.PS_PARTITION
        else if !m.reportOk r nonce then m.psFailClose rKEY O.PAIR_PEER_ID
        else if m.psPrimary then m.primaryReport r
        else m.setPair { m.pair with hashP := hash256 (bytesAt r 0 1536), gathered := [] }

/-- ENCAP (R386 step 5): the MIRROR, which has verified the PRIMARY's report, derives the key and sends CONFIRM. -/
def encap (b : Bytes) (m : Mach) : Res :=
  psMessage 3 b m fun x m =>
    if m.pair.state ≠ .handshake ∨ m.psPrimary then m
    else if m.pair.hashP.isEmpty then m.psFailClose rKEY O.PAIR_PEER_ID
    else
      let s := pairSecret (Config.kemDecap m.pair.kemDraw (bytesAt x 0 1088)) m.pair.hashM m.pair.hashP
      let m := m.sendAck b
      (m.setPair { m.pair with key := some (fld s 0 32), confirmed := true }).sendFragments
        [fragment 4 0 1 (bytesAt s 32 32)]

/-- CONFIRM (R386 step 6): the PRIMARY matches the value. -/
def confirm (b : Bytes) (m : Mach) : Res :=
  psMessage 4 b m fun x m =>
    if m.pair.state ≠ .handshake ∨ !m.psPrimary then m
    else if m.pair.confirmValue.isEmpty || bytesAt x 0 32 != m.pair.confirmValue then
      m.psFailClose rKEY O.PAIR_PEER_ID
    else (m.sendAck b).psResync

/-- ACK (R385): the writer may send its next fragment; the ACK of CONFIRM takes the MIRROR to RESYNC. -/
def ack (b : Bytes) (m : Mach) : Res :=
  psMessage 7 b m fun x m =>
    if m.pair.awaiting ≠ some (fld x 0 8) then m
    else
      let m := m.setPair { m.pair with awaiting := none }
      if m.pair.state = .handshake ∧ m.pair.confirmed ∧ m.pair.outFrags.isEmpty then m.psResync
      else m.pumpFragments

/-- SWEEP_DONE (R363). -/
def sweepDone (b : Bytes) (m : Mach) : Res :=
  psMessage 5 b m fun _ m =>
    if m.pair.state = .resync ∧ !m.psPrimary then m.psState .paired 3 else m

/-- CLOSE (R361). -/
def close (b : Bytes) (m : Mach) : Res :=
  psMessage 6 b m fun _ m =>
    match m.pair.state with
    | .handshake => m.psFail rKEY O.PAIR_PEER_ID 6
    | .resync | .paired => m.psUnpair 6
    | _ => m

end Sys2Proof.Machine
end

