-- ==== Sys2Proof/Machine/Host.lean ====
section
/-! DEFINITION. The host link (R337 to R349): training and loss of the link, function-level resets and PERST_N,
failed host reads, and the HDM window. -/

namespace Sys2Proof.Machine

open Sys2Proof

/-! ### The link (R337, R343, R347) -/

/-- What a link may train to: the widths and the rates that R337 supports; one that achieves fewer lanes is held down
(R343). -/
def linkWidths : List Nat := [16, 8, 4]
def linkRates : List Nat := [32, 16, 8]

/-- Whether the host link's logic is powered: in RUN, and from the host stage of a start on (R426). -/
def Mach.linkPowered (m : Mach) : Bool :=
  m.modState == .run || (m.modState == .start && !m.start.halted &&
    (match m.start.stage with | some k => decide (7 ≤ k) | none => false))

def Mach.setLink (m : Mach) (state width speed : Nat) : Mach :=
  ((m.setObj O.LINK_STATE 0 state).setObj O.LINK_WIDTH 0 width).setObj O.LINK_SPEED 0 speed

/-- The link is not up: it trains where it is powered and PERST_N is released. -/
def Mach.retrain (m : Mach) : Mach := m.setLink (if m.linkPowered && m.plinth.perst then 3 else 0) 0 0

/-- The link trains where it can and is not up. -/
def Mach.tryTrain (m : Mach) : Mach := if m.obj O.LINK_STATE 0 = 0 then m.retrain else m

/-- LINK_UP: training ends at a width and a rate; a link of fewer than four lanes is held down. -/
def linkUp (mode width speed : Nat) (m : Mach) : Res :=
  if m.obj O.LINK_STATE 0 ≠ 3 then .next m
  else if !linkWidths.contains width then .next (m.setLink 0 0 0)
  else .next (m.setLink mode width speed)

/-- The COPYs that wait on a host access. -/
def Mach.hostCopies (m : Mach) : List (Act × CopyWork) :=
  m.acts.filterMap fun a => match a.copyWork? with
    | some w => if isHost w.src || isHost w.dst then some (a, w) else none
    | none => none

/-- What the loss of the link does (R347): commands that wait on a host access end with LINK, RUNNING journals stop, the
device cache is emptied, and the loss is counted. -/
def Mach.loseLink (m : Mach) : Mach :=
  let up := m.obj O.LINK_STATE 0 = 1 ∨ m.obj O.LINK_STATE 0 = 2
  let m := m.retrain
  if up then
    let m := { m with devCache := [] }
    let m := m.hostCopies.foldl (fun s x => s.failCopy x.1 x.2) m
    let m := m.acts.foldl (fun s a => match a.work, a.hostEnd with
      | .copying _, _ => s
      | _, some o => s.failHost a o
      | _, none => s) m
    ((List.range 64).foldl (fun s j => s.stopJournal j rLINK) m).bump O.LINK_DOWNS 0 1
  else m

/-- LINK_DOWN (R347). -/
def linkDown (m : Mach) : Res := .next m.loseLink

/-! ### Resets from the host (R336, R339) -/

/-- Registers of a function back to their reset values: its mailbox and its vectors. -/
def Mach.resetFunction (m : Mach) (fn : Nat) : Mach :=
  { m with
    mailboxes := mdel m.mailboxes fn
    msix := m.msix.filter fun e => e.1 / 2048 != fn
    slotWrites := m.slotWrites.filter fun w => w.path.isMgmt || w.path.fn != fn
    slotReads := m.slotReads.filter fun w => w.path.isMgmt || w.path.fn != fn }

/-- Mailbox and MSI-X registers of every function back to their reset values (R339 step 4). -/
def Mach.resetFunctions (m : Mach) : Mach := (List.range 17).foldl Mach.resetFunction m

/-- Reset of PF0, and PERST_N while the module runs (R339). -/
def Mach.resetPf0 (m : Mach) (cause : Nat) : Mach :=
  let m := m.resetFunctions
  let m := (List.range 16).foldl (fun s p => s.partitionReset p cause) m
  { m.psReset.setObj O.HDM_ENABLE 0 0 with devCache := [] }

/-- VF_FLR (R326, R339). -/
def vfFlr (vf : Nat) (m : Mach) : Res :=
  if m.modState ≠ .run then .next (m.resetFunction vf)
  else .next ((m.resetFunction vf).partitionReset (vf - 1) 2)

/-- PF0_FLR (R339): in a start whose link is up, the registers of the functions are all there is to reset. -/
def pf0Flr (m : Mach) : Res :=
  if m.modState ≠ .run then .next (if m.linkPowered then m.resetFunctions else m) else .next (m.resetPf0 1)

/-- PERST_ASSERT (R339, R347). -/
def perstAssert (m : Mach) : Res :=
  let m := { m with plinth := { m.plinth with perst := false } }
  .next ((if m.modState = .run then m.resetPf0 1 else m).loseLink)

/-- PERST_RELEASE (R350). -/
def perstRelease (m : Mach) : Res := .next ({ m with plinth := { m.plinth with perst := true } }.tryTrain)

/-! ### A host read that fails (R345) -/

/-- The field of a command in validation that names host memory first, or 0xFF; an IMPORT reads its image list. -/
def Mach.namedHost (m : Mach) (c : Cmd) : Nat :=
  if c.opcode = 14 then 48
  else ((handleFields c).find? fun o => c.f o 4 != 0 && isHost (m.readHandle c.part (c.f o 4)).1.base ||
    (c.f o 4 != 0 && isHost (m.readHandle c.part (c.f o 4)).1.scale)).getD 0xFF

/-- HOST_READ_TIMEOUT: a read of host memory for a command returns nothing. -/
def hostReadTimeout (id : CmdId) (m : Mach) : Res :=
  match m.received.find? fun c => decide (c.id = id) with
  | some c => .next ((m.bump O.LINK_FAILS 0 1).refuse c rLINK (m.namedHost c))
  | none =>
    match m.act? id with
    | none => cannot "the command has no host read"
    | some a =>
      match a.copyWork? with
      | some w => if isHost w.src then .next ((m.bump O.LINK_FAILS 0 1).failCopy a w) else cannot "the COPY reads no host memory"
      | none =>
        match a.work, a.hostInput with
        | .copying _, _ => cannot "the COPY runs its list"
        | _, some o => .next ((m.bump O.LINK_FAILS 0 1).failHost a o)
        | _, none => cannot "the command has no host read outstanding"

/-! ### The HDM window (R348, R349) -/

/-- HDM_COMMIT: the host commits the decoder of BAR2 (R348). -/
def Mach.commitHdm (m : Mach) (base size : Nat) : Mach :=
  if size ≠ m.obj O.HDM_SIZE 0 then { m with hdmError := true }
  else { m with hdmCommitted := some base, hdmError := false }

def hdmCommit (base size : Nat) (m : Mach) : Res := if !m.linkUp then .next m else .next (m.commitHdm base size)

/-- The device address of `len` bytes at a host address inside the committed range. -/
def Mach.hdmAt (m : Mach) (addr len : Nat) : Option Nat :=
  match m.hdmCommitted with
  | some b => if b ≤ addr ∧ addr + len ≤ b + m.obj O.HDM_SIZE 0 then some (m.obj O.HDM_DEVICE_BASE 0 + (addr - b)) else none
  | none => none

/-- HDM_READ: through the protection path of any other access, waking a bay that holds a lent piece of the line (R408);
a disabled window counts a drop. -/
def hdmRead (addr len : Nat) (errs : List ReadErr) (m : Mach) : Res :=
  match m.hdmAt addr len with
  | none => cannot "the address is outside the committed range"
  | some a =>
    if !m.linkUp then cannot "the link is down"
    else if m.obj O.HDM_ENABLE 0 = 0 then .next { m.bump O.HDM_DROPS 0 1 with returned := (zerosB len, true) }
    else
      let m := (m.wakeBays (m.storeBays a len)).takeReads errs [(a, len)]
      .next { m with returned := (m.rd a len, m.rdPoison a len) }

/-- HDM_WRITE: merged into its line, which is read. A CXL.mem write is none of the accesses R346 counts in POISON_IN. -/
def hdmWrite (addr : Nat) (data : Bytes) (poison : Bool) (errs : List ReadErr) (m : Mach) : Res :=
  match m.hdmAt addr data.length with
  | none => cannot "the address is outside the committed range"
  | some a =>
    if !m.linkUp then cannot "the link is down"
    else if m.obj O.HDM_ENABLE 0 = 0 then .next (m.bump O.HDM_DROPS 0 1)
    else
      let m := (m.wakeBays (m.storeBays a data.length)).takeReads errs [(a, data.length)]
      .next (m.wr a data poison)

/-! ### The component registers of BAR2 (R340, R348; log entry 130) -/

/-- Offsets of the HDM decoder's registers. -/
def hdmDecoder : Nat := 0x1200
def hdmControl : Nat := hdmDecoder + 4
def hdmBaseLow : Nat := hdmDecoder + 0x10
def hdmBaseHigh : Nat := hdmDecoder + 0x14
def hdmSizeLow : Nat := hdmDecoder + 0x18
def hdmSizeHigh : Nat := hdmDecoder + 0x1C
def hdmCommitReg : Nat := hdmDecoder + 0x20

/-- The value a component register was last written with, or the one it starts with: the size registers advertise
HDM_SIZE (R348). -/
def Mach.component (m : Mach) (off : Nat) : Nat :=
  mgetD m.components off
    (if off = hdmSizeLow then m.obj O.HDM_SIZE 0 % 2 ^ 32 else if off = hdmSizeHigh then m.obj O.HDM_SIZE 0 / 2 ^ 32 else 0)

/-- A register of the RAS or the link capability, whose contents the spec does not give. -/
def rasOrLink (off : Nat) : Bool := decide (0x1100 ≤ off ∧ off < 0x1158 ∨ 0x1180 ≤ off ∧ off < 0x11B8)

/-- An aligned 32-bit read of a component register. -/
def Mach.readComponent (m : Mach) (off : Nat) : Nat × Mach :=
  if off = 0x1000 then (0x03110001, m)
  else if off = 0x1004 then (0x10010002, m)
  else if off = 0x1008 then (0x18010004, m)
  else if off = 0x100C then (0x20010005, m)
  else if rasOrLink off then let x := m.free; (x.1 % 2 ^ 32, x.2)
  else if off = hdmCommitReg then
    (m.component off / 2 ^ 12 * 2 ^ 12 + boolNat m.hdmError * 2 ^ 11 + boolNat m.hdmCommitted.isSome * 2 ^ 10 +
      m.component off % 2 ^ 10, m)
  else if [hdmControl, hdmBaseLow, hdmBaseHigh, hdmSizeLow, hdmSizeHigh].contains off then (m.component off, m)
  else (0, m)

/-- An aligned 32-bit write: the decoder's registers hold it, and COMMIT acts as HDM_COMMIT with the base and the size
they hold. -/
def Mach.writeComponent (m : Mach) (off v : Nat) : Mach :=
  let m := if [hdmControl, hdmBaseLow, hdmBaseHigh, hdmSizeLow, hdmSizeHigh, hdmCommitReg].contains off then
      { m with components := mset m.components off v }
    else m
  if off = hdmCommitReg ∧ v.testBit 9 ∧ m.linkUp then
    m.commitHdm (m.component hdmBaseHigh * 2 ^ 32 + m.component hdmBaseLow)
      (m.component hdmSizeHigh * 2 ^ 32 + m.component hdmSizeLow)
  else m

/-! ### The pointing window of BAR4 (R340, R354; log entry 129) -/

/-- Whether an offset lies in a region of the window. -/
def windowOffset (off : Nat) : Bool :=
  decide (off < 0x20088) || decide (handshakeOff ≤ off ∧ off < 0x22000)

/-- An aligned 32-bit read; a reserved offset reads as zero. -/
def Mach.readWindow (m : Mach) (off : Nat) : Nat := if windowOffset off then leNat (m.windowAt off 4) else 0

/-- What the message in the handshake area is (R385). -/
def handshakeRow (m : Mach) : Res :=
  let b := m.windowAt handshakeOff 4096
  match fld b 0 1 with
  | 1 => hello b m
  | 2 => report b m
  | 3 => encap b m
  | 4 => confirm b m
  | 5 => sweepDone b m
  | 6 => close b m
  | 7 => ack b m
  | _ => .next m

/-- A write of 4 or 8 aligned bytes: it stands in the window, and what completes an ACKED value, a HEARTBEAT or the
NUMBER of a message acts as the row of that arrival. A write to a reserved offset is ignored. -/
def writeWindowReg (off : Nat) (b : Bytes) (m : Mach) : Res :=
  if !windowOffset off then .next m
  else
    let m := m.setWindow off b
    if 0x20000 ≤ off ∧ off < heartbeatOff then acked ((off - 0x20000) / 8) (leNat (m.windowAt (off / 8 * 8) 8)) m
    else if off / 8 * 8 = heartbeatOff then peerHeartbeat (leNat (m.windowAt heartbeatOff 8)) m
    else if off / 8 * 8 = handshakeOff + 8 then handshakeRow m
    else .next m

end Sys2Proof.Machine
end

