-- ==== Sys2Proof/Machine/Plinth.lean ====
section
/-! DEFINITION. The plinth (R391 to R419): the module's states, what it samples, its rule table, the governor
and the thermal cap, the core PLL, bay power, standby, and the 54 V input (R472, R478). -/

namespace Sys2Proof.Machine

open Sys2Proof

def Mach.setPlinth (m : Mach) (p : Plinth) : Mach := { m with plinth := p }

/-- The plinth works: the input is present and its own ROM has passed S0 (R426). -/
def Mach.plinthUp (m : Mach) : Bool := m.plinth.inputOn && m.start.stage != some 0

/-- The next multiple of a period after the last one taken, and not before now. -/
def nextTick (period last now : Nat) : Nat :=
  max ((last / period + 1) * period) ((now + period - 1) / period * period)

/-! ### Module states (R410) -/

/-- MOD_EN high on a mated module, STANDBY 0, and no STANDBY rule fired (R350, R402, R410). Fixed rule 5 is
MOD_EN itself. -/
def Mach.wanted (m : Mach) : Bool :=
  m.plinth.seated && !m.plinth.prsnt && m.plinth.modEn && m.obj O.STANDBY 0 == 0 &&
    !(List.range 32).any fun n => decide (8 ≤ n) && m.ruleFired n && (m.rule n).action == 7

/-- A SHUTDOWN or REMOVAL rule is fired: it, and the cause it gives (R402, R403, R410). -/
def Mach.shutdownRule (m : Mach) : Option Nat :=
  match (List.range 32).find? fun n => m.ruleFired n && (m.rule n).action == 8 with
  | some n => some (if n < 3 then n + 1 else 4)
  | none => if (m.firedRules 10).isEmpty then none else some 5

/-- What survives without the rails: the plinth, its registers, the field network, and host memory. The eFuse is open
and every rail off (R410; log entry 131). -/
def Mach.powerDown (m : Mach) : Mach :=
  { Mach.reset with
    now := m.now
    freeCount := m.freeCount
    drawCount := m.drawCount
    dict := m.dict
    mem := m.mem.filter fun c => decide (hostBase ≤ c.1)
    hostPoison := m.hostPoison
    errorLog := m.errorLog
    seqs := m.seqs
    slotWrites := m.slotWrites.filter fun w => w.path.isMgmt
    slotReads := m.slotReads.filter fun w => w.path.isMgmt
    umpor := m.umpor
    cache := m.cache
    notices := m.notices
    nextToken := m.nextToken
    outbox := m.outbox
    addressTaken := m.addressTaken
    neighbours := m.neighbours
    soliciting := m.soliciting
    flagAt := m.flagAt
    plinth := { m.plinth with draining := none, pllLost := [], eFuse := false, rails := [] }
    start := { m.start with stage := none, halted := false }
    trngFailed := m.trngFailed }

/-- The module goes to OFF; a cause above 0 is a shutdown (R410). -/
def Mach.toOff (m : Mach) (cause : Nat) : Mach :=
  let m := if m.linkUp && cause != 5 then m.bump O.LINK_DOWNS 0 1 else m
  let m := ((m.powerDown.setLink 0 0 0).setObj O.PLL_LOCK 0 0).setObj O.SHUTDOWN_CAUSE 0 cause
  if cause = 0 then m else (m.alert 3).bump O.SHUTDOWNS 0 1

/-- Objects that keep their value across a module start while the input is present (R420, R443), readings of
the plinth among them. -/
def persists (key : Nat) : Bool :=
  [O.STARTS, O.SHUTDOWNS, O.ENERGY, O.ARM_ERR_LIMIT, O.MEM_ERR_LIMIT, O.TILE_WATCHDOG, O.INPUT_VOLTAGE,
    O.INPUT_CURRENT, O.INPUT_POWER, O.JUNCTION, O.COOLANT_IN, O.COOLANT_OUT, O.FLD_LINK].contains key ||
    decide (0x110100 ≤ key ∧ key < 0x110400) ||
    (decide (0x600000 ≤ key) && [0x0003, 0x0004].contains (key % 0x10000))

/-- A module start begins: every object at its default, every report zeros, STARTS raised (R311, R425). The governor
begins at level 0 (R420). -/
def Mach.moduleStart (m : Mach) : Mach :=
  let m := m.powerDown
  { m with
    dict := m.dict.filter fun e => persists e.1
    seqs := []
    errorLog := []
    trngFailed := false
    flagAt := []
    plinth := { m.plinth with
      level := 0
      overCount := 0
      pausedNs := 0
      pausedSince := none
      table := fixedRules
      rules := m.plinth.rules.take 8 ++ List.replicate 24 RuleRun.reset
      thermalOn := false
      thermalMw := 1000000
      errInSecond := [] }
    start := { Start.reset with fuses := m.start.fuses, fencedPrior := m.start.fencedPrior } }.bump O.STARTS 0 1

/-- A stage begins; the host stage trains the link. -/
def Mach.beginStage (m : Mach) (k : Nat) : Mach :=
  ({ m with start := { m.start with stage := some k, beganAt := m.now } }.setObj O.START_STAGE 0 k).tryTrain

/-- Stage S1 begins: the eFuse closes (R410), and SLOT_ID is latched (R478). -/
def Mach.beginS1 (m : Mach) : Mach :=
  { m with modState := .start, plinth := { m.plinth with slotId := m.plinth.strap, eFuse := true } }.beginStage 1

/-- The transitions that MOD_EN, STANDBY and the rules call for (R410). The first entry into START goes on
with the start that insertion began (R350). -/
def Mach.follow (m : Mach) : Mach :=
  match m.modState with
  | .off =>
    if m.plinthUp && m.wanted && m.shutdownRule.isNone then
      (if m.obj O.START_STAGE 0 = 0 then m else m.moduleStart).beginS1
    else m
  | .start => if m.wanted then m else m.toOff 0
  | .run => if m.wanted || m.plinth.draining.isSome then m else m.setPlinth { m.plinth with draining := some m.now }
  | .standby => m

/-! ### Samples (R396 to R398) -/

/-- Analogue input codes that are measured. -/
def measured (c : Nat) : Bool :=
  decide (c < 0x18 ∨ (0x20 ≤ c ∧ c < 0x38) ∨ (0x40 ≤ c ∧ c < 0x63) ∨ c = 0x64 ∨ c = 0x65)

def sampleAt (s : Sample) (c : Nat) : Option Nat := (s.find? fun e => e.1 == c).map (·.2)

def le32 (a b : Nat) : Bool := Ext.le (dec32 a) (dec32 b)

/-- The greatest of some FP32 codes. -/
def max32 : List Nat → Option Nat
  | [] => none
  | x :: r => some (r.foldl (fun a b => if le32 a b then b else a) x)

/-- y + (x − y) × 2^−k. -/
def filterStep (k y x : Nat) : Nat :=
  ((do fadd y (← fmul (← fsub x y) ((127 - k) * 2 ^ 23))) Flg.none).1

/-- An input's filter takes a sample; the first sets it. -/
def Mach.filterIn (m : Mach) (c x : Nat) : Mach :=
  let k := bits (m.obj O.FILTER 0) (8 * c) 8
  let y := match mget m.plinth.filtered c with
    | some y => filterStep k y x
    | none => x
  m.setPlinth { m.plinth with filtered := mset m.plinth.filtered c y }

/-- The median of a site's last three raw samples; of two, one of them, which the spec does not say. -/
def Mach.median (m : Mach) (h : List Nat) : Nat × Mach :=
  match h with
  | [x, y] => let f := m.free; (if f.1 % 2 = 0 then x else y, f.2)
  | _ => ((sortBy le32 h).getD (h.length / 2) 0, m)

/-- One measured input, and for a temperature site its median beside it. -/
def Mach.sampleInput (m : Mach) (c x : Nat) : Mach × Option Nat :=
  if 0x40 ≤ c ∧ c < 0x60 then
    let h := (x :: mgetD m.plinth.siteHistory c []).take 3
    let d := (m.setPlinth { m.plinth with siteHistory := mset m.plinth.siteHistory c h }).median h
    (d.2.filterIn c d.1, some d.1)
  else (m.filterIn c x, none)

/-- Every measured input of a sample; the medians of the sites. -/
def Mach.sampleInputs (m : Mach) (smp : Sample) : Mach × List Nat :=
  smp.foldl (fun s e => if measured e.1 then
      let r := s.1.sampleInput e.1 e.2
      (r.1, s.2 ++ r.2.toList)
    else s) (m, [])

def Mach.filteredAt (m : Mach) (c : Nat) : Nat := mgetD m.plinth.filtered c 0
def Mach.setInput (m : Mach) (c v : Nat) : Mach := m.setPlinth { m.plinth with filtered := mset m.plinth.filtered c v }

def fp32OfNat (n : Nat) : Nat := (rne32 (.ofNat n) Flg.none).1
def mul32 (a b : Nat) : Nat := (fmul a b Flg.none).1

/-- The inputs that follow from others: junction, coolant rise, and the digital ones (R397, R400). -/
def Mach.deriveInputs (m : Mach) (smp : Sample) : Mach :=
  let m := match max32 ((m.plinth.filtered.filter fun e => decide (0x40 ≤ e.1 ∧ e.1 < 0x60)).map (·.2)) with
    | some j => m.setInput 0x63 j
    | none => m
  let m := match sampleAt smp 0x64, sampleAt smp 0x65 with
    | some i, some o => m.filterIn 0x66 (fsub o i Flg.none).1
    | _, _ => m
  let m := [0x70, 0x71, 0x72].foldl (fun s c => match sampleAt smp c with | some v => s.setInput c v | none => s) m
  let recent := fun (l : List Nat) => l.filter fun (t : Nat) => decide (m.now < t + 1000000000)
  let m := m.setPlinth { m.plinth with
    rxInSecond := recent m.plinth.rxInSecond, errInSecond := recent m.plinth.errInSecond }
  ((m.setInput 0x73 (fp32OfNat m.plinth.rxInSecond.length)).setInput 0x74 (fp32OfNat (m.obj O.LINK_STATE 0))).setInput
    0x75 (fp32OfNat m.plinth.errInSecond.length)

/-- The pins (R477, R478): SLOT_ID is latched at the first sample that finds the module mated. -/
def Mach.samplePins (m : Mach) (smp : Sample) : Mach :=
  let p := m.plinth
  let pin := fun (c : Nat) (old : Bool) => match sampleAt smp c with | some v => v != 0 | none => old
  let p := { p with prsnt := pin 0x70 p.prsnt, modEn := pin 0x71 p.modEn, strap := (sampleAt smp 0x76).getD p.strap % 16 }
  m.setPlinth (if !p.seated && sampleAt smp 0x70 == some 0 then { p with seated := true, slotId := p.strap } else p)

/-! ### Readings (R388, R418, R420, R421, R424) -/

/-- The objects that show filtered inputs. -/
def Mach.storeReadings (m : Mach) : Mach :=
  let f := m.filteredAt
  let m := [(O.INPUT_VOLTAGE, 0x60), (O.INPUT_CURRENT, 0x61), (O.INPUT_POWER, 0x62), (O.JUNCTION, 0x63),
    (O.COOLANT_IN, 0x64), (O.COOLANT_OUT, 0x65)].foldl (fun s (e : Nat × Nat) => s.setObj e.1 0 (f e.2)) m
  let m := (List.range 24).foldl (fun s r => (s.setObjAt 0x1101 (r + 1) (f r)).setObjAt 0x1102 (r + 1) (f (0x20 + r))) m
  let m := (List.range 32).foldl (fun s n => s.setObjAt 0x1103 (n + 1) (f (0x40 + n))) m
  (List.range 16).foldl (fun s b =>
    (s.setObj O.BAY_POWER b (mul32 (f b) (f (0x20 + b)))).setObj O.BAY_TEMP b (f (0x40 + b))) m

/-- Input energy, over the sample interval (log entry 24). -/
def Mach.addEnergy (m : Mach) : Mach :=
  let e := m.plinth.energyFrac + milli (m.filteredAt 0x62)
  (m.setPlinth { m.plinth with energyFrac := e % 10000 }).bump O.ENERGY 0 (e / 10000)

/-- Nominal voltage of a rail in mV (R474). -/
def railMv (r : Nat) : Nat :=
  if r < 16 then 700 else if r = 16 then 750 else if r ≤ 18 then 800 else if r ≤ 20 then 850
  else if r ≤ 22 then 500 else 1050

/-- A reading in units of 2^−149, which every FP32 value is a multiple of. -/
def fineOf (code : Nat) : Int :=
  match dec32 code with
  | .fin neg n d => if neg then -((n * 2 ^ 149 / d : Nat) : Int) else ((n * 2 ^ 149 / d : Nat) : Int)
  | _ => 0

/-- The multiple of a step of `num/den` nearest to the mean of `n` readings whose sum is `sum` fine units, halves
upwards. -/
def nearestStep (sum : Int) (n num den : Nat) : Int :=
  let unit : Int := n * 2 ^ 149 * num
  (2 * sum * den + unit) / (2 * unit)

def ofFraction (x : Int) (den : Nat) : Nat := (rne32 (.fin (decide (x < 0)) x.natAbs den) Flg.none).1

/-- The coarsened mean of `n` readings (R388): power in steps of 5 W, a current in the steps that 5 W is at its rail's
nominal voltage, a voltage without a step. -/
def coarseMean (k : Nat) (sum : Int) (n : Nat) : Nat :=
  let amps := fun (mv : Nat) => ofFraction (nearestStep sum n 5000 mv * 5000) mv
  if k = 0x62 ∨ 0x80 ≤ k then ofFraction (nearestStep sum n 5 1 * 5) 1
  else if k = 0x61 then amps 54000
  else if 0x20 ≤ k ∧ k < 0x38 then amps (railMv (k - 0x20))
  else ofFraction sum (n * 2 ^ 149)

/-- The readings that are coarsened, with their present value. -/
def Mach.windowReadings (m : Mach) : List (Nat × Nat) :=
  let at_ := fun (k : Nat) => (k, m.filteredAt k)
  (List.range 24).map at_ ++ (List.range 24).map (fun r => at_ (0x20 + r)) ++ [at_ 0x60, at_ 0x61, at_ 0x62] ++
    (List.range 16).map fun b => (0x80 + b, m.obj O.BAY_POWER b)

/-- The window of R388 that holds now gathers the sample; a window that has ended shows. -/
def Mach.gatherWindow (m : Mach) : Mach :=
  let w := m.now / 100000000
  let p := m.plinth
  let p := if w = p.windowNo then p else { p with
    windowNo := w
    windowSum := []
    lastWindow := mset (p.windowSum.map fun e => (e.1, coarseMean e.1 e.2.1 e.2.2)) 0x90 (m.obj O.ENERGY 0 / 500 * 500) }
  m.setPlinth { p with
    windowSum := m.windowReadings.foldl (fun s (e : Nat × Nat) =>
      let x := mgetD s e.1 (0, 0)
      mset s e.1 (x.1 + fineOf e.2, x.2 + 1)) p.windowSum }

/-- P_fix and CAL of the sample interval just ended (R415). -/
def Mach.calibrate (m : Mach) (smp : Sample) : Mach :=
  let core : Nat := ((List.range 16).map fun b =>
    milli (mul32 ((sampleAt smp b).getD 0) ((sampleAt smp (0x20 + b)).getD 0))).foldl (· + ·) 0
  let m := m.setPlinth { m.plinth with pFix := (milli (m.filteredAt 0x62) : Int) - core }
  if m.plinth.activity = 0 then
    let f := m.free
    f.2.setPlinth { f.2.plinth with calNum := f.1, calDen := 1 }
  else m.setPlinth { m.plinth with calNum := core * 10, calDen := m.plinth.activity, activity := 0 }

/-! ### Rules (R401 to R403) -/

/-- A rule's condition on its input. -/
def ruleHolds (op threshold : Nat) : Option Nat → Bool
  | none => false
  | some v => if op = 1 then le32 threshold v else if op = 2 then le32 v threshold
    else op == 3 && le32 threshold v && le32 v threshold

/-- RULES as written since the last sample takes effect; a changed rule begins anew (R422). -/
def Mach.loadRules (m : Mach) : Mach :=
  let t := m.obj O.RULES 0
  let p := m.plinth
  m.setPlinth { p with
    table := t
    rules := (List.range 32).map fun n => if ruleOf t n = ruleOf p.table n then p.rules.getD n .reset else .reset }

def Mach.setRuleRun (m : Mach) (n : Nat) (r : RuleRun) : Mach :=
  m.setPlinth { m.plinth with rules := m.plinth.rules.set n r }

/-- A rule at a sample; the flag says that it fires now. -/
def Mach.stepRule (m : Mach) (medians : List Nat) (n : Nat) : Mach × Bool :=
  let r := m.rule n
  let y := m.plinth.rules.getD n .reset
  if r.flags % 2 = 0 then (m.setRuleRun n .reset, false)
  else
    let input := if n = 0 then max32 medians else mget m.plinth.filtered r.input
    let holds := ruleHolds r.op (if n = 3 then m.obj O.T_THROTTLE 0 else r.threshold) input
    let hold := if n = 1 ∧ m.plinth.prsnt then 0 else r.hold
    let held := if holds then min (y.held + 1) 65535 else 0
    let failed := if holds then 0 else min (y.failed + 1) 65535
    let latched := r.flags.testBit 1 && (m.obj O.RULE_FIRED 0).testBit n
    if !y.fired && decide (hold < held) then
      let m := m.setRuleRun n ⟨held, failed, true⟩
      let m := m.setCause O.RULE_FIRED n
      (m.moduleEvent 5 (r.action + n * 256), true)
    else (m.setRuleRun n ⟨held, failed, y.fired && !(decide (hold < failed) && !latched)⟩, false)

/-- Every rule in ascending number; the rules that fire now. -/
def Mach.stepRules (m : Mach) (medians : List Nat) : Mach × List Nat :=
  (List.range 32).foldl (fun s n =>
    let r := s.1.stepRule medians n
    (r.1, if r.2 then s.2 ++ [n] else s.2)) (m, [])

/-- What the rules that fired now, and those that are fired, do (R402). SHUTDOWN beats every other action. -/
def Mach.applyRules (m : Mach) (fresh : List Nat) : Mach :=
  match (if m.modState = .off then none else m.shutdownRule) with
  | some cause => m.toOff cause
  | none =>
    let acts := fresh.map fun n => (m.rule n).action
    let m := if acts.contains 2 then m.alert 1 else m
    let m := if acts.contains 9 then
        (m.alert 4).setPlinth { m.plinth with
          thermalOn := true, thermalMw := min m.plinth.thermalMw (milli (m.filteredAt 0x62)) }
      else m
    let m := (bitsOf 16 (fresh.foldl (fun a n => if (m.rule n).action = 5 then a ||| (m.rule n).arg else a) 0)).foldl
      Mach.askWake m
    ((bitsOf 16 m.sleepMask).foldl Mach.obeySleep m).follow

/-- The level of ALERT_N (R419): asserted while a bit of ALERT_CAUSE is set or an ALERT rule is fired. A plinth that
does not run releases it. -/
def Mach.alertN (m : Mach) : Bool :=
  m.plinthUp && (m.obj O.ALERT_CAUSE 0 != 0 || !(m.firedRules 2).isEmpty)

/-- PLINTH_SAMPLE (R396 to R402). -/
def plinthSample (smp : Sample) (m : Mach) : Res :=
  if !m.plinthUp then .next m
  else
    let t := nextTick 100000 m.plinth.sampledAt m.now
    let m := ((m.upTo t).setPlinth { m.plinth with sampledAt := t }).samplePins smp
    let x := m.sampleInputs smp
    let m := (((x.1.deriveInputs smp).storeReadings.addEnergy.gatherWindow).calibrate smp).loadRules
    let y := m.stepRules x.2
    .next (y.1.applyRules y.2)

/-- MOD_EN_HIGH (R410). -/
def modEnHigh (m : Mach) : Res :=
  .next ({ m with plinth := { m.plinth with modEn := true } }.follow)

/-- EFUSE_TRIP (R472): a closed eFuse opens on current. -/
def efuseTrip (m : Mach) : Res := .next (if m.plinth.eFuse then m.toOff 6 else m)

/-! ### Droop and the governor (R413 to R416) -/

/-- DROOP_DETECT. -/
def droopDetect (b : Nat) (m : Mach) : Res :=
  let y := m.bay b
  if m.modState ≠ .run ∨ y.power = .off ∨ y.power = .failed then .next m
  else .next ((m.setBay b { y with droop := 8, droopAt := m.now }).bump O.DROOP_EVENTS b 1)

/-- DROOP_RELEASE: 1 µs after the last detection. -/
def droopRelease (b : Nat) (m : Mach) : Res :=
  let y := m.bay b
  if y.droop = 0 then .next m
  else .next ((m.upTo (y.droopAt + 1000)).setBay b { y with droop := 0 })

/-- THERMAL_CAP after one governor interval (R416). -/
def Mach.stepThermal (m : Mach) : Nat :=
  let p := m.plinth
  let j := m.filteredAt 0x63
  let t := m.obj O.T_THROTTLE 0
  let below := Ext.lt (dec32 j) ((extAdd (dec32 t) (.fin true 2 1) Flg.none).1)
  if !p.thermalOn then p.thermalMw
  else if le32 t j then (if p.thermalMw ≤ 400000 then p.thermalMw else max 400000 (p.thermalMw - 200))
  else if below then max p.thermalMw (min 1000000 (p.thermalMw + 200))
  else p.thermalMw

/-- The level of R415 and the count of intervals above the cap, with a sum of activity energy. -/
def Mach.governLevel (m : Mach) (energy : Nat) : Nat × Nat :=
  let p := m.plinth
  let issue : Int := p.calNum * energy
  let fix : Int := p.pFix * p.calDen
  let cap : Int := m.capMw * p.calDen
  let l := p.level
  let fits := fun (x : Nat) (limit : Int) => decide (fix * (16 - l : Nat) + issue * (16 - x : Nat) ≤ limit * (16 - l : Nat))
  let above := decide (cap < fix + issue)
  if 16 ≤ l then (if above then (16, p.overCount) else (15, 0))
  else
    let l' := if above then ((((List.range 16).filter (l < ·)).find? fun x => fits x cap).getD 15)
      else if 0 < l && fits (l - 1) (cap - 5000 * p.calDen) then l - 1
      else l
    let n := if l' = 15 ∧ above then p.overCount + 1 else 0
    (if n < 100 then l' else 16, n)

/-- A governor level takes effect: at 16 no engine issues and no tile watchdog runs (R414, R415, R438); below it work
that waited goes on. -/
def Mach.setLevel (m : Mach) (level above : Nat) : Mach :=
  let p := m.plinth
  let m := m.setPlinth { p with level := level, overCount := above }
  if level = 16 ∧ p.level ≠ 16 then (m.setPlinth { m.plinth with pausedSince := some m.now }).alert 2
  else if level ≠ 16 ∧ p.level = 16 then
    (m.setPlinth { m.plinth with pausedNs := m.paused, pausedSince := none }).startUpdates
  else m

/-- GOVERNOR_INTERVAL: the activity energy each bay in B-RUN spent in the interval just ended. -/
def governorInterval (activity : List (Nat × Nat)) (m : Mach) : Res :=
  if !m.plinthUp then .next m
  else
    let last := m.plinth.governedAt
    let energy := (activity.filter fun e => m.modState == .run && (m.bay e.1).power == .run).foldl (fun a e => a + e.2) 0
    let m := m.upTo (nextTick 10000 last m.now)
    let m := if m.plinth.level = 0 then m else m.bump O.THROTTLE_NS 0 (m.now - last)
    let m := m.setPlinth { m.plinth with
      governedAt := m.now, activity := m.plinth.activity + energy, thermalMw := m.stepThermal }
    let r := m.governLevel energy
    .next (m.setLevel r.1 r.2)

/-! ### PLLs (R395) -/

/-- PLL_UNLOCK: of the core PLL, every engine stops issuing. -/
def pllUnlock (k : Nat) (m : Mach) : Res :=
  let lock := m.obj O.PLL_LOCK 0
  if !lock.testBit k then .next m
  else
    let m := (m.setObj O.PLL_LOCK 0 (lock - 2 ^ k)).setPlinth { m.plinth with pllLost := mset m.plinth.pllLost k m.now }
    .next (if k = 0 then (m.alert 5).bump O.PLL_UNLOCKS 0 1 else m)

/-- PLL_RELOCK. -/
def pllRelock (k : Nat) (m : Mach) : Res :=
  if (mget m.plinth.pllLost k).isNone then .next m
  else
    let m := (m.setObj O.PLL_LOCK 0 (m.obj O.PLL_LOCK 0 ||| 2 ^ k)).setPlinth { m.plinth with
      pllLost := mdel m.plinth.pllLost k }
    .next (if k = 0 then m.startUpdates else m)

/-- PLL_LOCK_TIMEOUT: the core PLL has been without lock for 1 ms. -/
def pllLockTimeout (k : Nat) (m : Mach) : Res :=
  match mget m.plinth.pllLost k with
  | some t => if k = 0 then .next ((m.upTo (t + 1000000)).toOff 7) else .next m
  | none => .next m

/-! ### Bay power (R404 to R409) -/

/-- B_SLEEP: BAY_SLEEP_AFTER in B-IDLE have passed, and the entry begins (R407). -/
def bSleep (b : Nat) (m : Mach) : Res :=
  if !m.maySleep b then .next m
  else .next ((m.upTo ((m.bay b).since + m.obj O.BAY_SLEEP_AFTER 0)).bayToSleep b)

/-- B-OFF is permitted (R407), no WAKE rule holds the bay, and it holds no trace records still to be sent (R453). -/
def Mach.mayOff (m : Mach) (b : Nat) : Bool :=
  let allowed := match m.bayPart b with | none => true | some _ => m.obj O.BAY_OFF_OK b == 1
  m.inRun && !(m.bay b).wakeAsked && m.obj O.BAY_OFF_AFTER 0 != 0 && allowed && !m.wakeMask.testBit b &&
    !(m.traceOn && !(m.toSend b).isEmpty)

/-- B_OFF, which the bay takes twice (R407, R408): from B-SLEEP the plinth returns it to B-IDLE and revokes its lent
pieces; from there it enters B-OFF, 2 µs later, unless a wake has cancelled the entry. -/
def bOff (b : Nat) (m : Mach) : Res :=
  let y := m.bay b
  if !m.mayOff b then .next (if y.leaving then m.setBay b { y with leaving := false } else m)
  else match y.power with
    | .sleep =>
      let m := m.upTo (y.since + m.obj O.BAY_OFF_AFTER 0)
      .next ((m.setBay b { y with power := .idle, since := m.now, leaving := true }).revokeWhere fun l => l.tile / 640 == b)
    | .idle =>
      if y.leaving then
        let m := m.clearStores [b]
        .next (m.setBay b { m.bay b with power := .off, since := m.now + 2000, leaving := false })
      else .next m
    | _ => .next m

/-- Bays whose wake from B-OFF is still to begin, in the order of R409. -/
def Mach.offWakes (m : Mach) : List Nat :=
  sortBy (fun a b => decide ((m.bay a).wakeAt < (m.bay b).wakeAt ∨ ((m.bay a).wakeAt = (m.bay b).wakeAt ∧ a ≤ b)))
    ((List.range 16).filter fun b => (m.bay b).power == .off && (m.bay b).wakeAsked && !(m.bay b).wakeStarted)

/-- BAY_WAKE_START: at most one bay in any 10 µs. -/
def bayWakeStart (b : Nat) (m : Mach) : Res :=
  if m.modState ≠ .run ∨ m.offWakes.head? ≠ some b then .next m
  else
    -- a wake asked for during the entry is served when the entry ends (R408)
    let m := m.upTo (max (m.bay b).since (match m.plinth.lastOffWake with | some t => t + 10000 | none => 0))
    .next ((m.setPlinth { m.plinth with lastOffWake := some m.now }).setBay b { m.bay b with
      wakeStarted := true, wakeAt := m.now })

/-- BAY_WAKE_DONE: the bay accepts work. -/
def bayWakeDone (b : Nat) (m : Mach) : Res :=
  let y := m.bay b
  let ready := y.wakeAsked && (y.power == .idle || y.power == .sleep || (y.power == .off && y.wakeStarted))
  if m.modState ≠ .run || !ready then .next m
  else
    let takes := if y.power = .idle then 200 else if y.power = .sleep then 4000 else 40000
    let m := if y.power = .idle then m else m.bump O.BAY_WAKES b 1
    let m := m.upTo (max y.wakeAt y.since + takes)
    let m := m.setBay b { m.bay b with power := .run, since := m.now, wakeAsked := false, wakeStarted := false }
    .next m.startUpdates.settle

/-! ### Standby (R411, R412) -/

def Mach.journalsDisabled (m : Mach) (p : Nat) : Bool :=
  (List.range 64).all fun j => m.obj O.J_PARTITION j != p || (m.journal j).state == .disabled

/-- STANDBY_DRAIN_TIMEOUT. -/
def standbyDrainTimeout (m : Mach) : Res :=
  match m.plinth.draining with
  | none => .next m
  | some t =>
    let m := m.upTo (t + m.obj O.STANDBY_DRAIN 0)
    .next ((List.range 16).foldl (fun s p => if s.journalsDisabled p then s else s.partitionReset p 1) m)

/-- The rails, and those that STANDBY keeps on (R396). -/
def allRails : NSet := List.range 24
def standbyRails : NSet := [18, 23]

/-- STANDBY_ENTRY: every journal is DISABLED (R411). -/
def standbyEntry (m : Mach) : Res :=
  if m.modState ≠ .run || m.plinth.draining.isNone ||
      !((List.range 64).all fun j => (m.journal j).state == .disabled) then .next m
  else
    let m := (m.revokeWhere fun _ => true).loseLink
    .next ((({ m with modState := .standby }.setPlinth { m.plinth with
      draining := none, pllLost := [], rails := standbyRails }).setLink 0 0 0).setObj O.PLL_LOCK 0 0)

/-- A module that has woken is in RUN: every store invalid, every bay in service running until it idles. -/
def Mach.wakeUp (m : Mach) : Mach :=
  let m := (m.clearStores (List.range 16)).setObj O.PLL_LOCK 0 15
  let m := { m with modState := .run, plinth := { m.plinth with rails := allRails } }
  ((List.range 16).foldl (fun s b => if s.outOfService b then s else s.setBay b { s.bay b with
    power := .run, since := s.now, wakeAsked := false, wakeStarted := false, watchdog := s.now, droop := 0,
    leaving := false })
    m).tryTrain.settle

/-- STANDBY_WAKE_DONE. -/
def standbyWakeDone (ok : Bool) (m : Mach) : Res :=
  if m.modState ≠ .standby || !m.wanted then .next m
  else .next (if ok then m.wakeUp else m.moduleStart.beginS1)

/-! ### The input (R393, R425) -/

/-- The meaning of a command that may set module time back: only the loss of the input does (R393). -/
def State.liftRaw (r : Mach → Res) (s : State) : Host.Outcome State Fault Refusal :=
  match r s.toMach with
  | .next m => .next { m with pending := s.pending }
  | .fault f => .fault f
  | .refused f => .refused f

/-- INPUT_APPLIED: the plinth starts, and a module start begins at S0. -/
def inputApplied (m : Mach) : Res :=
  if m.plinth.inputOn then .next m
  else .next ((({ m with now := 0 }.setPlinth { m.plinth with inputOn := true }).beginStage 0).bump O.STARTS 0 1)

/-- INPUT_REMOVED: all is lost but the pins, and what lies outside the module. -/
def inputRemoved (m : Mach) : Res :=
  let p := m.plinth
  .next { Mach.reset with
    freeCount := m.freeCount
    drawCount := m.drawCount
    mem := m.mem.filter fun c => decide (hostBase ≤ c.1)
    hostPoison := m.hostPoison
    plinth := { Plinth.reset with modEn := p.modEn, perst := p.perst, prsnt := p.prsnt, strap := p.strap } }

end Sys2Proof.Machine
end

