-- ==== Sys2Proof/Machine/Field.lean ====
section
/-! DEFINITION. The field-network interface (R317, R330 to R332): frames received and sent, the request queue,
the answer cache and notices, and the interface's ICMPv6 messages. An address is a number whose bytes, least
significant first, are the address in network byte order, as MGMT_PEER holds one. -/

namespace Sys2Proof.Machine

open Sys2Proof

/-- The interface works: the plinth runs and the function is enabled with its address. -/
def Mach.fieldUp (m : Mach) : Bool := m.plinthUp && m.fieldOn

/-! ### Addresses (R330) -/

/-- ff02::1. -/
def allNodes : Nat := 0x010000000000000000000000000002ff

/-- An address of fe80::/64. -/
def isLinkLocal (a : Nat) : Bool := a % 2 ^ 64 == 0x80FE

/-- Octet `i` of the MAC address: octet 0 is the most significant byte of EUI48. -/
def Mach.macOctet (m : Mach) (i : Nat) : Nat := bits m.start.fuses.eui48 (40 - 8 * i) 8

/-- fe80::/64 with the modified EUI-64 interface identifier. -/
def Mach.ownAddress (m : Mach) : Nat :=
  leNat ([0xFE, 0x80, 0, 0, 0, 0, 0, 0, Nat.xor (m.macOctet 0) 2, m.macOctet 1, m.macOctet 2, 0xFF, 0xFE,
    m.macOctet 3, m.macOctet 4, m.macOctet 5].map (BitVec.ofNat 8))

/-- The solicited-node multicast address of an address: ff02::1:ff and its last three bytes. -/
def solicitedNodeOf (a : Nat) : Nat :=
  leNat ([0xFF, 0x02, 0, 0, 0, 0, 0, 0, 0, 0, 0, 1, 0xFF] ++ (leBytes 16 a).drop 13)

def Mach.solicitedNode (m : Mach) : Nat := solicitedNodeOf m.ownAddress

/-! ### Neighbours (R330; log entry 132) -/

/-- The link address of a neighbour is learnt. -/
def Mach.learn (m : Mach) (a : Nat) : Mach :=
  { m with neighbours := sadd m.neighbours a, soliciting := sdel m.soliciting a }

/-- Whether the link address of a destination is known; a multicast one needs none. -/
def Mach.reachable (m : Mach) (a : Nat) : Bool := !isLinkLocal a || smem m.neighbours a

/-! ### ICMPv6 -/

/-- The sum of the 16-bit words of a byte string, most significant byte first. -/
def wordSum : Bytes → Nat
  | [] => 0
  | [a] => a.toNat * 256
  | a :: b :: r => a.toNat * 256 + b.toNat + wordSum r

def foldCarry (x : Nat) : Nat := x % 65536 + x / 65536

/-- Two bytes, most significant first. -/
def beBytes2 (x : Nat) : Bytes := leBytes 1 (x / 256) ++ leBytes 1 (x % 256)

/-- An ICMPv6 message of a type with code 0 and its checksum over the pseudo-header. -/
def icmpMessage (src dst type : Nat) (body : Bytes) : Bytes :=
  let len := body.length + 4
  let sum := wordSum (leBytes 16 src ++ leBytes 16 dst ++ zerosB 2 ++ beBytes2 len ++ [0, 0, 0, 58] ++
    leBytes 2 type ++ zerosB 2 ++ body)
  leBytes 2 type ++ beBytes2 (65535 - foldCarry (foldCarry (foldCarry sum))) ++ body

/-- Duplicate address detection begins: a solicitation for the own address from the unspecified source. -/
def Mach.probeAddress (m : Mach) : Mach :=
  let m := { m with addressTaken := false }
  if m.fieldUp then
    m.queueFrame m.solicitedNode 0 (icmpMessage 0 m.solicitedNode 135 (zerosB 4 ++ leBytes 16 m.ownAddress))
  else m

/-- The module's own link address, as an option of neighbour discovery: 1 of the source, 2 of the target. -/
def Mach.linkOption (m : Mach) (type : Nat) : Bytes :=
  leBytes 1 type ++ leBytes 1 1 ++ (List.range 6).map fun i => BitVec.ofNat 8 (m.macOctet i)

/-- A solicitation of a neighbour's link address. -/
def Mach.solicitation (m : Mach) (a : Nat) : OutFrame :=
  ⟨solicitedNodeOf a, 0, 255, icmpMessage m.ownAddress (solicitedNodeOf a) 135
    (zerosB 4 ++ leBytes 16 a ++ m.linkOption 1)⟩

/-- ICMPV6_ECHO (R330): an echo request is answered; a frame that is none is discarded. -/
def icmpv6Echo (f : Frame) (m : Mach) : Res :=
  if !m.fieldUp || m.obj O.FLD_LINK 0 = 0 then .next m
  else if f.sumOk && fld f.payload 0 2 == 128 && decide (8 ≤ f.payload.length) && isLinkLocal f.src then
    .next ((m.learn f.src).queueFrame f.src 0 (icmpMessage m.ownAddress f.src 129 (f.payload.drop 4)))
  else .next (m.bump O.FLD_DISCARDS 0 1)

/-- NEIGHBOUR_DISCOVERY (R330): a solicitation for the own address is answered with an advertisement, and its source is
learnt; an advertisement of the own address by another node means that the address is in use; one that the module has
solicited is learnt. -/
def neighbourDiscovery (x : NdMessage) (m : Mach) : Res :=
  if !m.fieldUp || m.obj O.FLD_LINK 0 = 0 then .next m
  else if x.solicit then
    if x.target ≠ m.ownAddress then .next m
    else
      let dst := if x.dad then allNodes else x.src
      let m := if x.dad then m else m.learn x.src
      .next (m.queueFrame dst 0 (icmpMessage m.ownAddress dst 136
        ([if x.dad then 0x20 else 0x60, 0, 0, 0] ++ leBytes 16 m.ownAddress ++ m.linkOption 2)))
  else if x.target = m.ownAddress then .next { m with addressTaken := true, umpor := [], outbox := [] }
  else .next (if smem m.soliciting x.target then m.learn x.target else m)

/-! ### Umpor frames received (R330, R331) -/

/-- The checks of R330 and R331 on a frame of one of the two kinds the module accepts. -/
def Mach.frameOk (m : Mach) (f : Frame) : Bool :=
  let k := fld f.payload 3 1
  f.sumOk && f.dstPort == m.obj O.FLD_PORT 0 && isLinkLocal f.src && f.hop == 255 &&
    fld f.payload 0 2 == 0x4D55 && fld f.payload 2 1 == 1 && (k == 1 || k == 5) &&
    fld f.payload 6 2 + 16 == f.payload.length && (k == 1 || f.payload.length == 16) && fld f.payload 8 8 == 0

/-- An accepted frame is counted, and its source learnt. -/
def Mach.countRx (m : Mach) (src : Nat) : Mach :=
  ((m.learn src).setPlinth { m.plinth with rxInSecond := m.plinth.rxInSecond ++ [m.now] }).bump O.FLD_RX 0 1

/-- A REQUEST with the source and TOKEN of one that is queued or in the present slot. -/
def Mach.requestHeld (m : Mach) (src token : Nat) : Bool :=
  let same := fun (p : Path) => match p with
    | .umpor s _ t => s == src && t == token
    | _ => false
  m.umpor.any (fun r => r.src == src && r.token == token) || m.slotWrites.any (fun w => same w.path) ||
    m.slotReads.any fun w => same w.path

/-- A REQUEST that passed the frame checks: a repeated one is answered from the cache, another joins the queue of
eight. -/
def Mach.takeRequest (m : Mach) (f : Frame) : Mach :=
  let token := fld f.payload 4 2
  match m.cache.find? fun c => c.src == f.src && c.token == token && decide (m.now < c.at_ + 1000000000) with
  | some c => ((m.countRx f.src).bump O.DUPLICATES 0 1).queueFrame f.src f.srcPort c.frame
  | none =>
    if m.requestHeld f.src token then (m.countRx f.src).bump O.DUPLICATES 0 1
    else if 8 ≤ m.umpor.length then m.bump O.FLD_DISCARDS 0 1
    else
      let m := m.countRx f.src
      { m with umpor := m.umpor ++ [⟨f.src, f.srcPort, token, f.payload.drop 16⟩] }

/-- A NOTICE_ACK that passed the frame checks ends the resends of its notice (R332). -/
def Mach.takeAck (m : Mach) (f : Frame) : Mach :=
  let m := m.countRx f.src
  { m with notices := m.notices.filter fun n => n.token != fld f.payload 4 2 }

/-- A frame from the field network. -/
def Mach.receive (m : Mach) (f : Frame) : Mach :=
  if !m.fieldUp || m.obj O.FLD_LINK 0 = 0 then m
  else if !m.frameOk f then m.bump O.FLD_DISCARDS 0 1
  else if fld f.payload 3 1 = 1 then m.takeRequest f
  else m.takeAck f

/-- REQUEST (R330). -/
def request (f : Frame) (m : Mach) : Res := .next (m.receive f)

/-- NOTICE_ACK (R332). -/
def noticeAck (f : Frame) (m : Mach) : Res := .next (m.receive f)

/-- NOTICE_RESEND (R332): the time of a waiting notice has come. One not yet sent goes in the order of the records: not
before the others that have not been sent. -/
def noticeResend (token : Nat) (m : Mach) : Res :=
  if !m.fieldUp then .next m
  else
    match m.notices.find? fun n => n.token == token with
    | none => cannot "no notice of that TOKEN waits"
    | some n =>
      if n.sends = 0 ∧ ((m.notices.find? fun x => decide (x.sends = 0)).map (·.token)) ≠ some token then .next m
      else
      let m := m.upTo n.dueAt
      if 8 ≤ n.sends then .next ({ m with notices := m.notices.filter fun x => x.token != token }.bump O.NOTICES_LOST 0 1)
      else
        .next ({ m with notices := m.notices.map fun (x : Notice) =>
          if x.token = token then { x with sends := x.sends + 1, dueAt := m.now + 10000000 } else x }.sendNotice
            token n.record)

/-! ### Frames sent (R330, R331) -/

/-- A frame leaves: an Umpor frame carries the time and is counted, and the cache keeps an answer from then. -/
def Mach.sendFrame (m : Mach) (f : OutFrame) : Mach :=
  if f.port = 0 then { m with lastSent := some f }
  else
    let p := patch f.payload 8 (leBytes 8 m.now)
    let m := { m with
      lastSent := some { f with payload := p }
      cache := m.cache.map fun (c : CachedAnswer) =>
        if c.src = f.dst ∧ fld p 3 1 = 2 ∧ c.token = fld p 4 2 then { c with at_ := m.now } else c }
    m.bump O.FLD_TX 0 1

/-- TRANSMIT_OPPORTUNITY (R330): the next queued frame that can go is sent; where the link address of its destination is
not known, a solicitation goes instead, once. -/
def transmitOpportunity (m : Mach) : Res :=
  if !m.fieldUp || m.obj O.FLD_LINK 0 = 0 then .next m
  else
    match m.outbox.find? fun f => m.reachable f.dst || !smem m.soliciting f.dst with
    | none => .next m
    | some f =>
      if m.reachable f.dst then .next ({ m with outbox := m.outbox.erase f }.sendFrame f)
      else .next ({ m with soliciting := sadd m.soliciting f.dst }.sendFrame (m.solicitation f.dst))

/-- PLCA_BEACON (R317, R330): 0 no link, 1 a link without the coordinator's beacon, 2 with it. PLCA needs the node
identifier, which a module without its slot identifier does not have. -/
def plcaBeacon (link : Nat) (m : Mach) : Res :=
  if !m.fieldUp then .next m
  else .next (m.setObj O.FLD_LINK 0 (if link = 2 ∧ !m.plinth.seated then 1 else link))

/-! ### The function's enable and reset (R335, R336) -/

/-- FLD_ENABLE 0: the interface stops. -/
def Mach.fieldStop (m : Mach) : Mach :=
  ({ m with umpor := [], outbox := [] }.setObj O.FLD_ENABLE 0 0).setObj O.FLD_LINK 0 0

/-- FLD_RESET: queued requests, the answer cache and the waiting notices are discarded. -/
def Mach.fieldReset (m : Mach) : Mach :=
  let n := m.notices.length
  let m := { m with umpor := [], outbox := [], cache := [], notices := [] }.bump O.NOTICES_LOST 0 n
  (m.setObj O.FLD_LINK 0 0).probeAddress

end Sys2Proof.Machine
end

