-- ==== Sys2Proof/Machine/Start.lean ====
section
/-! DEFINITION. The stages of a module start (R425 to R434), their reports and beacons, the slot map (R429 to
R431), and the loading of firmware (R435, R436, R382). -/

namespace Sys2Proof.Machine

open Sys2Proof

/-! ### Reports (R427, R428) -/

/-- A stage's report is written, and sent as a BEACON. The spec does not say what TOKEN a BEACON carries. -/
def Mach.stageReport (m : Mach) (k result : Nat) (detail : Bytes) : Mach :=
  let r := leBytes 1 k ++ leBytes 1 result ++ zerosB 2 ++
    leBytes 4 (min ((m.now - m.start.beganAt) / 1000) 0xFFFFFFFF) ++ leBytes 8 m.now ++ bytesAt detail 0 16
  let token := m.free
  let m := token.2.setObjAt 0x1401 (k + 1) (leNat r)
  let f := umporHeader 3 (token.1 % 65536) 48 ++ leBytes 16 m.start.fuses.serial ++ r
  if m.fieldOn then m.queueFrame allNodes (m.obj O.FLD_PORT 0) f else m

/-- The start halts (R426). -/
def Mach.haltStart (m : Mach) : Mach :=
  { m with start := { m.start with halted := true } }.setObj O.START_RESULT 0 3

/-- A stage ends: its report, and the next stage or the halt. -/
def Mach.endStage (m : Mach) (k : Nat) (loss halt : Bool) (detail : Bytes) : Mach :=
  let m := m.stageReport k (if halt then 4 else if loss then 3 else 2) detail
  if halt then m.haltStart else m.beginStage (k + 1)

/-- A row of a stage: it applies while the stage runs. -/
def stageRow (k : Nat) (e : StageEnd) (body : Mach → Mach) (m : Mach) : Res :=
  if m.start.stage ≠ some k ∨ m.start.halted then cannot "the stage is not running"
  else .next (body (m.upTo (m.start.beganAt + e.ns)))

/-- A figure the stage measured. -/
def figure (e : StageEnd) (i : Nat) : Nat := e.figures.getD i 0

/-- A count in a field of `n` bytes, which stops at its largest value. -/
def countBytes (n x : Nat) : Bytes := leBytes n (min x (256 ^ n - 1))

/-! ### Parts out of service (R429, R430) -/

def Mach.inService (m : Mach) (b : Nat) : Bool := !m.outOfService b
def Mach.clusterDisabled (m : Mach) (c : Nat) : Bool := smem m.start.badClusters c || smem m.start.badBays (c / 10)

/-- Clusters and bays fail at start; the bays are FAILED until the next module start (R406, R426). -/
def Mach.dropParts (m : Mach) (clusters bays : List Nat) : Mach :=
  let m := { m with start := { m.start with
    badClusters := clusters.foldl sadd m.start.badClusters, badBays := bays.foldl sadd m.start.badBays } }
  bays.foldl (fun s b => s.setBay b { s.bay b with power := .failed, since := s.now }) m

/-- The same once the slot map stands. -/
def Mach.dropMapped (m : Mach) (clusters bays : List Nat) : Mach :=
  let m := m.dropParts clusters bays
  ((List.range 160).filter fun c => clusters.contains c || bays.contains (c / 10)).foldl Mach.markCluster m

def Mach.disabledIn (m : Mach) (b : Nat) : Nat :=
  ((List.range 10).filter fun c => m.clusterDisabled (b * 10 + c)).length
def Mach.disabledCount (m : Mach) : Nat := ((List.range 160).filter m.clusterDisabled).length
def Mach.holesIn (m : Mach) (b : Nat) : Nat := (m.start.holes.filter fun t => t / 640 == b).length

/-- The figures of the bays in a stage's DETAIL; number 16 is what belongs to no bay (R387, R428). -/
def Mach.setFigures (m : Mach) (k : Nat) (f : Nat → List Nat) : Mach :=
  { m with start := { m.start with
      figures := (List.range 17).foldl (fun s b => mset s (k * 32 + b) (f b)) m.start.figures } }

/-- DETAIL of a stage: what its figures make, and what belongs to the whole module. -/
def Mach.detail (m : Mach) (k : Nat) (whole : Bytes) : Bytes :=
  bytesAt (m.overBays k (List.range 17) (zerosB 16 ++ bytesAt whole 0 16)) 16 16

def Mach.allFailed (m : Mach) : Bool := (List.range 16).all m.outOfService

/-! ### S0 to S3 -/

/-- S0_PLINTH: a checksum failure leaves the plinth silent. -/
def s0Plinth (e : StageEnd) (slotId : Nat) (m : Mach) : Res :=
  stageRow 0 e (fun m =>
    let m := m.setPlinth { m.plinth with strap := slotId % 16 }
    if !e.ok then { m with start := { m.start with halted := true } }
    else
      let m := m.stageReport 0 2 (leBytes 4 Config.romVersion.toNat)
      { m with start := { m.start with stage := none } }.follow) m

/-- S1_RAILS: the rails out of tolerance are the first figure. One opens the eFuse, and no rail is on; otherwise every
rail is (R396, R426). -/
def s1Rails (e : StageEnd) (m : Mach) : Res :=
  stageRow 1 e (fun m =>
    let bad := if e.ok then 0 else figure e 0 % 2 ^ 24
    let m := if e.ok then (m.setObj O.PLL_LOCK 0 15).setPlinth { m.plinth with rails := allRails }
      else m.setPlinth { m.plinth with eFuse := false, rails := [] }
    m.endStage 1 false (!e.ok) (leBytes 3 bad ++ leBytes 1 ((bitsOf 24 bad).headD 0xFF))) m

/-- Slots of a bay in a list of slots. -/
def slotsIn (b : Nat) (l : List Nat) : Nat := (l.filter fun s => s / 680 == b).length

/-- S2_FUSES: fuse words corrected are the first figure. -/
def s2Fuses (e : StageEnd) (f : Fuses) (m : Mach) : Res :=
  stageRow 2 e (fun m =>
    let f := if e.ok then { f with badSlots := f.badSlots.foldl sadd [] } else m.start.fuses
    let m := ({ m with start := { m.start with fuses := f } }.probeAddress).setFigures 2 fun b => [slotsIn b f.badSlots]
    m.endStage 2 false (!e.ok) (m.detail 2 (zerosB 2 ++ countBytes 1 (figure e 0)))) m

/-- Slots that a test fails, that the fuse map does not mark and no earlier test failed, of clusters not disabled: made
TEST_ONLY (R429). -/
def Mach.newlyBad (before after : Mach) (slots : NSet) : NSet :=
  slots.filter fun s => !smem before.start.fuses.badSlots s && !smem before.start.badTest s && !after.clusterDisabled (s / 68)

/-- Bays FAILED after a stage that were not before it. -/
def Mach.newlyFailed (before after : Mach) (b : Nat) : Bool := after.outOfService b && !before.outOfService b

/-- S3_SRAM: rows repaired are the first sixteen figures, by bay. The stage passed with loss when it took a slot, a
cluster or a bay out of service (R426). -/
def s3Sram (e : StageEnd) (bad : BadParts) (m : Mach) : Res :=
  stageRow 3 e (fun m0 =>
    let slots := bad.slots.foldl sadd []
    let m := ({ m0 with start := { m0.start with badTest := slots.foldl sadd m0.start.badTest } }.invalidate
      fun _ => true).dropParts bad.clusters bad.bays
    let news := m0.newlyBad m slots
    let m := m.setFigures 3 fun b => [figure e b, slotsIn b news, m.disabledIn b - m0.disabledIn b, boolNat (m0.newlyFailed m b)]
    m.endStage 3 (!news.isEmpty || decide (m0.disabledCount < m.disabledCount)) (!e.ok || m.allFailed) (m.detail 3 [])) m

/-! ### S4: the slot map (R429, R431) -/

/-- The status of a slot before mapping: 0 where it can be mapped. -/
def Mach.slotStatus (m : Mach) (cluster slot : Nat) : Nat :=
  let s := cluster * 68 + slot
  let fuse := smem m.start.fuses.badSlots s
  let test := smem m.start.badTest s
  if m.clusterDisabled cluster then 7
  else if fuse && test then 4
  else if fuse then 2
  else if test then 3
  else if smem m.start.fencedPrior s then 5
  else 0

/-- The slot map of a cluster: statuses of its slots, then the slot of each position. -/
def Mach.mapCluster (m : Mach) (cluster : Nat) : List Nat :=
  let st := (List.range 68).map (m.slotStatus cluster)
  let ok := (List.range 68).filter fun k => st.getD k 7 == 0
  let mapped := ok.take 64
  (List.range 68).map (fun k => if st.getD k 7 = 0 ∧ !mapped.contains k then 1 else st.getD k 7) ++
    (List.range 64).map fun i => mapped.getD i 0xFF

/-- Every cluster mapped; logical positions without a slot are holes. -/
def Mach.mapSlots (m : Mach) : Mach :=
  let m := { m with start := { m.start with holes := [] } }
  (List.range 160).foldl (fun s c =>
    let w := s.mapCluster c
    let holes := (List.range 64).filter fun i => w.getD (68 + i) 0xFF == 0xFF
    { s.setObj O.SLOT_MAP c (leNat (w.map (BitVec.ofNat 8))) with
      start := { s.start with holes := s.start.holes ++ holes.map (c * 64 + ·) } }) m

/-- Slots of a bay with a status. -/
def Mach.statusIn (m : Mach) (v b : Nat) : Nat :=
  ((List.range 10).map fun c => ((List.range 68).filter fun k => m.slotByte (b * 10 + c) k == v).length).foldl (· + ·) 0

/-- S4_TILES: tests, and the slots mapped; a failed bay hub halts the start (R405, R426). -/
def s4Tiles (e : StageEnd) (bad : BadParts) (m : Mach) : Res :=
  stageRow 4 e (fun m0 =>
    let slots := bad.slots.foldl sadd []
    let m := { m0 with start := { m0.start with badTest := slots.foldl sadd m0.start.badTest } }
    let m := (m.dropParts bad.clusters bad.bays).mapSlots
    let news := m0.newlyBad m slots
    let m := m.setFigures 4 fun b => [m.statusIn 2 b, m.statusIn 3 b, m.holesIn b, m.disabledIn b - m0.disabledIn b,
      boolNat (m0.newlyFailed m b)]
    m.endStage 4 (!news.isEmpty || decide (m0.disabledCount < m.disabledCount)) (!e.ok || !bad.hubs.isEmpty || m.allFailed)
      (m.detail 4 [])) m

/-! ### S5 and S6 (R432 to R434) -/

/-- A link that failed takes its part out of service (R433). -/
def Mach.failLink (m : Mach) : LinkKind → Mach
  | .tilePort t => if m.isHole t then m else m.addHole t
  | .clusterAttachment c => m.dropMapped [c] []
  | .bayMesh b => m.dropMapped [] [b]
  | .bayLink => m

/-- The bay of a link; 16 for a bay link, which belongs to none. -/
def linkBay : LinkKind → Nat
  | .tilePort t => t / 640
  | .clusterAttachment c => c / 10
  | .bayMesh b => b
  | .bayLink => 16

/-- S5_ARMATURE: link directions tested are the first seventeen figures, by bay and then the bay links; the errors of
each direction that had any (R432, R433). -/
def s5Armature (e : StageEnd) (errors : List (LinkKind × Nat)) (m : Mach) : Res :=
  stageRow 5 e (fun m0 =>
    let failed := errors.filter fun x => decide (m0.obj O.ARM_ERR_LIMIT 0 < x.2)
    let m := failed.foldl (fun s x => s.failLink x.1) m0
    let m := m.setFigures 5 fun b => [figure e b, (failed.filter fun x => linkBay x.1 == b).length, m.holesIn b - m0.holesIn b,
      ((errors.filter fun x => linkBay x.1 == b).map (·.2)).foldl max 0]
    m.endStage 5 (decide (m0.start.holes.length < m.start.holes.length) || decide (m0.disabledCount < m.disabledCount))
      (!e.ok || failed.any (fun x => x.1 == .bayLink) || m.allFailed) (m.detail 5 [])) m

/-- A channel retired by the memory test, with its error-log entry (R301, R434; log entry 23). -/
def Mach.retireAtStart (m : Mach) (b k : Nat) : Mach :=
  let s := m.free
  let lo := s.2.free
  let hi := lo.2.free
  (hi.2.setBay b { m.bay b with retired := [k] }).logError 5 b (2 ^ k) (s.1 % 256) (lo.1 + 2 ^ 32 * hi.1)

/-- The failed channel of a package that is retired; where several fail, which of them the spec does not say (R301,
R434). -/
def Mach.retireOne (m : Mach) (b : Nat) : List Nat → Mach
  | [] => m
  | [c] => m.retireAtStart b (c % 9)
  | l =>
    let x := m.free
    x.2.retireAtStart b (l.getD (x.1 % l.length) 0 % 9)

/-- S6_MEMORY: the errors of each channel that had any, channel Mb.k being number 9b + k. A failed channel of each package
is retired; the bay of a package with a second one is FAILED (R434). Every line is then blank (R296). -/
def s6Memory (e : StageEnd) (errors : List (Nat × Nat)) (m : Mach) : Res :=
  stageRow 6 e (fun m0 =>
    let failed := ((errors.filter fun x => decide (m0.obj O.MEM_ERR_LIMIT 0 < x.2)).map (·.1)).foldl sadd []
    let of := fun (b : Nat) => failed.filter fun c => c / 9 == b
    let m := (List.range 16).foldl (fun s b => s.retireOne b (of b)) m0
    let m := m.dropMapped [] ((List.range 16).filter fun b => m0.inService b && decide (2 ≤ (of b).length))
    let m := { m with
      mem := m.mem.filter fun c => decide (2 ^ 56 ≤ c.1)
      lines := []
      writeBacks := [] }
    let m := (List.range 16).foldl (fun s b => s.setBay b { s.bay b with epoch := 0 }) m
    let m := m.setFigures 6 fun b => [min 1 (of b).length, boolNat (m0.newlyFailed m b),
      ((errors.filter fun x => x.1 / 9 == b).map (·.2)).foldl max 0]
    m.endStage 6 ((List.range 16).any fun b => m0.inService b && !(of b).isEmpty) (!e.ok || m.allFailed) (m.detail 6 [])) m

/-! ### S7 and S9 -/

/-- S7_HOST: the link is up in CXL mode; correctable errors of its training are the first figure. -/
def s7Host (e : StageEnd) (m : Mach) : Res :=
  if m.obj O.LINK_STATE 0 ≠ 1 then .next m
  else stageRow 7 e (fun m => m.endStage 7 false false
    (leBytes 1 (m.obj O.LINK_WIDTH 0) ++ leBytes 1 (m.obj O.LINK_SPEED 0) ++ countBytes 4 (figure e 0))) m

/-- S9_READY: RUN. -/
def s9Ready (e : StageEnd) (m : Mach) : Res :=
  stageRow 9 e (fun m =>
    let loss := !m.start.holes.isEmpty || decide (0 < m.disabledCount) || (List.range 16).any fun b =>
      m.outOfService b || !(m.bay b).retired.isEmpty
    let result := if loss then 2 else 1
    let bays := (List.range 16).filter m.inService
    let m := (m.setObj O.START_RESULT 0 result).setFigures 9 fun b =>
      if b = 16 then [] else [640 - m.holesIn b, boolNat (m.inService b)]
    let m := m.stageReport 9 2 (m.detail 9 (zerosB 4 ++ leBytes 1 result))
    let m := { m with modState := .run, start := { m.start with stage := none } }
    (bays.foldl (fun s b => s.setBay b { s.bay b with power := .run, since := s.now, watchdog := s.now }) m).settle.follow) m

/-! ### S8: firmware (R382, R436) -/

/-- Whether the ROM accepts an image of FW_BYTES bytes. -/
def Mach.imageOk (m : Mach) (b : Bytes) : Bool :=
  let n := b.length
  let body := fld b 16 8
  let pk := bytesAt b 64 1952
  fld b 0 4 == 0x464C524B && fld b 12 4 == 0 && fld b 24 40 == 0 &&
    leNat (bytesAt (hash256 pk) 0 32) == m.start.fuses.vendorKeyHash && decide (m.start.fuses.minSvn ≤ fld b 8 4) &&
    body + 5325 == n &&
    Config.dsaVerify pk (asciiBytes "KRL FIRMWARE") (b.take (n - 3309)) (b.drop (n - 3309))

/-- Why FW_LOAD is refused, or the image and the receivers that mismatch it twice. -/
def Mach.fwCheck (m : Mach) (fetch : FwFetch) : Except Nat (Bytes × List Nat × List Nat) :=
  let n := m.obj O.FW_BYTES 0
  if m.obj O.FW_SOURCE 0 % 4096 ≠ 0 ∨ n < 5325 ∨ 268435456 < n then .error rFIELD
  else if m.start.stage ≠ some 8 ∨ m.start.halted then .error rSTATE
  else
    match fetch with
    | .linkFail => .error rLINK
    | .image d tiles bays =>
      if !m.linkUp then .error rLINK
      else if m.imageOk (bytesAt d 0 n) then .ok (bytesAt d 0 n, tiles, bays) else .error rSIGNATURE

/-- DETAIL of S8. -/
def Mach.s8Detail (m : Mach) : Bytes :=
  leBytes 4 (fld m.start.fw 4 4) ++ leBytes 4 (fld m.start.fw 8 4) ++ countBytes 1 m.start.loads ++
    leBytes 1 m.start.lastRefusal

/-- A refused load is recorded in the S8 report: while S8 waits the report is written anew and sent; otherwise its reason
takes its place in the report that stands (log entry 87). -/
def Mach.recordRefusal (m : Mach) (waiting : Bool) (r : Nat) : Mach :=
  let m := { m with start := { m.start with lastRefusal := r } }
  if waiting then m.stageReport 8 1 m.s8Detail
  else
    let old := m.objAt 0x1401 9
    m.setObjAt 0x1401 9 (old - bits old 200 8 * 2 ^ 200 + r * 2 ^ 200)

/-- A write of 1 to FW_LOAD: the module after it, and the reason. -/
def Mach.loadFirmware (m : Mach) (fetch : FwFetch) : Mach × Nat :=
  let waiting := m.start.stage == some 8 && !m.start.halted
  let m := if waiting then { m with start := { m.start with loads := m.start.loads + 1 } } else m
  match m.fwCheck fetch with
  | .error r =>
    let m := if r = rLINK then m.bump O.LINK_FAILS 0 1 else m
    (m.recordRefusal waiting r, r)
  | .ok (b, tiles, bays) =>
    let m := { m with start := { m.start with fw := b.take (b.length - 3309) } }
    let lost := tiles.filter fun t => !m.isHole t
    let dead := bays.filter m.inService
    let m := (lost.foldl Mach.addHole m).dropMapped [] dead
    (m.endStage 8 (!lost.isEmpty || !dead.isEmpty) m.allFailed m.s8Detail, 0)

end Sys2Proof.Machine
end

