-- ==== Sys2Proof/Machine/Access.lean ====
section
/-! DEFINITION. What a dictionary request must pass before its slot ends: visibility, assignment, access, owner,
value and lock (R312, R313, R315, R318, R319, R333, R334), and the registers of BAR0 (R323, R324, R340, R341). -/

namespace Sys2Proof.Machine

open Sys2Proof

/-! ### Visibility and service (R318, R333, R254, R368, R444) -/

/-- Check 2: whether an index is visible to a path. -/
def Mach.visible (m : Mach) (p : Path) (index : Nat) : Bool :=
  match objClass index with
  | none => true
  | some (c, i) =>
    if classPerPart c then
      (m.part i).exists_ && (match p.part? with | some q => q == i | none => true)
    else
      match p.part? with
      | none => true
      | some q =>
        let mine := (m.part q).exists_
        if classPerBay c then mine && smem (m.part q).bays i
        else if c = 0x4000 then mine && m.obj O.J_PARTITION i == q
        else if c = 0x4040 then mine && m.obj O.C_PARTITION i == q
        else if c = 0x1410 then mine && smem (m.part q).bays (i / 10)
        else if c = 0x4820 then mine && m.obj O.PS_PARTITION 0 == q
        else true

/-- The firmware stage of a start has completed (R333, R426). -/
def Mach.firmwareRuns (m : Mach) : Bool :=
  m.modState == .start && (match m.start.stage with | some k => decide (9 ≤ k) | none => false)

/-- The whole dictionary in RUN and once the firmware runs; otherwise what the plinth alone serves. -/
def Mach.serves (m : Mach) (index : Nat) : Bool :=
  m.modState == .run || m.firmwareRuns || index == 0x1000 || index == 0x1010 || decide (0x1100 ≤ index ∧ index < 0x1500)

/-! ### Values (R312; ranges of the object tables) -/

/-- Neither NaN, infinite nor subnormal. -/
def plainF32 (v : Nat) : Bool :=
  let e := v / 2 ^ 23 % 256
  e != 255 && (e != 0 || v % 2 ^ 23 == 0)

/-- Least and greatest value of the integer objects whose table states a range. -/
def intRanges : List (Nat × Nat × Nat) :=
  [(O.FLD_PORT, 1, 65535), (O.STANDBY_DRAIN, 1000000, 0xFFFFFFFE), (O.BAY_SLEEP_AFTER, 1000, 0xFFFFFFFE),
   (O.ARM_ERR_LIMIT, 0, 1000), (O.MEM_ERR_LIMIT, 0, 1000), (O.TILE_WATCHDOG, 100000, 100000000),
   (O.FENCE_TILE, 0, 10239), (O.PT_SELECT, 0, 15), (O.SCALE_ENTRIES, 1, 65536), (O.PLACE_ENTRIES, 1, 4096),
   (O.C_SIZE, 64, 65536), (O.ALARM_MIN_PRODUCTS, 1, 0xFFFFFFFE), (O.HANDLE_ENTRIES, 0, 1048576),
   (O.PS_PARTITION, 0, 15), (O.PS_LAG_BOUND, 10000, 1000000000), (O.PS_PEER_TIMEOUT, 1000000, 1000000000),
   (O.HOST_READ_TIMEOUT, 1000000, 0xFFFFFFFE), (O.J_RING, 0, 63), (O.C_MOD_COUNT, 1, 0xFFFE),
   (O.C_MOD_NS, 0, 0xFFFFFFFE), (O.SCRUB_PERIOD, 3600, 86400), (O.DIE_RETIRE_LIMIT, 1, 0xFFFFFFFE),
   (O.STEP_COUNTER, 0, 2 ^ 48 - 1), (O.HEADROOM, 0, 15), (O.EXPORT_K, 1, 1024), (O.PF_RATE, 0, 273100),
   (O.PF_BURST, 256, 16777216), (O.TR_MODE, 0, 2), (O.TR_POST, 1, 15), (O.TR_POST_NS, 1000, 0xFFFFFFFE),
   (O.TR_KINDS, 0, 3), (O.TR_SAMPLE, 1, 0xFFFE), (O.DIE_RETIRED, 0, 511), (O.NUM_SUMMARY, 0, 2 ^ 64 - 1)]

/-- The same for FP32 objects, as FP32 codes. -/
def floatRanges : List (Nat × Nat × Nat) :=
  [(O.POWER_CAP, 0x43C80000, 0x447A0000), (O.T_THROTTLE, 0x428C0000, 0x42BE0000), (O.MARGIN, 0x3F800000, 0x47800000),
   (O.OUTLIER_TAU, 0x3F800000, 0x47800000), (O.ALARM_FRACTION, 0, 0x3F800000), (O.STEP_SIZE, 0, 0x7F7FFFFF),
   (O.GLOBAL_CLIP_MAX, 0x00800000, 0x7F7FFFFF)]

/-- Objects that hold a partition number, or 0xFF for none. -/
def partNumbers : List Nat := [O.HDM_PARTITION, O.J_PARTITION, O.C_PARTITION]

/-- Objects that hold a device address (R257). -/
def addressObjects : List Nat :=
  [O.SCALE_TABLE, O.PLACE_TABLE, O.LAYER_TABLE, O.HANDLE_TABLE, O.HDM_DEVICE_BASE, O.ATTEST_DEST]

/-- Objects that hold a host address, with the TIER of host memory or none (R256, R257; log entry 35). -/
def hostAddressObjects : List Nat := [O.J_BASE, O.J_CONTROL, O.J_STATUS, O.C_BASE, O.C_CONSUMER, O.FW_SOURCE]

/-- A rule of the table that software writes (R399, R400, R402); sixteen zero bytes are no rule. -/
def ruleOk (r : Rule) : Bool :=
  r == ⟨0, 0, 0, 0, 0, 0, 0, 0⟩ ||
    (decide (1 ≤ r.op ∧ r.op ≤ 3 ∧ 1 ≤ r.action ∧ r.action ≤ 8 ∧ r.flags < 4 ∧ r.hold < 0xFFFF ∧ r.zero = 0) &&
      (dec32 r.threshold).isFinite && (r.flags % 2 == 0 || measured r.input || decide (r.input = 0x63 ∨ r.input = 0x66 ∨
        (0x70 ≤ r.input ∧ r.input ≤ 0x75))) &&
      (r.action != 3 || decide (400 ≤ r.arg ∧ r.arg ≤ 1000)) && (r.action != 4 || decide (r.arg ≤ 15)))

/-- A RULES value: the fixed rules unchanged, and every other one in form (R403). -/
def rulesOk (v : Nat) : Bool :=
  v % 2 ^ 1024 == fixedRules % 2 ^ 1024 && (List.range 24).all fun n => ruleOk (ruleOf v (8 + n))

/-- An entry of TR_FILTER (R450). -/
def filterOk (w : Nat) : Bool :=
  bits w 24 8 == 0 && bits w 56 7 == 0 && (bits w 63 1 == 0 || engineOk (bits w 0 24))

/-- A TR_TRIG value (R467). -/
def trigOk (v : Nat) : Bool :=
  decide (bits v 0 8 < 16) && (bits v 8 8 == 1 || bits v 8 8 == 2 || (bits v 8 8 == 0 && bits v 0 1 == 0)) &&
    bits v 80 48 == 0

/-- Whether an object admits a value of its size. -/
def valueOk (o : Nat) (r : ObjRow) (v : Nat) : Bool :=
  (r.type != .bool || decide (v < 2)) && (r.type != .f32 || plainF32 v) &&
    (match intRanges.find? fun x => x.1 == o with | some x => decide (x.2.1 ≤ v ∧ v ≤ x.2.2) | none => true) &&
    (match floatRanges.find? fun x => x.1 == o with | some x => le32 x.2.1 v && le32 v x.2.2 | none => true) &&
    (!partNumbers.contains o || decide (v < 16 ∨ v = 0xFF)) &&
    (!addressObjects.contains o || (tierOf v).isSome) &&
    (!hostAddressObjects.contains o || decide (v / 2 ^ 56 = 0 ∨ v / 2 ^ 56 = 0x80)) &&
    (if o = O.RULES then rulesOk v
     else if o = O.FILTER then (leBytes 128 v).all fun b => decide (b.toNat < 16)
     else if o = O.TR_FILTER then (List.range 16).all fun i => filterOk (bits v (64 * i) 64)
     else if o = O.TR_TRIG then trigOk v
     else if [O.SELECT_HOST, O.SELECT_MGMT, O.CTR_SELECT_HOST, O.CTR_SELECT_MGMT].contains o then engineOk v
     else if [O.HOST_WIN0_BASE, O.HOST_WIN0_LEN, O.HOST_WIN1_BASE, O.HOST_WIN1_LEN].contains o then
       v % 4096 == 0 && decide (v < 2 ^ 56)
     else if o = O.HANDLE_TABLE then v % 64 == 0
     else true)

/-! ### Owner and lock (R313, R319 check 7, R334, R452) -/

/-- Check 5. -/
def Mach.ownerOk (m : Mach) (p : Path) (o i : Nat) (r : ObjRow) : Bool :=
  (match r.owner with | .host => !p.isMgmt | .mgmt => p.isMgmt | .either => true) &&
    !(r.pf0 && p.part?.isSome) &&
    !(o == O.TR_CONSENT && (m.part i).confidential && p.part? != some i)

/-- The function of an RWL object is enabled; or a check runs on the function of an ENABLE object. -/
def Mach.locked (m : Mach) (o i : Nat) : Bool :=
  if o = O.FLD_PORT ∨ o = O.MGMT_PEER then m.obj O.FLD_ENABLE 0 == 1
  else if o = O.SCALE_TABLE ∨ o = O.SCALE_ENTRIES then m.obj O.SCALE_ENABLE i == 1
  else if o = O.PLACE_TABLE ∨ o = O.PLACE_ENTRIES then m.obj O.PLACE_ENABLE i == 1
  else if [O.J_BASE, O.J_SIZE, O.J_CONTROL, O.J_STATUS, O.J_PARTITION, O.J_RING].contains o then
    (m.journal i).state != .disabled
  else if [O.C_BASE, O.C_SIZE, O.C_CONSUMER, O.C_PARTITION, O.C_MSIX].contains o then m.obj O.C_ENABLE i == 1
  else if o = O.HANDLE_TABLE ∨ o = O.HANDLE_ENTRIES then !m.journalsDisabled i
  else if [O.HDM_PARTITION, O.HDM_DEVICE_BASE, O.HDM_SIZE].contains o then m.obj O.HDM_ENABLE 0 == 1
  else if [O.PS_ROLE, O.PS_PARTITION, O.PS_PEER_BAR4].contains o then m.pair.state != .unpaired
  else if o = O.PS_ENABLE then m.pair.state == .handshake
  else if [O.KEM_CT_LO, O.KEM_CT_HI, O.KEY_CONFIRM].contains o then m.obj O.BOUNCE_ENABLE i == 1
  else if o = O.TR_MODE ∨ o = O.TR_POST then m.obj O.TRACE_ENABLE 0 == 1
  else false

/-- Checks 4 to 7 of a WRITE: the reason, 0 where it passes. -/
def Mach.writeCheck (m : Mach) (p : Path) (index sub : Nat) (value : Bytes) : Nat :=
  match rowAt index sub, objClass index with
  | some r, some (c, i) =>
    let o := c * 256 + sub
    if r.access = .ro then rFIELD
    else if !m.ownerOk p o i r then rOWNER
    else if value.length ≠ r.size || !valueOk o r (leNat value) then rFIELD
    else if m.locked o i || !m.serves index then rSTATE
    else 0
  | _, _ => rBOUND

/-! ### Registers of BAR0 (R323, R324, R340, R341) -/

/-- Vectors of a function that its table window reaches (R340, R342). -/
def tableVectors (fn : Nat) : Nat := if fn = 0 then 256 else 64

def widthCode (w : Nat) : Nat := if w = 4 then 1 else if w = 8 then 2 else if w = 16 then 3 else 0
def rateCode (s : Nat) : Nat := if s = 8 then 1 else if s = 16 then 2 else if s = 32 then 3 else 0

/-- FN_INFO. -/
def Mach.fnInfo (m : Mach) (fn : Nat) : Nat :=
  let w := widthCode (m.obj O.LINK_WIDTH 0)
  0xA1 * 2 ^ 24 + (if fn = 0 then 0xFF else fn - 1) * 2 ^ 16 + (if fn = 0 then 0 else 0x40) * 2 ^ 8 + w * 4 +
    rateCode (m.obj O.LINK_SPEED 0)

def Mach.msixEntry (m : Mach) (fn v : Nat) : MsixEntry := mgetD m.msix (fn * 2048 + v) .reset

/-- An aligned 32-bit read at an offset. -/
def Mach.readReg (m : Mach) (fn off : Nat) : Nat :=
  let x := m.mailbox fn
  if off = 0 then m.fnInfo fn
  else if off = 0x1000 then boolNat x.intEn * 2
  else if off = 0x1004 then x.lastReason * 256 + boolNat x.done * 2 + boolNat x.busy
  else if off = 0x1008 then boolNat x.vectorValid * 2 ^ 15 + x.vector
  else if 0x1100 ≤ off ∧ off < 0x1600 then fld x.request (off - 0x1100) 4
  else if 0x1600 ≤ off ∧ off < 0x1B00 then fld x.answer (off - 0x1600) 4
  else if 0x2000 ≤ off ∧ off < 0x2000 + 16 * tableVectors fn then
    let e := m.msixEntry fn ((off - 0x2000) / 16)
    let k := off % 16 / 4
    if k = 0 then e.addr % 2 ^ 32 else if k = 1 then e.addr / 2 ^ 32 else if k = 2 then e.data else boolNat e.masked
  else if 0x3000 ≤ off ∧ off < 0x3000 + (if fn = 0 then 256 else 8) then
    maskOf ((List.range 32).filter fun b => (m.msixEntry fn ((off - 0x3000) * 8 + b)).pending)
  else 0

/-- A vector unmasked while pending is signalled. -/
def Mach.setMsix (m : Mach) (fn v : Nat) (e : MsixEntry) : Mach :=
  let k := fn * 2048 + v
  if e.pending && !e.masked then ({ m with msix := mset m.msix k { e with pending := false } }).signalVector fn v
  else { m with msix := mset m.msix k e }

/-- An aligned 32-bit write at an offset, but for GO. -/
def Mach.writeReg (m : Mach) (fn off v : Nat) : Mach :=
  let x := m.mailbox fn
  if off = 0x1000 then m.setMailbox fn { x with intEn := v.testBit 1 }
  else if off = 0x1004 then m.setMailbox fn { x with done := x.done && !v.testBit 1 }
  else if off = 0x1008 then m.setMailbox fn { x with vector := v % 2 ^ 11, vectorValid := v.testBit 15 }
  else if 0x1100 ≤ off ∧ off < 0x1600 then
    if x.busy then m
    else m.setMailbox fn { x with request := patch (bytesAt x.request 0 1280) (off - 0x1100) (leBytes 4 v) }
  else if 0x2000 ≤ off ∧ off < 0x2000 + 16 * tableVectors fn then
    let n := (off - 0x2000) / 16
    let e := m.msixEntry fn n
    let k := off % 16 / 4
    m.setMsix fn n (if k = 0 then { e with addr := e.addr / 2 ^ 32 * 2 ^ 32 + v }
      else if k = 1 then { e with addr := v * 2 ^ 32 + e.addr % 2 ^ 32 }
      else if k = 2 then { e with data := v }
      else { e with masked := v.testBit 0 })
  else m

end Sys2Proof.Machine
end

