-- ==== Sys2Proof/Machine/Apply.lean ====
section
/-! DEFINITION. What a dictionary write that wins its slot does (R319 check 9): the maquette checks with their
initialisation (R334, R335), the per-function resets (R336), partition management (R371, R372), and the objects
with rules of their own. -/

namespace Sys2Proof.Machine

open Sys2Proof

/-- The answer of check 9: a reason, and for a refused maquette check the key of the failing object (R328). -/
structure Verdict where
  reason : Nat
  check : Nat
  deriving DecidableEq, Repr

def Verdict.ok : Verdict := ⟨0, 0⟩

/-- The module after a write and its answer; none where the answer is owed until a check ends. -/
abbrev Applied := Mach × Option Verdict

def accept (m : Mach) : Applied := (m, some .ok)
def decline (m : Mach) (reason : Nat) : Applied := (m, some ⟨reason, 0⟩)
def plain (x : Mach × Nat) : Applied := (x.1, some ⟨x.2, 0⟩)

/-! ### Maquette checks (R334, R335) -/

/-- A condition of a check: whether it holds, its reason, and the object it reads by name and instance. -/
abbrev Cond := Bool × Nat × Nat × Nat

/-- The first condition that fails. -/
def firstFailed : List Cond → Option Verdict
  | [] => none
  | (ok, r, o, i) :: l => if ok then firstFailed l else some ⟨r, oKey o i⟩

/-- A check: refused with its first failed condition, or passed to its initialisation. -/
def check (m : Mach) (conds : List Cond) (init : Mach → Mach) : Applied :=
  match firstFailed conds with
  | some v => (m, some v)
  | none => accept (init m)

/-- A write to an ENABLE object: nothing where it changes nothing. -/
def enableWrite (m : Mach) (o i v : Nat) (on off : Mach → Applied) : Applied :=
  if m.obj o i = v then accept m else if v = 1 then on m else off m

def isPow2 (n : Nat) : Bool := n != 0 && 2 ^ Nat.log2 n == n

/-- The last STATE condition of a partition's check (R370). -/
def Mach.activeCond (m : Mach) (p : Nat) : Cond := ((m.part p).state == .active, rSTATE, O.P_STATE, p)

/-- A table lies wholly in module memory of the partition. -/
def Mach.tableIn (m : Mach) (p a n : Nat) : Bool := isModule a && m.belongs p a n

/-- The quota conditions of a table (R262). -/
def Mach.tableFits (m : Mach) (p a n : Nat) : Bool := m.insidePlaced a n || m.inQuota p 4 n

/-- Whether a command of the partition is with a sequencer or running. -/
def Mach.partRuns (m : Mach) (p : Nat) (f : Cmd → Bool) : Bool :=
  m.received.any (fun c => c.part == p && f c) || m.acts.any fun a => a.cmd.part == p && f a.cmd

/-- SCALE_ENABLE (R69). -/
def Mach.writeScaleEnable (m : Mach) (p v : Nat) : Applied :=
  let a := m.obj O.SCALE_TABLE p
  let n := m.obj O.SCALE_ENTRIES p
  enableWrite m O.SCALE_ENABLE p v
    (fun m => check m
      [(a % 128 == 0, rFIELD, O.SCALE_TABLE, p), (decide (1 ≤ n ∧ n ≤ 65536), rFIELD, O.SCALE_ENTRIES, p),
       (m.tableIn p a (128 * n), rBOUND, O.SCALE_TABLE, p), (m.tableFits p a (128 * n), rQUOTA, O.SCALE_TABLE, p),
       m.activeCond p]
      fun m => (m.wr a (zerosB (128 * n)) false).setObj O.SCALE_ENABLE p 1)
    fun m => if m.partRuns p (fun c => c.opcode == 4) then decline m rSTATE else accept (m.setObj O.SCALE_ENABLE p 0)

/-- PLACE_ENABLE (R283). -/
def Mach.writePlaceEnable (m : Mach) (p v : Nat) : Applied :=
  let a := m.obj O.PLACE_TABLE p
  let n := m.obj O.PLACE_ENTRIES p
  enableWrite m O.PLACE_ENABLE p v
    (fun m => check m
      [(a % 32 == 0, rFIELD, O.PLACE_TABLE, p), (decide (1 ≤ n ∧ n ≤ 4096), rFIELD, O.PLACE_ENTRIES, p),
       (m.tableIn p a (32 * n), rBOUND, O.PLACE_TABLE, p), (m.tableFits p a (32 * n), rQUOTA, O.PLACE_TABLE, p),
       m.activeCond p]
      fun m => ((List.range n).foldl (fun s k => s.wr (a + 32 * k + 18) [0] false) m).setObj O.PLACE_ENABLE p 1)
    fun m =>
      if m.partRuns p fun _ => true then decline m rSTATE
      else
        let os := m.placed.filter fun o => o.part == p
        let m := os.foldl (fun s o => (s.unplace o).writeEntry (a + 32 * o.entry) 0 0 0 0) m
        accept (m.setObj O.PLACE_ENABLE p 0).pruneDirty

/-- Host-memory ranges of the enabled journals and rings, but for one of each (R247), as device addresses: a host
address may be written with its TIER or without (log entry 35). -/
def Mach.hostRanges (m : Mach) (notJ notR : Nat) : List (Nat × Nat) :=
  ((List.range 64).filter fun j => j != notJ && (m.journal j).state != .disabled).flatMap (fun j =>
    [(hostAddr (m.obj O.J_BASE j), 64 * m.obj O.J_SIZE j), (hostAddr (m.obj O.J_CONTROL j), 64),
     (hostAddr (m.obj O.J_STATUS j), 64)]) ++
  ((List.range 64).filter fun r => r != notR && m.obj O.C_ENABLE r == 1).flatMap fun r =>
    [(hostAddr (m.obj O.C_BASE r), 64 * m.obj O.C_SIZE r), (hostAddr (m.obj O.C_CONSUMER r), 64)]

def clashes (l : List (Nat × Nat)) (a n : Nat) : Bool := l.any fun r => rangesOverlap a n r.1 r.2

/-- A journal is enabled (R246): PRODUCE is read, and the status line written. -/
def Mach.startJournal (m : Mach) (j : Nat) : Mach :=
  let a := hostAddr (m.obj O.J_CONTROL j)
  let n := m.rdNat a 8
  let bad := m.rdPoison a 8
  let m := ((m.cacheLine (controlSlot j) (m.rd a 64)).setObj O.J_ENABLE j 1).setJournal j
    ⟨.running, n, n, n, false, none, (m.journal j).reasons⟩
  if bad then (m.hostReadFailed true).stopJournal j rLINK else m.writeStatus j

/-- J_ENABLE (R246, R247, R337). -/
def Mach.writeJEnable (m : Mach) (j v : Nat) : Applied :=
  let size := m.obj O.J_SIZE j
  let p := m.obj O.J_PARTITION j
  let r := m.obj O.J_RING j
  let owner := m.obj O.C_PARTITION r
  let taken := m.hostRanges j 64
  enableWrite m O.J_ENABLE j v
    (fun m => check m
      [(isPow2 size && decide (64 ≤ size ∧ size ≤ 65536), rFIELD, O.J_SIZE, j), (m.obj O.J_BASE j % 4096 == 0, rFIELD, O.J_BASE, j),
       (m.obj O.J_CONTROL j % 64 == 0, rFIELD, O.J_CONTROL, j), (m.obj O.J_STATUS j % 64 == 0, rFIELD, O.J_STATUS, j),
       (p != 0xFF, rFIELD, O.J_PARTITION, j), ((m.part p).exists_, rPARTITION, O.J_PARTITION, j),
       (owner == p || owner == 0xFF, rPARTITION, O.J_RING, j),
       (!clashes taken (hostAddr (m.obj O.J_BASE j)) (64 * size), rOVERLAP, O.J_BASE, j),
       (!clashes taken (hostAddr (m.obj O.J_CONTROL j)) 64, rOVERLAP, O.J_CONTROL, j),
       (!clashes taken (hostAddr (m.obj O.J_STATUS j)) 64, rOVERLAP, O.J_STATUS, j), (m.linkUp, rLINK, O.LINK_STATE, 0),
       (m.obj O.C_ENABLE r == 1, rSTATE, O.J_RING, j), m.activeCond p,
       ((m.journal j).state == .disabled, rSTATE, O.J_STATE, j)]
      fun m => m.startJournal j)
    fun m =>
      let m := m.setObj O.J_ENABLE j 0
      let x := m.journal j
      if (m.inFlight j).isEmpty then accept ((m.closeJournal j).writeStatus j)
      else accept (m.setJournal j { x with state := .draining })

/-- A ring is enabled: CONSUMED is read from its consumer line, once the link is up (R227, R346, R347). -/
def Mach.startRing (m : Mach) (r : Nat) : Mach :=
  let m := ((m.setObj O.C_ENABLE r 1).setRing r ⟨(m.ringOf r).consumed, 0, 0⟩).dropLine (consumerSlot r)
  if m.linkUp then m.readConsumer r else m

/-- C_ENABLE (R247, R342). -/
def Mach.writeCEnable (m : Mach) (r v : Nat) : Applied :=
  let size := m.obj O.C_SIZE r
  let p := m.obj O.C_PARTITION r
  let vec := m.obj O.C_MSIX r
  let taken := m.hostRanges 64 r
  enableWrite m O.C_ENABLE r v
    (fun m => check m
      ([(isPow2 size && decide (64 ≤ size ∧ size ≤ 65536), rFIELD, O.C_SIZE, r), (m.obj O.C_BASE r % 4096 == 0, rFIELD, O.C_BASE, r),
        (m.obj O.C_CONSUMER r % 64 == 0, rFIELD, O.C_CONSUMER, r),
        (vec == 0xFFFF || decide (vec < if p = 0xFF then 2048 else 64), rFIELD, O.C_MSIX, r),
        (p == 0xFF || (m.part p).exists_, rPARTITION, O.C_PARTITION, r),
        (!clashes taken (hostAddr (m.obj O.C_BASE r)) (64 * size), rOVERLAP, O.C_BASE, r),
        (!clashes taken (hostAddr (m.obj O.C_CONSUMER r)) 64, rOVERLAP, O.C_CONSUMER, r)] ++
        if p = 0xFF then [] else [m.activeCond p])
      fun m => m.startRing r)
    fun m =>
      if (List.range 64).any fun j => (m.journal j).state != .disabled && m.obj O.J_RING j == r then decline m rSTATE
      else accept (m.closeRing r)

/-- SCRUB_ENABLE (R335): the pass begins again at the lowest address. -/
def Mach.writeScrubEnable (m : Mach) (v : Nat) : Applied :=
  enableWrite m O.SCRUB_ENABLE 0 v
    (fun m => accept (((List.range 16).foldl (fun s b => s.setBay b { s.bay b with scrubNext := 0 }) m).setObj O.SCRUB_ENABLE 0 1))
    fun m => accept (m.setObj O.SCRUB_ENABLE 0 0)

/-- FLD_ENABLE (R335). -/
def Mach.writeFldEnable (m : Mach) (v : Nat) : Applied :=
  let peer := m.obj O.MGMT_PEER 0
  enableWrite m O.FLD_ENABLE 0 v
    (fun m => check m [(isLinkLocal peer || peer == allNodes, rFIELD, O.MGMT_PEER, 0)] fun m =>
      (m.setObj O.FLD_ENABLE 0 1).probeAddress)
    fun m => accept m.fieldStop

/-- HDM_ENABLE (R348). -/
def Mach.writeHdmEnable (m : Mach) (v : Nat) : Applied :=
  let p := m.obj O.HDM_PARTITION 0
  let a := m.obj O.HDM_DEVICE_BASE 0
  let n := m.obj O.HDM_SIZE 0
  enableWrite m O.HDM_ENABLE 0 v
    (fun m => check m
      [(n % 2 ^ 28 == 0 && decide (2 ^ 28 ≤ n ∧ n ≤ 2 ^ 36), rFIELD, O.HDM_SIZE, 0),
       (isModule a && a % 2 ^ 28 == 0, rFIELD, O.HDM_DEVICE_BASE, 0), ((m.part p).exists_, rPARTITION, O.HDM_PARTITION, 0),
       (m.belongs p a n && decide (addrOff a + n ≤ 2 ^ 36), rPARTITION, O.HDM_DEVICE_BASE, 0), (!(m.part p).confidential, rSTATE, O.P_CONFIDENTIAL, p),
       (m.hdmCommitted.isSome, rSTATE, O.HDM_HOST_BASE, 0), m.activeCond p]
      fun m => (m.setObj O.HDM_HOST_BASE 0 (m.hdmCommitted.getD 0)).setObj O.HDM_ENABLE 0 1)
    fun m => accept (m.setObj O.HDM_ENABLE 0 0)

/-- PS_ENABLE (R361, R362): the conditions before the handshake; the answer is owed at its end. -/
def Mach.writePsEnable (m : Mach) (v : Nat) (w : Owed) : Applied :=
  let role := m.obj O.PS_ROLE 0
  enableWrite m O.PS_ENABLE 0 v
    (fun m =>
      match firstFailed
        [(role == 1 || role == 2, rFIELD, O.PS_ROLE, 0), (m.obj O.PS_PEER_BAR4 0 % 0x40000 == 0, rFIELD, O.PS_PEER_BAR4, 0),
         ((m.part m.psPart).exists_, rPARTITION, O.PS_PARTITION, 0)] with
      | some x => (m, some x)
      | none => (m.psBegin w, none))
    fun m => accept m.psDisable

/-- BOUNCE_ENABLE (R377). -/
def Mach.writeBounceEnable (m : Mach) (p v : Nat) : Applied :=
  enableWrite m O.BOUNCE_ENABLE p v
    (fun m => match m.bounceCheck p with
      | .error (r, o) => (m, some ⟨r, oKey o p⟩)
      | .ok m => accept (m.setObj O.BOUNCE_ENABLE p 1))
    fun m =>
      if m.bounceInUse p then decline m rSTATE
      else accept ((m.setPart p { m.part p with bounce := none }).setObj O.BOUNCE_ENABLE p 0)

/-- Whether a placed object lies in a trace region (R453, R468). -/
def Placed.inTrace (o : Placed) : Bool :=
  o.tier == 2 && (if o.every then decide (o.base % 2 ^ 21 + o.len > 0x180000) else inTraceRegion o.base o.len)

/-- Capture and the link stop; unsent records are counted as dropped (R468). -/
def Mach.stopTrace (m : Mach) : Mach :=
  let count := fun (l : List Bytes) => (l.filter fun r => fld r 0 1 != 3).length
  let m := (List.range 16).foldl (fun s b =>
    s.countDropped b (count (s.toSend b) + ((bayQueues b).map fun q => count (s.capQueue q).recs).foldl (· + ·) 0)) m
  { m with trace := { m.trace with state := .off, queues := [], bufs := [] } }.setObj O.TRACE_ENABLE 0 0

/-- TRACE_ENABLE (R468). -/
def Mach.writeTraceEnable (m : Mach) (v : Nat) : Applied :=
  enableWrite m O.TRACE_ENABLE 0 v
    (fun m => check m [(!m.placed.any Placed.inTrace, rOVERLAP, O.TRACE_ENABLE, 0)] fun m =>
      (m.setObj O.TRACE_ENABLE 0 1).startTraining)
    fun m => accept m.stopTrace

/-! ### Resets and actions -/

/-- TRACE_RESET (R336, R462). -/
def Mach.traceReset (m : Mach) : Mach := if m.traceOn then m.startTraining else m

/-- PT_DELETE (R372). -/
def Mach.deletePart (m : Mach) : Applied :=
  let p := m.obj O.PT_SELECT 0
  if !(m.part p).exists_ then decline m rPARTITION
  else
    let m := m.resetPart p 1
    let m := (List.range 64).foldl (fun s r =>
      if s.obj O.C_PARTITION r = p then (s.closeRing r).setObj O.C_PARTITION r 0xFF else s) m
    let m := if m.obj O.PS_PARTITION 0 = p then m.psReset else m
    accept (m.releasePart p).settle

/-- PT_CREATE (R371): the answer is owed while a package is rewritten blank. -/
def Mach.writeCreate (m : Mach) (w : Owed) : Applied :=
  match m.createRefused with
  | some r => decline m r
  | none =>
    let p := m.obj O.PT_SELECT 0
    let m := m.createPart w
    if (m.part p).creator.isSome then (m, none) else accept m

/-- NUM_SUMMARY (R54): flags cleared in every engine of the named bays the path sees; INV with VALID of the
first-fault records, OVF with the saturation counters. What an engine has set since the slot began stays (R55, R322). -/
def Mach.clearFlags (m : Mach) (p : Path) (v slot : Nat) : Mach :=
  { m with engines := m.engines.map fun (e : Nat × Engine) =>
    let w := bits v (4 * engineBay e.1) 4
    if w = 0 || !m.seesEngine p e.1 then e
    else
      let late := maskOf ((List.range 4).filter fun k => m.setSince (engineFlag e.1 k) slot)
      (e.1, { e.2 with
        flags := e.2.flags - (e.2.flags &&& (w - (w &&& late)))
        sats := if w.testBit 0 then 0 else e.2.sats
        firstFault := if w.testBit 3 && decide (e.2.firstFault / 2 ^ 192 < slot) then
            e.2.firstFault - e.2.firstFault % 2 else e.2.firstFault }) }

/-- Bits of RULE_FIRED or ALERT_CAUSE cleared, but for those set since the slot began (R322). -/
def Mach.clearCause (m : Mach) (o v slot : Nat) : Mach :=
  let late := maskOf ((List.range 32).filter fun k => m.setSince (objFlag o k) slot)
  m.setObj o 0 (m.obj o 0 - (m.obj o 0 &&& (v - (v &&& late))))

/-- Whether a write of the slot resets or deletes a partition (R383). -/
def Mach.resetComes (m : Mach) (p : Nat) : Bool :=
  m.slotWrites.any fun w => w.value == 1 && (w.index * 256 + w.sub == oKey O.P_RESET p ||
    (w.index * 256 + w.sub == oKey O.PT_DELETE 0 && m.obj O.PT_SELECT 0 == p))

/-- TR_FINISH (R457): capture ends. -/
def Mach.finishCapture (m : Mach) : Mach :=
  if m.obj O.TR_MODE 0 = 2 ∧ m.captureOn then { m with trace := { m.trace with state := .sending } }.tryStop else m

/-- TR_RESTART (R466). -/
def Mach.restartCapture (m : Mach) : Applied :=
  if m.trace.state ≠ .stopped then decline m rSTATE
  else
    accept { m with trace := { m.trace with
      state := .capturing
      bufs := if m.obj O.TR_MODE 0 = 2 then [] else m.trace.bufs.map fun x => (x.1, m.keepGap x.1 x.2) } }

/-- FENCE_TILE (R438, R439, R443). -/
def Mach.writeFence (m : Mach) (p : Path) (v : Nat) : Applied :=
  if !(m.viewBays p).contains (v / 640) then decline m rPARTITION
  else accept (if m.modState = .run then m.fence v 3 else m)

/-- A host window (R282): refused where it meets another partition's, and while a journal is enabled. -/
def Mach.writeWindow (m : Mach) (o p v : Nat) : Applied :=
  let x := m.setObj o p v
  let others := ((List.range 16).filter fun q => q != p && (m.part q).exists_).flatMap m.hostWindows
  if (x.hostWindows p).any fun w => clashes others w.1 w.2 then decline m rOVERLAP
  else if !m.journalsDisabled p then decline m rSTATE
  else accept x

/-- A regulator's rate or burst (R272): tokens gained so far are counted at the old figures. -/
def Mach.writeRegulator (m : Mach) (o p v : Nat) : Mach :=
  ((m.part p).bays.foldl (fun s b => s.settleBucket p b 0) m).setObj o p v

/-- The tier a quota object limits. -/
def quotaTier (o : Nat) : Nat := o - O.Q_TILE + 1

/-- FW_LOAD (R436): what the fetch meets comes with the command, or is what host memory holds. -/
def Mach.fetchOf (m : Mach) (f : Option FwFetch) : FwFetch :=
  f.getD (.image (m.rd (hostAddr (m.obj O.FW_SOURCE 0)) (m.obj O.FW_BYTES 0)) [] [])

/-- What a write of `v` to object `o` of instance `i` does. A trigger's write of 0 does not come here. -/
def Mach.applyObj (m : Mach) (p : Path) (o i v : Nat) (fetch : Option FwFetch) (w : Owed) : Applied :=
  if o = O.SCALE_ENABLE then m.writeScaleEnable i v
  else if o = O.PLACE_ENABLE then m.writePlaceEnable i v
  else if o = O.PLACE_COMMIT then plain (m.placeEntry i v)
  else if o = O.J_ENABLE then m.writeJEnable i v
  else if o = O.C_ENABLE then m.writeCEnable i v
  else if o = O.SCRUB_ENABLE then m.writeScrubEnable v
  else if o = O.FLD_ENABLE then m.writeFldEnable v
  else if o = O.HDM_ENABLE then m.writeHdmEnable v
  else if o = O.PS_ENABLE then m.writePsEnable v w
  else if o = O.BOUNCE_ENABLE then m.writeBounceEnable i v
  else if o = O.TRACE_ENABLE then m.writeTraceEnable v
  else if o = O.P_RESET then accept (m.partitionReset i 1)
  else if o = O.UPD_RESET then accept (m.resetUnit i)
  else if o = O.TRACE_RESET then accept m.traceReset
  else if o = O.PS_RESET then accept m.psReset
  else if o = O.FLD_RESET then accept m.fieldReset
  else if o = O.PT_CREATE then m.writeCreate w
  else if o = O.PT_DELETE then m.deletePart
  else if o = O.ATTEST then plain (m.attest i (m.resetComes i))
  else if o = O.FW_LOAD then plain (m.loadFirmware (m.fetchOf fetch))
  else if o = O.FENCE_TILE then m.writeFence p v
  else if o = O.CLEAR_PRIOR then accept { m with start := { m.start with fencedPrior := [] } }
  else if o = O.CLEAR_COUNTS then accept m.clearCounts
  else if o = O.DIE_RETIRED then plain (m.retireDie i v)
  else if o = O.NUM_SUMMARY then accept (m.clearFlags p v w.slotTime)
  else if o = O.TR_FIRE then accept (m.fireTrigger m.now)
  else if o = O.TR_FINISH then accept m.finishCapture
  else if o = O.TR_RESTART then m.restartCapture
  else if o = O.STANDBY then accept (m.setObj o i v).follow
  else if o = O.RULE_FIRED ∨ o = O.ALERT_CAUSE then accept (m.clearCause o v w.slotTime)
  else if o = O.SELECT_HOST ∨ o = O.CTR_SELECT_HOST then
    if m.seesEngine p v then accept (m.setObj o i v) else decline m rPARTITION
  else if O.Q_TILE ≤ o ∧ o ≤ O.Q_HOST then
    if v < m.usage i (quotaTier o) then decline m rQUOTA else accept (m.setObj o i v)
  else if O.HOST_WIN0_BASE ≤ o ∧ o ≤ O.HOST_WIN1_LEN then m.writeWindow o i v
  else if o = O.HANDLE_TABLE then
    if m.tableIn i v (64 * m.obj O.HANDLE_ENTRIES i) then accept (m.setObj o i v) else decline m rBOUND
  else if o = O.PF_RATE ∨ o = O.PF_BURST then accept (m.writeRegulator o i v)
  else if o = O.HDM_SIZE then
    accept ((if m.obj o i = v then m else { m with
      hdmCommitted := none, components := mdel (mdel m.components hdmSizeLow) hdmSizeHigh }).setObj o i v)
  else if o = O.PS_LAG_BOUND then accept (m.setObj o i v).resumeWrites
  else accept (m.setObj o i v)

end Sys2Proof.Machine
end

