-- ==== Sys2Proof/Machine/Dictionary.lean ====
section
/-! DEFINITION. Dictionary requests (R318 to R322, R325 to R331): their arrival on a path, the arbitration of the
slot they arrive in, and their answers. -/

namespace Sys2Proof.Machine

open Sys2Proof

/-! ### Arrival (R319, R320, R327) -/

/-- A request of R327. -/
def requestBytes (op index sub : Nat) (value : Bytes) : Bytes :=
  leBytes 1 op ++ leBytes 1 sub ++ leBytes 2 index ++ leBytes 2 value.length ++ zerosB 2 ++ value

/-- Check 1 on a request; a body of Umpor ends with its value. -/
def requestFormOk (p : Path) (b : Bytes) : Bool :=
  let op := fld b 0 1
  let n := fld b 4 2
  (1 ≤ op && op ≤ 3) && fld b 6 2 == 0 && (if op = 2 then decide (1 ≤ n ∧ n ≤ 1024) else n == 0) &&
    (!p.isMgmt || b.length == n + 8)

/-- A request refused at checks 1 to 3 is answered without a value. -/
def Mach.refuseRequest (m : Mach) (p : Path) (b : Bytes) (reason : Nat) : Mach :=
  m.deliver p reason (answerBytes (fld b 0 1) (fld b 2 2) (fld b 1 1) reason 0 0 0 [])

/-- A request arrives in the present slot. -/
def Mach.arrive (m : Mach) (p : Path) (b : Bytes) (fetch : Option FwFetch) : Mach :=
  let op := fld b 0 1
  let sub := fld b 1 1
  let index := fld b 2 2
  if !requestFormOk p b then m.refuseRequest p b rFIELD
  else if !m.visible p index then m.refuseRequest p b rPARTITION
  else if (rowAt index sub).isNone then m.refuseRequest p b rBOUND
  else if op ≠ 2 then
    if m.serves index then { m with slotReads := m.slotReads ++ [⟨m.now, p, op, index, sub, 0⟩] }
    else m.refuseRequest p b rSTATE
  else
    let value := bytesAt b 8 (fld b 4 2)
    match m.writeCheck p index sub value with
    | 0 => { m with slotWrites := m.slotWrites ++ [⟨m.now, p, index, sub, leNat value, fetch⟩] }
    | r + 1 => { m with slotReads := m.slotReads ++ [⟨m.now, p, 2, index, sub, r + 1⟩] }

/-! ### Arbitration (R321) -/

def SlotWrite.key (w : SlotWrite) : Nat := w.index * 256 + w.sub

/-- Rank within a slot's rivals: the least wins. -/
def writeRank (p : Path) (safe : Bool) : Nat :=
  match p with
  | .umpor _ _ _ => if safe then 0 else 100
  | .pf0 => 1
  | .vf n => 1 + n

/-- The winners of the writes to one object, those that take no part, and the losers. -/
def arbitrate (ws : List SlotWrite) : List SlotWrite × List SlotWrite × List SlotWrite :=
  match ws with
  | [] => ([], [], [])
  | w0 :: _ =>
    match rowAt w0.index w0.sub with
    | none => ([], [], [])
    | some r =>
      let trigger := r.access == .wo && r.type == .bool
      let idle := ws.filter fun w => trigger && w.value == 0
      let live := ws.filter fun w => !(trigger && w.value == 0)
      match live with
      | [] => ([], idle, [])
      | x :: rest =>
        if r.access = .w1c || rest.all fun w => w.value == x.value then (live, idle, [])
        else
          let safe := safety w0.index w0.sub r
          let best := rest.foldl (fun a w => if writeRank w.path safe < writeRank a.path safe then w else a) x
          ([best], idle, live.filter fun w => decide (w ≠ best))

/-- Objects written in the same slot by several paths whose effect depends on the path. -/
def perPath : List Nat := [O.NUM_SUMMARY, O.RULE_FIRED, O.ALERT_CAUSE, O.FENCE_TILE, O.SELECT_HOST, O.CTR_SELECT_HOST]

def objectName (index sub : Nat) : Nat × Nat :=
  match objClass index with
  | some (c, i) => (c * 256 + sub, i)
  | none => (0, 0)

/-- A write and the answer it is given; none where the answer is owed. -/
abbrev Answered := SlotWrite × Option Verdict

/-- Slot boundaries: the start of the slot of a time. -/
def slotStart (t : Nat) : Nat := t / 10 * 10

def SlotWrite.owed (w : SlotWrite) : Owed := ⟨w.path, w.index, w.sub, slotStart w.at_⟩

/-- One winning write takes effect. -/
def Mach.applyWrite (m : Mach) (w : SlotWrite) : Applied :=
  let o := objectName w.index w.sub
  m.applyObj w.path o.1 o.2 w.value w.fetch w.owed

/-- The answer of a write. -/
def Mach.writeAnswer (m : Mach) (w : SlotWrite) (v : Verdict) : Bytes :=
  answerBytes 2 w.index w.sub v.reason (slotStart w.at_) (v.check / 256) (v.check % 256)
    (m.readBytes w.path w.index w.sub)

/-- A write through Umpor that stops the interface is answered before it does (R335, R336). -/
def SlotWrite.stopsField (w : SlotWrite) : Bool :=
  w.path.isMgmt && ((w.key == O.FLD_RESET && w.value == 1) || (w.key == O.FLD_ENABLE && w.value == 0))

def Mach.answerFirst (m : Mach) (w : SlotWrite) : Mach :=
  match w.path with
  | .umpor src port token =>
    let b := answerBytes 2 w.index w.sub 0 (slotStart w.at_) 0 0 [0]
    m.sendFrame ⟨src, port, 255, umporHeader 2 token b.length ++ b⟩
  | _ => m

/-- The writes to one object of a slot. -/
def Mach.applyGroup (m : Mach) (ws : List SlotWrite) : Mach × List Answered :=
  let a := arbitrate ws
  let m := (a.1.filter SlotWrite.stopsField).foldl Mach.answerFirst m
  let each := a.1.any fun w => perPath.contains w.key
  let done := match a.1 with
    | [] => (m, [])
    | w :: rest =>
      if each then
        a.1.foldl (fun (x : Mach × List Answered) w =>
          let y := x.1.applyWrite w
          (y.1, x.2 ++ [(w, y.2)])) (m, [])
      else
        let y := m.applyWrite w
        (y.1, (w, y.2) :: rest.map fun u => (u, y.2))
  (done.1, (done.2.filter fun x => !x.1.stopsField) ++ a.2.1.map (fun w => (w, some Verdict.ok)) ++
    a.2.2.map fun w => (w, some ⟨rPREEMPTED, 0⟩))

/-! ### The slot (R320, R322) -/

def enableObjects : List Nat :=
  [O.SCALE_ENABLE, O.PLACE_ENABLE, O.J_ENABLE, O.C_ENABLE, O.SCRUB_ENABLE, O.FLD_ENABLE, O.HDM_ENABLE, O.PS_ENABLE,
   O.BOUNCE_ENABLE, O.TRACE_ENABLE]
def resetObjects : List Nat := [O.P_RESET, O.UPD_RESET, O.TRACE_RESET, O.PS_RESET, O.FLD_RESET]

/-- The order of R322: other objects, ENABLE objects, reset objects, each by index and subindex. -/
def applyOrder (w : SlotWrite) : Nat :=
  let o := (objectName w.index w.sub).1
  (if enableObjects.contains o then 1 else if resetObjects.contains o then 2 else 0) * 2 ^ 24 + w.key

/-- Writes in order, those to one object together. -/
def groupWrites : List SlotWrite → List (List SlotWrite)
  | [] => []
  | w :: r =>
    match groupWrites r with
    | (x :: g) :: rest => if x.key = w.key then (w :: x :: g) :: rest else [w] :: (x :: g) :: rest
    | [] :: rest => [w] :: rest
    | [] => [[w]]

/-- The answer of a request that waited for the writes of its slot. -/
def Mach.readAnswer (m : Mach) (r : SlotRead) : Bytes :=
  answerBytes r.op r.index r.sub r.reason 0 0 0
    (if r.op = 3 then m.describeBytes r.index r.sub else m.readBytes r.path r.index r.sub)

/-- The writes of the slot take effect, then its answers are given. -/
def Mach.closeSlot (m : Mach) : Mach :=
  let ws := sortBy (fun a b => decide (applyOrder a ≤ applyOrder b)) m.slotWrites
  let rs := m.slotReads
  let x := (groupWrites ws).foldl (fun (x : Mach × List Answered) g =>
    let y := x.1.applyGroup g
    (y.1, x.2 ++ y.2)) (m, [])
  let m := { x.1 with slotWrites := [], slotReads := [] }
  let m := x.2.foldl (fun s a => match a.2 with
    | some v => s.deliver a.1.path v.reason (s.writeAnswer a.1 v)
    | none => s) m
  rs.foldl (fun s r => s.deliver r.path r.reason (s.readAnswer r)) m

/-- A management request is in the slot. -/
def Mach.mgmtInSlot (m : Mach) : Bool :=
  m.slotWrites.any (fun w => w.path.isMgmt) || m.slotReads.any fun r => r.path.isMgmt

/-- The oldest queued Umpor request arrives in the slot if no other is in it (R330). -/
def Mach.admitRequest (m : Mach) (fetch : Option FwFetch) : Mach :=
  if m.mgmtInSlot then m
  else
    match m.umpor with
    | [] => m
    | r :: rest => { m with umpor := rest }.arrive (.umpor r.src r.srcPort r.token) r.body fetch

/-- The slot of the requests that wait, or of now. -/
def Mach.openSlot (m : Mach) : Nat :=
  match m.slotWrites.map (·.at_) ++ m.slotReads.map (·.at_) with
  | t :: _ => slotStart t
  | [] => slotStart m.now

/-- The end of the open slot. -/
def Mach.endSlot (m : Mach) (fetch : Option FwFetch) : Mach :=
  let m := if m.openSlot = slotStart m.now then m.admitRequest fetch else m
  let t := m.openSlot + 10
  (m.upTo t).closeSlot

/-- A slot that time has passed ends before another request arrives. -/
def Mach.pastSlot (m : Mach) : Mach := if m.openSlot = slotStart m.now then m else m.endSlot none

/-- ARBITRATION_SLOT_END (R320 to R322). -/
def arbitrationSlotEnd (m : Mach) : Res :=
  if !m.plinthUp then .next m else .next (m.endSlot none)

/-! ### The host mailbox (R323, R325) -/

/-- The host can reach the registers of the functions. -/
def Mach.hostReaches (m : Mach) : Bool := m.obj O.LINK_STATE 0 == 1 || m.obj O.LINK_STATE 0 == 2

/-- GO: BUSY sets and the request is taken. -/
def Mach.go (m : Mach) (p : Path) (fetch : Option FwFetch) : Mach :=
  let x := m.mailbox p.fn
  if x.busy then m
  else
    let b := bytesAt x.request 0 1280
    (m.pastSlot.setMailbox p.fn { m.pastSlot.mailbox p.fn with busy := true }).arrive p b fetch

/-- A request written into the mailbox of a function, and GO. -/
def Mach.mailboxRequest (m : Mach) (p : Path) (b : Bytes) (fetch : Option FwFetch) : Mach :=
  let x := m.mailbox p.fn
  if x.busy then m else (m.setMailbox p.fn { x with request := bytesAt b 0 1280 }).go p fetch

/-- A request on any path. One of Umpor takes its place behind those that are queued. -/
def Mach.submit (m : Mach) (p : Path) (b : Bytes) (fetch : Option FwFetch) : Mach :=
  match p with
  | .umpor src port token =>
    if !m.fieldUp || m.obj O.FLD_LINK 0 = 0 then m
    else
      let m := m.pastSlot
      let alone := m.umpor.isEmpty
      let m := m.takeRequest ⟨src, port, m.obj O.FLD_PORT 0, 255, true, umporHeader 1 token b.length ++ b⟩
      if alone then m.admitRequest fetch else m
  | _ => if m.hostReaches then m.mailboxRequest p b fetch else m

/-! ### Rows -/

/-- An aligned 32-bit read of a window. -/
def Mach.readBar (m : Mach) (p : Path) (bar off : Nat) : Nat × Mach :=
  if bar = 0 then (m.readReg p.fn off, m) else if bar = 2 then m.readComponent off else (m.readWindow off, m)

/-- The 32-bit reads of a register access. -/
def Mach.regReads (m : Mach) (p : Path) (bar : Nat) : Nat → Nat → Bytes × Mach
  | 0, _ => ([], m)
  | n + 1, off =>
    let x := m.readBar p bar off
    let r := x.2.regReads p bar n (off + 4)
    (leBytes 4 x.1 ++ r.1, r.2)

/-- READ (R319): an object's request, or registers as the bus returns them (R323, R340). -/
def dictRead (p : Path) (t : Target) (m : Mach) : Res :=
  match t with
  | .obj index sub => .next (m.submit p (requestBytes 1 index sub []) none)
  | .reg bar off len =>
    if !m.hostReaches then .next m
    else
      let r := m.regReads p bar (len / 4) off
      .next { r.2 with returned := (r.1, false) }

/-- The 32-bit writes of a register access to BAR0. -/
def Mach.regWrites (m : Mach) (p : Path) : Nat → Nat → Bytes → Mach
  | 0, _, _ => m
  | n + 1, off, b =>
    let v := fld b 0 4
    let m := m.writeReg p.fn off v
    let m := if off = 0x1000 ∧ v % 2 = 1 then m.go p none else m
    m.regWrites p n (off + 4) (b.drop 4)

/-- The same to BAR2. -/
def Mach.componentWrites (m : Mach) : Nat → Nat → Bytes → Mach
  | 0, _, _ => m
  | n + 1, off, b => (m.writeComponent off (fld b 0 4)).componentWrites n (off + 4) (b.drop 4)

/-- WRITE (R319): an object's request, or registers (R323, R324, R340, R354). -/
def dictWrite (p : Path) (t : Target) (value : Bytes) (m : Mach) : Res :=
  match t with
  | .obj index sub => .next (m.submit p (requestBytes 2 index sub value) none)
  | .reg bar off len =>
    if !m.hostReaches then .next m
    else if bar = 0 then .next (m.regWrites p (len / 4) off value)
    else if bar = 2 then .next (m.componentWrites (len / 4) off value)
    else writeWindowReg off value m

/-- DESCRIBE (R329). -/
def dictDescribe (p : Path) (index sub : Nat) (m : Mach) : Res :=
  .next (m.submit p (requestBytes 3 index sub []) none)

/-- A write to an object with a row of its own: it arrives, and its slot ends. -/
def ownWrite (p : Path) (o i : Nat) (value : Bytes) (fetch : Option FwFetch) (m : Mach) : Res :=
  let k := oKey o i
  if p.isMgmt && (!m.fieldUp || m.obj O.FLD_LINK 0 == 0) || !p.isMgmt && !m.hostReaches then .next m
  else .next ((m.submit p (requestBytes 2 (k / 256) (k % 256) value) fetch).endSlot none)

end Sys2Proof.Machine
end

