-- ==== Sys2Proof/WellFormed.lean ====
section
/-! DEFINITION. Which commands are well-formed: their operands name units the module has and fit the fields that
carry them. What a request, a descriptor or a frame says inside those fields is checked by the machine. -/

namespace Sys2Proof

open Sys2Proof.Machine

/-! ### Units (R13 to R15, R221, R227, R256) -/

def okTile (t : Nat) : Bool := decide (t < 10240)
def okCluster (c : Nat) : Bool := decide (c < 160)
def okBay (b : Nat) : Bool := decide (b < 16)
def okJournal (j : Nat) : Bool := decide (j < 64)
def okRing (r : Nat) : Bool := decide (r < 64)
def okPll (k : Nat) : Bool := decide (k < 4)

/-- A number of a field of `n` bytes. -/
def fits (n v : Nat) : Bool := decide (v < 2 ^ (8 * n))

def CmdId.ok (c : CmdId) : Bool := okJournal c.journal && fits 6 c.seq && decide (c.sub < 32)

/-- A descriptor's own identifier. -/
def CmdId.whole (c : CmdId) : Bool := c.ok && c.sub == 0

/-! ### Dictionary traffic (R318, R323, R331, R340) -/

def Path.ok : Path → Bool
  | .pf0 => true
  | .vf n => decide (1 ≤ n ∧ n ≤ 16)
  | .umpor src port token => fits 16 src && isLinkLocal src && fits 2 port && port != 0 && fits 2 token

def Target.ok (p : Path) : Target → Bool
  | .obj index sub => fits 2 index && fits 1 sub
  | .reg bar off len =>
    (match p, bar with
      | .umpor _ _ _, _ => false
      | _, 0 | .pf0, 2 => decide (off < 65536)
      | .pf0, 4 => decide (off < 262144)
      | _, _ => false) && (len == 4 || len == 8) && off % len == 0

/-- A value a request can carry; registers take the bytes of their access. -/
def writeOk (t : Target) (v : Bytes) : Bool :=
  match t with
  | .obj _ _ => decide (v.length ≤ 1272)
  | .reg _ _ len => v.length == len

def Frame.ok (f : Frame) : Bool :=
  fits 16 f.src && fits 2 f.srcPort && f.srcPort != 0 && fits 2 f.dstPort && fits 1 f.hop && decide (f.payload.length ≤ 1452)

/-! ### What the environment supplies -/

def HostRead.sized : HostRead → Bool
  | .ok d _ => d.length == 64
  | .fail => true

/-- A line address, the nine channels of a package, and the bits of a STATE byte. -/
def LineObs.ok (o : LineObs) : Bool :=
  decide (o.addr < 2 ^ 40 ∧ o.fail1 < 512 ∧ o.state1 < 256 ∧ o.fail2 < 512 ∧ o.state2 < 256)

/-- The 72 bits of an SRAM word, and a hash of seven bits (R285). -/
def WordObs.ok (o : WordObs) : Bool := decide (o.flips < 2 ^ 72 ∧ o.hash < 128)

/-- The address of an SRAM word of eight bytes. -/
def wordOk (a : Nat) : Bool := (tierOf a == some .cluster || tierOf a == some .tile) && a % 8 == 0

/-- A leaf is one of at most 64 contributions of a bay (R162); a mantissa has 32 bits. -/
def BitHit.ok (h : BitHit) : Bool :=
  (match h.leaf with | some j => decide (j < 64) | none => true) && decide (h.elem < 64 ∧ h.bit < 32)

def ReadErr.ok : ReadErr → Bool
  | .line o | .merge o => o.ok
  | .word a o => wordOk a && o.ok

def SramWord.ok : SramWord → Bool
  | .store a => wordOk a
  | .baySequencer b => okBay b
  | .tileSequencer t => okTile t

def fragmentOk (b : Bytes) : Bool := decide (32 ≤ b.length ∧ b.length ≤ 4096)

/-- A sample (R396, R400): measured inputs as finite FP32 codes, pin levels as 0 or 1.0, the strap of four pins. -/
def sampleOk (s : Sample) : Bool :=
  s.all fun e =>
    (measured e.1 && fits 4 e.2 && (dec32 e.2).isFinite) ||
      (decide (0x70 ≤ e.1 ∧ e.1 ≤ 0x72) && (e.2 == 0 || e.2 == 0x3F800000)) || (e.1 == 0x76 && decide (e.2 < 16))

def BadParts.ok (b : BadParts) : Bool :=
  b.slots.all (fun s => decide (s < 160 * 68)) && b.clusters.all okCluster && b.bays.all okBay && b.hubs.all okBay

def Fuses.ok (f : Fuses) : Bool :=
  fits 16 f.serial && fits 6 f.eui48 && fits 32 f.vendorKeyHash && fits 4 f.minSvn && fits 32 f.identitySeed &&
    f.badSlots.all fun s => decide (s < 160 * 68)

def LinkKind.ok : LinkKind → Bool
  | .tilePort t => okTile t
  | .clusterAttachment c => okCluster c
  | .bayMesh b => okBay b
  | .bayLink => true

def FwFetch.ok : FwFetch → Bool
  | .image _ tiles bays => tiles.all okTile && bays.all okBay
  | .linkFail => true

/-- A well-formed command. -/
def Instr.wf : Instr → Bool
  | .productF c | .productDx c | .productDw c | .cast c | .rotate c | .add c | .mul c
  | .biasAct c | .rmsnorm c | .layernorm c | .softmax c | .xent c | .softmaxBwd c
  | .normBwd c | .actBwd c | .matmul c | .reduceCols c | .reduce c | .onePass c
  | .twoPass c | .copy c | .multicast c | .scaleSeed c | .scaleSeedClear c | .dump c
  | .dense c | .topk c | .importGrad c => c.id.whole && c.errs.all ReadErr.ok
  | .allEarlier c | .command c | .seal c => c.whole
  | .read p t => p.ok && t.ok p
  | .write p t v => p.ok && t.ok p && writeOk t v
  | .describe p index sub => p.ok && fits 2 index && fits 1 sub
  | .scaleEnable path p v | .placeEnable path p v | .bounceEnable path p v | .pReset path p v | .attest path p v =>
    path.ok && decide (p < 16) && fits 1 v
  | .placeCommit path p v => path.ok && decide (p < 16) && fits 4 v
  | .jEnable path j v => path.ok && okJournal j && fits 1 v
  | .cEnable path r v => path.ok && okRing r && fits 1 v
  | .updReset path b v => path.ok && okBay b && fits 1 v
  | .dieRetired path b v => path.ok && okBay b && fits 2 v
  | .scrubEnable path v | .fldEnable path v | .hdmEnable path v | .psEnable path v | .traceEnable path v
  | .traceReset path v | .psReset path v | .fldReset path v | .ptCreate path v | .ptDelete path v
  | .clearPrior path v | .clearCounts path v | .trFire path v | .trFinish path v | .trRestart path v
  | .standby path v => path.ok && fits 1 v
  | .fwLoad path v f => path.ok && fits 1 v && f.ok
  | .fenceTile path v => path.ok && fits 2 v
  | .numSummary path v => path.ok && fits 8 v
  | .rules path v => path.ok && v.length == 512
  | .ruleFired path v => path.ok && fits 4 v
  | .hdmCommit base size => fits 8 base && fits 8 size
  | .request f | .noticeAck f | .icmpv6Echo f => f.ok
  | .noticeResend token => fits 2 token
  | .transmitOpportunity => true
  | .controlLineInvalidate j rd | .entryFetch j rd => okJournal j && rd.sized
  | .statusLineWrite j | .fenceRelease j => okJournal j
  | .waitTimeout c => c.whole
  | .completionRecord r | .msixModerationTimeout r => okRing r
  | .consumerLineUpdate r rd => okRing r && rd.sized
  | .counterBind c cluster => c.ok && okCluster cluster
  | .workCounterRequest e => engineOk e
  | .workItemEnd e _ errs => engineOk e && errs.all ReadErr.ok
  | .scaleLatch c => c.id.ok && c.errs.all ReadErr.ok
  | .recomputeSwitch c | .recomputeNext c | .reduceResultBlock c | .updateAgreement c
  | .hostReadTimeout c => c.ok
  | .outlierAddBack cluster errs | .fallbackItem cluster errs => okCluster cluster && errs.all ReadErr.ok
  | .transferIssue b | .lentBind b => okBay b
  | .transferDone b _ errs => okBay b && errs.all ReadErr.ok
  | .dryTimeAging b c => okBay b && c.ok
  | .multicastDrop c t => c.ok && okTile t
  | .lentRevoke t errs => okTile t && errs.all ReadErr.ok
  | .scrubLine b o => okBay b && o.ok
  | .sramScrub w o => w.ok && o.ok
  | .sramWriteBack a => wordOk a
  | .lineWriteBack l => decide (l < 2 ^ 32)
  | .reduceBayBlock c b hits errs => c.ok && okBay b && hits.all BitHit.ok && errs.all ReadErr.ok
  | .updatePass2 c b errs => c.ok && okBay b && errs.all ReadErr.ok
  | .psSendLine x => okBay x.bay && x.errs.all ReadErr.ok
  | .heartbeat | .psPeerTimeout | .psHandshakeTimeout => true
  | .psApplyRecord b r => okBay b && r.length == 304
  | .psAckTimer b => okBay b
  | .acked b v => okBay b && fits 8 v
  | .hello f | .report f | .encap f | .confirm f | .sweepDone f | .close f | .ack f => fragmentOk f
  | .linkUp mode width speed =>
    (mode == 1 || mode == 2) && [1, 2, 4, 8, 16].contains width && [8, 16, 32].contains speed
  | .linkDown | .perstAssert | .perstRelease | .pf0Flr => true
  | .vfFlr n => decide (1 ≤ n ∧ n ≤ 16)
  | .hdmRead a n errs => fits 8 a && a % 64 == 0 && n == 64 && errs.all ReadErr.ok
  | .hdmWrite a d _ errs => fits 8 a && a % 64 == 0 && d.length == 64 && errs.all ReadErr.ok
  | .inputApplied | .inputRemoved | .modEnHigh | .efuseTrip => true
  | .plinthSample s => sampleOk s
  | .droopDetect b | .droopRelease b => okBay b
  | .governorInterval act => act.all fun e => okBay e.1
  | .pllUnlock k | .pllRelock k | .pllLockTimeout k => okPll k
  | .bayStoreUncorrectable x => okBay x.unit && x.obs.ok
  | .bayWatchdogRestart b | .bayWatchdogExpiry b | .bSleep b | .bOff b
  | .bayWakeStart b | .bayWakeDone b => okBay b
  | .standbyDrainTimeout | .standbyEntry | .standbyWakeDone _ => true
  | .s0Plinth _ slot => decide (slot < 16)
  | .s1Rails _ | .s7Host _ | .s9Ready _ => true
  | .s2Fuses _ f => f.ok
  | .s3Sram _ b | .s4Tiles _ b => b.ok
  | .s5Armature _ errs => errs.all fun x => x.1.ok
  | .s6Memory _ errs => errs.all fun x => decide (x.1 < 144)
  | .tileSequencerStoreFault x => okTile x.unit && x.obs.ok
  | .tileWatchdogRestart t | .tileWatchdogExpiry t => okTile t
  | .trngFail => true
  | .traceQueueDrain b => okBay b
  | .traceFrameSend | .traceAlign | .traceCaptureEnd | .traceTrainingEnd | .arbitrationSlotEnd => true
  | .plcaBeacon link => decide (link ≤ 2)
  | .neighbourDiscovery x => fits 16 x.target && fits 16 x.src
  | .peerHeartbeat t => fits 8 t
  | .packageBlankRewrite b => okBay b

end Sys2Proof
end

