-- ==== Sys2Proof/Machine/Guard.lean ====
section
/-! DEFINITION. How a meaning of the module becomes one of the state: a command that is not well-formed is a
fault, and the queue is left alone. -/

namespace Sys2Proof.Machine

open Sys2Proof

/-- What a command answers. -/
abbrev Outcome := Host.Outcome State Fault Refusal

/-- The meaning of a well-formed command. -/
def guarded (i : Instr) (r : Mach → Res) (s : State) : Outcome :=
  if i.wf then State.lift r s else .fault .illFormed

/-- The same for the two commands that begin module time anew (R393). -/
def guardedRaw (i : Instr) (r : Mach → Res) (s : State) : Outcome :=
  if i.wf then State.liftRaw r s else .fault .illFormed

end Sys2Proof.Machine
end

