-- ==== Sys2Proof/Machine/ExecCommands.lean ====
section
/-! DEFINITION. The meanings of the descriptors of a journal (R230), one for each constructor. What writes memory is held
whole where the mirror does not accept it (R359). -/

namespace Sys2Proof.Machine

open Sys2Proof

/-- PRODUCT_F (R95). -/
def execProductF (c : Reading) (s : State) : Outcome :=
  guarded (.productF c) (heldWrites (hostChecked productF c.id c.errs)) s

/-- PRODUCT_DX (R107). -/
def execProductDx (c : Reading) (s : State) : Outcome :=
  guarded (.productDx c) (heldWrites (hostChecked productDx c.id c.errs)) s

/-- PRODUCT_DW (R107). -/
def execProductDw (c : Reading) (s : State) : Outcome :=
  guarded (.productDw c) (heldWrites (hostChecked productDw c.id c.errs)) s

/-- CAST (R79). -/
def execCast (c : Reading) (s : State) : Outcome :=
  guarded (.cast c) (heldWrites (hostChecked castRow c.id c.errs)) s

/-- ROTATE (R80). -/
def execRotate (c : Reading) (s : State) : Outcome :=
  guarded (.rotate c) (heldWrites (hostChecked rotateRow c.id c.errs)) s

/-- ADD (R149). -/
def execAdd (c : Reading) (s : State) : Outcome :=
  guarded (.add c) (heldWrites (hostChecked wideAdd c.id c.errs)) s

/-- MUL (R149). -/
def execMul (c : Reading) (s : State) : Outcome :=
  guarded (.mul c) (heldWrites (hostChecked wideMul c.id c.errs)) s

/-- BIAS_ACT (R149). -/
def execBiasAct (c : Reading) (s : State) : Outcome :=
  guarded (.biasAct c) (heldWrites (hostChecked wideBiasAct c.id c.errs)) s

/-- RMSNORM (R149). -/
def execRmsnorm (c : Reading) (s : State) : Outcome :=
  guarded (.rmsnorm c) (heldWrites (hostChecked wideRmsnorm c.id c.errs)) s

/-- LAYERNORM (R149). -/
def execLayernorm (c : Reading) (s : State) : Outcome :=
  guarded (.layernorm c) (heldWrites (hostChecked wideLayernorm c.id c.errs)) s

/-- SOFTMAX (R149). -/
def execSoftmax (c : Reading) (s : State) : Outcome :=
  guarded (.softmax c) (heldWrites (hostChecked wideSoftmax c.id c.errs)) s

/-- XENT (R149). -/
def execXent (c : Reading) (s : State) : Outcome :=
  guarded (.xent c) (heldWrites (hostChecked wideXent c.id c.errs)) s

/-- SOFTMAX_BWD (R149). -/
def execSoftmaxBwd (c : Reading) (s : State) : Outcome :=
  guarded (.softmaxBwd c) (heldWrites (hostChecked wideSoftmaxBwd c.id c.errs)) s

/-- NORM_BWD (R149). -/
def execNormBwd (c : Reading) (s : State) : Outcome :=
  guarded (.normBwd c) (heldWrites (hostChecked wideNormBwd c.id c.errs)) s

/-- ACT_BWD (R149). -/
def execActBwd (c : Reading) (s : State) : Outcome :=
  guarded (.actBwd c) (heldWrites (hostChecked wideActBwd c.id c.errs)) s

/-- MATMUL (R145). -/
def execMatmul (c : Reading) (s : State) : Outcome :=
  guarded (.matmul c) (heldWrites (hostChecked wideMatmul c.id c.errs)) s

/-- REDUCE_COLS (R149). -/
def execReduceCols (c : Reading) (s : State) : Outcome :=
  guarded (.reduceCols c) (heldWrites (hostChecked wideReduceCols c.id c.errs)) s

/-- REDUCE (R164). -/
def execReduce (c : Reading) (s : State) : Outcome :=
  guarded (.reduce c) (heldWrites (reduceRow c.id c.errs)) s

/-- ONE_PASS (R204). -/
def execOnePass (c : Reading) (s : State) : Outcome :=
  guarded (.onePass c) (heldWrites (onePassRow c.id c.errs)) s

/-- TWO_PASS (R205). -/
def execTwoPass (c : Reading) (s : State) : Outcome :=
  guarded (.twoPass c) (heldWrites (twoPassRow c.id c.errs)) s

/-- COPY (R268). -/
def execCopy (c : Reading) (s : State) : Outcome :=
  guarded (.copy c) (heldWrites (copyRow c.id c.errs)) s

/-- MULTICAST (R274). -/
def execMulticast (c : Reading) (s : State) : Outcome :=
  guarded (.multicast c) (heldWrites (multicastRow c.id c.errs)) s

/-- ALL_EARLIER (R244). -/
def execAllEarlier (c : CmdId) (s : State) : Outcome := guarded (.allEarlier c) (waitAllEarlier c) s

/-- COMMAND (R244). -/
def execCommand (c : CmdId) (s : State) : Outcome := guarded (.command c) (waitCommand c) s

/-- SEAL (R360). -/
def execSeal (c : CmdId) (s : State) : Outcome := guarded (.seal c) (waitSeal c) s

/-- SCALE_SEED (R77). -/
def execScaleSeed (c : Reading) (s : State) : Outcome :=
  guarded (.scaleSeed c) (heldWrites (scaleSeed c.id c.errs)) s

/-- SCALE_SEED_CLEAR (R77). -/
def execScaleSeedClear (c : Reading) (s : State) : Outcome :=
  guarded (.scaleSeedClear c) (heldWrites (scaleSeedClear c.id c.errs)) s

/-- DUMP (R463). -/
def execDump (c : Reading) (s : State) : Outcome :=
  guarded (.dump c) (heldWrites (dumpRow c.id c.errs)) s

/-- DENSE (R180). -/
def execDense (c : Reading) (s : State) : Outcome :=
  guarded (.dense c) (heldWrites (exportDense c.id c.errs)) s

/-- TOPK (R181). -/
def execTopk (c : Reading) (s : State) : Outcome :=
  guarded (.topk c) (heldWrites (exportTopk c.id c.errs)) s

/-- IMPORT (R185). -/
def execImportGrad (c : Reading) (s : State) : Outcome :=
  guarded (.importGrad c) (heldWrites (importRow c.id c.errs)) s

end Sys2Proof.Machine
end

