-- ==== Sys2Proof/Machine/ExecData.lean ====
section
/-! DEFINITION. The meanings of data movement, stored data, reduction, update and the pointing stream, one for each
constructor. What writes memory is held whole where the mirror does not accept it (R359). -/

namespace Sys2Proof.Machine

open Sys2Proof

/-- TRANSFER_ISSUE (R270). -/
def execTransferIssue (bay : Nat) (s : State) : Outcome := guarded (.transferIssue bay) (transferIssue bay) s

/-- TRANSFER_DONE (R269). -/
def execTransferDone (bay : Nat) (ticket : Nat) (errs : List ReadErr) (s : State) : Outcome :=
  guarded (.transferDone bay ticket errs) (heldWrites (transferDone bay ticket errs)) s

/-- DRY_TIME_AGING (R270). -/
def execDryTimeAging (bay : Nat) (c : CmdId) (s : State) : Outcome :=
  guarded (.dryTimeAging bay c) (dryTimeAging bay c) s

/-- MULTICAST_DROP (R276). -/
def execMulticastDrop (c : CmdId) (tile : Nat) (s : State) : Outcome :=
  guarded (.multicastDrop c tile) (multicastDrop c tile) s

/-- LENT_BIND (R265). -/
def execLentBind (bay : Nat) (s : State) : Outcome := guarded (.lentBind bay) (lentBind bay) s

/-- LENT_REVOKE (R266). -/
def execLentRevoke (tile : Nat) (errs : List ReadErr) (s : State) : Outcome :=
  guarded (.lentRevoke tile errs) (heldWrites (lentRevoke tile errs)) s

/-- SCRUB_LINE (R306). -/
def execScrubLine (bay : Nat) (o : LineObs) (s : State) : Outcome := guarded (.scrubLine bay o) (scrubLine bay o) s

/-- SRAM_SCRUB (R307). -/
def execSramScrub (w : SramWord) (o : WordObs) (s : State) : Outcome := guarded (.sramScrub w o) (sramScrub w o) s

/-- LINE_WRITE_BACK (R300). -/
def execLineWriteBack (line : Nat) (s : State) : Outcome := guarded (.lineWriteBack line) (lineWriteBack line) s

/-- SRAM_WRITE_BACK (R287). -/
def execSramWriteBack (addr : Nat) (s : State) : Outcome := guarded (.sramWriteBack addr) (sramWriteBack addr) s

/-- REDUCE_BAY_BLOCK (R170). -/
def execReduceBayBlock (c : CmdId) (bay : Nat) (hits : List BitHit) (errs : List ReadErr) (s : State) : Outcome :=
  guarded (.reduceBayBlock c bay hits errs) (heldWrites (reduceBayBlock c bay hits errs)) s

/-- REDUCE_RESULT_BLOCK (R177). -/
def execReduceResultBlock (c : CmdId) (s : State) : Outcome := guarded (.reduceResultBlock c) (heldWrites (reduceResultBlock c)) s

/-- UPDATE_AGREEMENT (R205). -/
def execUpdateAgreement (c : CmdId) (s : State) : Outcome := guarded (.updateAgreement c) (heldWrites (updateAgreement c)) s

/-- UPDATE_PASS_2 (R205). -/
def execUpdatePass2 (c : CmdId) (bay : Nat) (errs : List ReadErr) (s : State) : Outcome :=
  guarded (.updatePass2 c bay errs) (heldWrites (updatePass2 c bay errs)) s

/-- PS_SEND_LINE (R357): of a bay, with what its read meets. -/
def execPsSendLine (s : State) (x : LineSend := ⟨0, []⟩) : Outcome :=
  guarded (.psSendLine x) (psSendLine x.bay x.errs) s

/-- PS_APPLY_RECORD (R358). -/
def execPsApplyRecord (bay : Nat) (record : Bytes) (s : State) : Outcome :=
  guarded (.psApplyRecord bay record) (psApplyRecord bay record) s

/-- PS_ACK_TIMER (R358). -/
def execPsAckTimer (bay : Nat) (s : State) : Outcome := guarded (.psAckTimer bay) (psAckTimer bay) s

/-- ACKED (R359). -/
def execAcked (bay : Nat) (v : Nat) (s : State) : Outcome := guarded (.acked bay v) (acked bay v) s

/-- HEARTBEAT (R361). -/
def execHeartbeat (s : State) : Outcome := guarded .heartbeat heartbeat s

/-- PS_PEER_TIMEOUT (R361). -/
def execPsPeerTimeout (s : State) : Outcome := guarded .psPeerTimeout psPeerTimeout s

/-- HELLO (R386). -/
def execHello (fragment : Bytes) (s : State) : Outcome := guarded (.hello fragment) (hello fragment) s

/-- REPORT (R386). -/
def execReport (fragment : Bytes) (s : State) : Outcome := guarded (.report fragment) (report fragment) s

/-- ENCAP (R386). -/
def execEncap (fragment : Bytes) (s : State) : Outcome := guarded (.encap fragment) (encap fragment) s

/-- CONFIRM (R386). -/
def execConfirm (fragment : Bytes) (s : State) : Outcome := guarded (.confirm fragment) (confirm fragment) s

/-- SWEEP_DONE (R363). -/
def execSweepDone (fragment : Bytes) (s : State) : Outcome := guarded (.sweepDone fragment) (sweepDone fragment) s

/-- CLOSE (R361). -/
def execClose (fragment : Bytes) (s : State) : Outcome := guarded (.close fragment) (close fragment) s

/-- ACK (R385). -/
def execAck (fragment : Bytes) (s : State) : Outcome := guarded (.ack fragment) (ack fragment) s

/-- PS_HANDSHAKE_TIMEOUT (R362). -/
def execPsHandshakeTimeout (s : State) : Outcome := guarded .psHandshakeTimeout psHandshakeTimeout s

end Sys2Proof.Machine
end

