-- ==== Sys2Proof/Machine/ExecDictionary.lean ====
section
/-! DEFINITION. The meanings of requests to the dictionary (R319) and the HDM commit, one for each constructor. -/

namespace Sys2Proof.Machine

open Sys2Proof

/-- READ (R319). -/
def execRead (p : Path) (t : Target) (s : State) : Outcome := guarded (.read p t) (dictRead p t) s

/-- WRITE (R319). -/
def execWrite (p : Path) (t : Target) (value : Bytes) (s : State) : Outcome :=
  guarded (.write p t value) (dictWrite p t value) s

/-- DESCRIBE (R329). -/
def execDescribe (p : Path) (index : Nat) (sub : Nat) (s : State) : Outcome :=
  guarded (.describe p index sub) (dictDescribe p index sub) s

/-- SCALE_ENABLE (R69). -/
def execScaleEnable (path : Path) (p : Nat) (v : Nat) (s : State) : Outcome :=
  guarded (.scaleEnable path p v) (ownWrite path O.SCALE_ENABLE p (leBytes 1 v) none) s

/-- PLACE_ENABLE (R283). -/
def execPlaceEnable (path : Path) (p : Nat) (v : Nat) (s : State) : Outcome :=
  guarded (.placeEnable path p v) (ownWrite path O.PLACE_ENABLE p (leBytes 1 v) none) s

/-- PLACE_COMMIT (R261). -/
def execPlaceCommit (path : Path) (p : Nat) (v : Nat) (s : State) : Outcome :=
  guarded (.placeCommit path p v) (ownWrite path O.PLACE_COMMIT p (leBytes 4 v) none) s

/-- J_ENABLE (R246). -/
def execJEnable (path : Path) (j : Nat) (v : Nat) (s : State) : Outcome :=
  guarded (.jEnable path j v) (ownWrite path O.J_ENABLE j (leBytes 1 v) none) s

/-- C_ENABLE (R247). -/
def execCEnable (path : Path) (r : Nat) (v : Nat) (s : State) : Outcome :=
  guarded (.cEnable path r v) (ownWrite path O.C_ENABLE r (leBytes 1 v) none) s

/-- SCRUB_ENABLE (R306). -/
def execScrubEnable (path : Path) (v : Nat) (s : State) : Outcome :=
  guarded (.scrubEnable path v) (ownWrite path O.SCRUB_ENABLE 0 (leBytes 1 v) none) s

/-- FLD_ENABLE (R335). -/
def execFldEnable (path : Path) (v : Nat) (s : State) : Outcome :=
  guarded (.fldEnable path v) (ownWrite path O.FLD_ENABLE 0 (leBytes 1 v) none) s

/-- HDM_ENABLE (R348). -/
def execHdmEnable (path : Path) (v : Nat) (s : State) : Outcome :=
  guarded (.hdmEnable path v) (ownWrite path O.HDM_ENABLE 0 (leBytes 1 v) none) s

/-- PS_ENABLE (R362). -/
def execPsEnable (path : Path) (v : Nat) (s : State) : Outcome :=
  guarded (.psEnable path v) (ownWrite path O.PS_ENABLE 0 (leBytes 1 v) none) s

/-- BOUNCE_ENABLE (R377). -/
def execBounceEnable (path : Path) (p : Nat) (v : Nat) (s : State) : Outcome :=
  guarded (.bounceEnable path p v) (ownWrite path O.BOUNCE_ENABLE p (leBytes 1 v) none) s

/-- TRACE_ENABLE (R468). -/
def execTraceEnable (path : Path) (v : Nat) (s : State) : Outcome :=
  guarded (.traceEnable path v) (ownWrite path O.TRACE_ENABLE 0 (leBytes 1 v) none) s

/-- P_RESET (R336). -/
def execPReset (path : Path) (p : Nat) (v : Nat) (s : State) : Outcome :=
  guarded (.pReset path p v) (ownWrite path O.P_RESET p (leBytes 1 v) none) s

/-- UPD_RESET (R215). -/
def execUpdReset (path : Path) (b : Nat) (v : Nat) (s : State) : Outcome :=
  guarded (.updReset path b v) (ownWrite path O.UPD_RESET b (leBytes 1 v) none) s

/-- TRACE_RESET (R336). -/
def execTraceReset (path : Path) (v : Nat) (s : State) : Outcome :=
  guarded (.traceReset path v) (ownWrite path O.TRACE_RESET 0 (leBytes 1 v) none) s

/-- PS_RESET (R336). -/
def execPsReset (path : Path) (v : Nat) (s : State) : Outcome :=
  guarded (.psReset path v) (ownWrite path O.PS_RESET 0 (leBytes 1 v) none) s

/-- FLD_RESET (R336). -/
def execFldReset (path : Path) (v : Nat) (s : State) : Outcome :=
  guarded (.fldReset path v) (ownWrite path O.FLD_RESET 0 (leBytes 1 v) none) s

/-- PT_CREATE (R371). -/
def execPtCreate (path : Path) (v : Nat) (s : State) : Outcome :=
  guarded (.ptCreate path v) (ownWrite path O.PT_CREATE 0 (leBytes 1 v) none) s

/-- PT_DELETE (R372). -/
def execPtDelete (path : Path) (v : Nat) (s : State) : Outcome :=
  guarded (.ptDelete path v) (ownWrite path O.PT_DELETE 0 (leBytes 1 v) none) s

/-- ATTEST (R383). -/
def execAttest (path : Path) (p : Nat) (v : Nat) (s : State) : Outcome :=
  guarded (.attest path p v) (ownWrite path O.ATTEST p (leBytes 1 v) none) s

/-- FW_LOAD (R436). -/
def execFwLoad (path : Path) (v : Nat) (fetch : FwFetch) (s : State) : Outcome :=
  guarded (.fwLoad path v fetch) (ownWrite path O.FW_LOAD 0 (leBytes 1 v) (some fetch)) s

/-- FENCE_TILE (R438). -/
def execFenceTile (path : Path) (v : Nat) (s : State) : Outcome :=
  guarded (.fenceTile path v) (ownWrite path O.FENCE_TILE 0 (leBytes 2 v) none) s

/-- CLEAR_PRIOR (R442). -/
def execClearPrior (path : Path) (v : Nat) (s : State) : Outcome :=
  guarded (.clearPrior path v) (ownWrite path O.CLEAR_PRIOR 0 (leBytes 1 v) none) s

/-- CLEAR_COUNTS (R308). -/
def execClearCounts (path : Path) (v : Nat) (s : State) : Outcome :=
  guarded (.clearCounts path v) (ownWrite path O.CLEAR_COUNTS 0 (leBytes 1 v) none) s

/-- DIE_RETIRED (R301). -/
def execDieRetired (path : Path) (b : Nat) (v : Nat) (s : State) : Outcome :=
  guarded (.dieRetired path b v) (ownWrite path O.DIE_RETIRED b (leBytes 2 v) none) s

/-- NUM_SUMMARY (R54). -/
def execNumSummary (path : Path) (v : Nat) (s : State) : Outcome :=
  guarded (.numSummary path v) (ownWrite path O.NUM_SUMMARY 0 (leBytes 8 v) none) s

/-- TR_FIRE (R457). -/
def execTrFire (path : Path) (v : Nat) (s : State) : Outcome :=
  guarded (.trFire path v) (ownWrite path O.TR_FIRE 0 (leBytes 1 v) none) s

/-- TR_FINISH (R457). -/
def execTrFinish (path : Path) (v : Nat) (s : State) : Outcome :=
  guarded (.trFinish path v) (ownWrite path O.TR_FINISH 0 (leBytes 1 v) none) s

/-- TR_RESTART (R466). -/
def execTrRestart (path : Path) (v : Nat) (s : State) : Outcome :=
  guarded (.trRestart path v) (ownWrite path O.TR_RESTART 0 (leBytes 1 v) none) s

/-- STANDBY (R410). -/
def execStandby (path : Path) (v : Nat) (s : State) : Outcome :=
  guarded (.standby path v) (ownWrite path O.STANDBY 0 (leBytes 1 v) none) s

/-- RULES (R403). -/
def execRules (path : Path) (value : Bytes) (s : State) : Outcome :=
  guarded (.rules path value) (ownWrite path O.RULES 0 value none) s

/-- RULE_FIRED (R401). -/
def execRuleFired (path : Path) (v : Nat) (s : State) : Outcome :=
  guarded (.ruleFired path v) (ownWrite path O.RULE_FIRED 0 (leBytes 4 v) none) s

/-- HDM_COMMIT (R348). -/
def execHdmCommit (base : Nat) (size : Nat) (s : State) : Outcome :=
  guarded (.hdmCommit base size) (hdmCommit base size) s

end Sys2Proof.Machine
end

