-- ==== Sys2Proof/Machine/ExecModule.lean ====
section
/-! DEFINITION. The meanings of the host link, power, start-up, trace and the arbitration slot, one for each constructor. -/

namespace Sys2Proof.Machine

open Sys2Proof

/-- LINK_UP (R343). -/
def execLinkUp (mode : Nat) (width : Nat) (speed : Nat) (s : State) : Outcome :=
  guarded (.linkUp mode width speed) (linkUp mode width speed) s

/-- LINK_DOWN (R347). -/
def execLinkDown (s : State) : Outcome := guarded .linkDown linkDown s

/-- PERST_ASSERT (R339). -/
def execPerstAssert (s : State) : Outcome := guarded .perstAssert perstAssert s

/-- PERST_RELEASE (R350). -/
def execPerstRelease (s : State) : Outcome := guarded .perstRelease perstRelease s

/-- VF_FLR (R339). -/
def execVfFlr (vf : Nat) (s : State) : Outcome := guarded (.vfFlr vf) (vfFlr vf) s

/-- PF0_FLR (R339). -/
def execPf0Flr (s : State) : Outcome := guarded .pf0Flr pf0Flr s

/-- HOST_READ_TIMEOUT (R345). -/
def execHostReadTimeout (c : CmdId) (s : State) : Outcome := guarded (.hostReadTimeout c) (hostReadTimeout c) s

/-- HDM_READ (R348). -/
def execHdmRead (addr : Nat) (len : Nat) (errs : List ReadErr) (s : State) : Outcome :=
  guarded (.hdmRead addr len errs) (hdmRead addr len errs) s

/-- HDM_WRITE (R348). -/
def execHdmWrite (addr : Nat) (data : Bytes) (poison : Bool) (errs : List ReadErr) (s : State) : Outcome :=
  guarded (.hdmWrite addr data poison errs) (heldWrites (hdmWrite addr data poison errs)) s

/-- INPUT_APPLIED (R425). -/
def execInputApplied (s : State) : Outcome := guardedRaw .inputApplied inputApplied s

/-- INPUT_REMOVED (R393). -/
def execInputRemoved (s : State) : Outcome := guardedRaw .inputRemoved inputRemoved s

/-- PLINTH_SAMPLE (R401). -/
def execPlinthSample (smp : Sample) (s : State) : Outcome := guarded (.plinthSample smp) (plinthSample smp) s

/-- MOD_EN_HIGH (R410). -/
def execModEnHigh (s : State) : Outcome := guarded .modEnHigh modEnHigh s

/-- EFUSE_TRIP (R472). -/
def execEfuseTrip (s : State) : Outcome := guarded .efuseTrip efuseTrip s

/-- DROOP_DETECT (R413). -/
def execDroopDetect (bay : Nat) (s : State) : Outcome := guarded (.droopDetect bay) (droopDetect bay) s

/-- DROOP_RELEASE (R413). -/
def execDroopRelease (bay : Nat) (s : State) : Outcome := guarded (.droopRelease bay) (droopRelease bay) s

/-- GOVERNOR_INTERVAL (R415). -/
def execGovernorInterval (activity : List (Nat × Nat)) (s : State) : Outcome :=
  guarded (.governorInterval activity) (governorInterval activity) s

/-- PLL_UNLOCK (R395). -/
def execPllUnlock (pll : Nat) (s : State) : Outcome := guarded (.pllUnlock pll) (pllUnlock pll) s

/-- PLL_RELOCK (R395). -/
def execPllRelock (pll : Nat) (s : State) : Outcome := guarded (.pllRelock pll) (pllRelock pll) s

/-- PLL_LOCK_TIMEOUT (R395). -/
def execPllLockTimeout (pll : Nat) (s : State) : Outcome := guarded (.pllLockTimeout pll) (pllLockTimeout pll) s

/-- BAY_WATCHDOG_RESTART (R25). -/
def execBayWatchdogRestart (bay : Nat) (s : State) : Outcome :=
  guarded (.bayWatchdogRestart bay) (bayWatchdogRestart bay) s

/-- BAY_WATCHDOG_EXPIRY (R25). -/
def execBayWatchdogExpiry (bay : Nat) (s : State) : Outcome :=
  guarded (.bayWatchdogExpiry bay) (bayWatchdogExpiry bay) s

/-- BAY_STORE_UNCORRECTABLE (R25). -/
def execBayStoreUncorrectable (bay : SequencerRead) (s : State) : Outcome :=
  guarded (.bayStoreUncorrectable bay) (bayStoreUncorrectable bay.unit bay.obs) s

/-- B_SLEEP (R407). -/
def execBSleep (bay : Nat) (s : State) : Outcome := guarded (.bSleep bay) (bSleep bay) s

/-- B_OFF (R407). -/
def execBOff (bay : Nat) (s : State) : Outcome := guarded (.bOff bay) (bOff bay) s

/-- BAY_WAKE_START (R409). -/
def execBayWakeStart (bay : Nat) (s : State) : Outcome := guarded (.bayWakeStart bay) (bayWakeStart bay) s

/-- BAY_WAKE_DONE (R406). -/
def execBayWakeDone (bay : Nat) (s : State) : Outcome := guarded (.bayWakeDone bay) (bayWakeDone bay) s

/-- STANDBY_DRAIN_TIMEOUT (R411). -/
def execStandbyDrainTimeout (s : State) : Outcome := guarded .standbyDrainTimeout standbyDrainTimeout s

/-- STANDBY_ENTRY (R411). -/
def execStandbyEntry (s : State) : Outcome := guarded .standbyEntry standbyEntry s

/-- STANDBY_WAKE_DONE (R412). -/
def execStandbyWakeDone (ok : Bool) (s : State) : Outcome := guarded (.standbyWakeDone ok) (standbyWakeDone ok) s

/-- S0_PLINTH (R426). -/
def execS0Plinth (e : StageEnd) (slotId : Nat) (s : State) : Outcome :=
  guarded (.s0Plinth e slotId) (s0Plinth e slotId) s

/-- S1_RAILS (R426). -/
def execS1Rails (e : StageEnd) (s : State) : Outcome := guarded (.s1Rails e) (s1Rails e) s

/-- S2_FUSES (R426). -/
def execS2Fuses (e : StageEnd) (f : Fuses) (s : State) : Outcome := guarded (.s2Fuses e f) (s2Fuses e f) s

/-- S3_SRAM (R426). -/
def execS3Sram (e : StageEnd) (bad : BadParts) (s : State) : Outcome := guarded (.s3Sram e bad) (s3Sram e bad) s

/-- S4_TILES (R426). -/
def execS4Tiles (e : StageEnd) (bad : BadParts) (s : State) : Outcome := guarded (.s4Tiles e bad) (s4Tiles e bad) s

/-- S5_ARMATURE (R432). -/
def execS5Armature (e : StageEnd) (errors : List (LinkKind × Nat)) (s : State) : Outcome :=
  guarded (.s5Armature e errors) (s5Armature e errors) s

/-- S6_MEMORY (R434). -/
def execS6Memory (e : StageEnd) (errors : List (Nat × Nat)) (s : State) : Outcome :=
  guarded (.s6Memory e errors) (s6Memory e errors) s

/-- S7_HOST (R426). -/
def execS7Host (e : StageEnd) (s : State) : Outcome := guarded (.s7Host e) (s7Host e) s

/-- S9_READY (R426). -/
def execS9Ready (e : StageEnd) (s : State) : Outcome := guarded (.s9Ready e) (s9Ready e) s

/-- TILE_WATCHDOG_RESTART (R438). -/
def execTileWatchdogRestart (tile : Nat) (s : State) : Outcome :=
  guarded (.tileWatchdogRestart tile) (tileWatchdogRestart tile) s

/-- TILE_WATCHDOG_EXPIRY (R438). -/
def execTileWatchdogExpiry (tile : Nat) (s : State) : Outcome :=
  guarded (.tileWatchdogExpiry tile) (tileWatchdogExpiry tile) s

/-- TILE_SEQUENCER_STORE_FAULT (R438). -/
def execTileSequencerStoreFault (tile : SequencerRead) (s : State) : Outcome :=
  guarded (.tileSequencerStoreFault tile) (tileSequencerStoreFault tile.unit tile.obs) s

/-- TRNG_FAIL (R375). -/
def execTrngFail (s : State) : Outcome := guarded .trngFail trngFail s

/-- TRACE_QUEUE_DRAIN (R454). -/
def execTraceQueueDrain (bay : Nat) (s : State) : Outcome := guarded (.traceQueueDrain bay) (traceQueueDrain bay) s

/-- TRACE_FRAME_SEND (R461). -/
def execTraceFrameSend (s : State) : Outcome := guarded .traceFrameSend traceFrameSend s

/-- TRACE_ALIGN (R459). -/
def execTraceAlign (s : State) : Outcome := guarded .traceAlign traceAlign s

/-- TRACE_CAPTURE_END (R457). -/
def execTraceCaptureEnd (s : State) : Outcome := guarded .traceCaptureEnd traceCaptureEnd s

/-- TRACE_TRAINING_END (R462). -/
def execTraceTrainingEnd (s : State) : Outcome := guarded .traceTrainingEnd traceTrainingEnd s

/-- ARBITRATION_SLOT_END (R320). -/
def execArbitrationSlotEnd (s : State) : Outcome := guarded .arbitrationSlotEnd arbitrationSlotEnd s

/-- PLCA_BEACON (R330). -/
def execPlcaBeacon (link : Nat) (s : State) : Outcome := guarded (.plcaBeacon link) (plcaBeacon link) s

/-- ICMPV6_ECHO (R330). -/
def execIcmpv6Echo (f : Frame) (s : State) : Outcome := guarded (.icmpv6Echo f) (icmpv6Echo f) s

/-- NEIGHBOUR_DISCOVERY (R330). -/
def execNeighbourDiscovery (msg : NdMessage) (s : State) : Outcome :=
  guarded (.neighbourDiscovery msg) (neighbourDiscovery msg) s

/-- PEER_HEARTBEAT (R361). -/
def execPeerHeartbeat (t : Nat) (s : State) : Outcome := guarded (.peerHeartbeat t) (peerHeartbeat t) s

/-- PACKAGE_BLANK_REWRITE (R296). -/
def execPackageBlankRewrite (bay : Nat) (s : State) : Outcome :=
  guarded (.packageBlankRewrite bay) (packageBlankRewrite bay) s

end Sys2Proof.Machine
end

