-- ==== Sys2Proof/Machine/ExecSequencing.lean ====
section
/-! DEFINITION. The meanings of the field network, journals, rings and work items, one for each constructor. What
writes memory is held whole where the mirror does not accept it (R359). -/

namespace Sys2Proof.Machine

open Sys2Proof

/-- REQUEST (R330). -/
def execRequest (f : Frame) (s : State) : Outcome := guarded (.request f) (request f) s

/-- NOTICE_ACK (R332). -/
def execNoticeAck (f : Frame) (s : State) : Outcome := guarded (.noticeAck f) (noticeAck f) s

/-- NOTICE_RESEND (R332). -/
def execNoticeResend (token : Nat) (s : State) : Outcome := guarded (.noticeResend token) (noticeResend token) s

/-- TRANSMIT_OPPORTUNITY (R330). -/
def execTransmitOpportunity (s : State) : Outcome := guarded .transmitOpportunity transmitOpportunity s

/-- CONTROL_LINE_INVALIDATE (R222). -/
def execControlLineInvalidate (j : Nat) (rd : HostRead) (s : State) : Outcome :=
  guarded (.controlLineInvalidate j rd) (controlLineInvalidate j rd) s

/-- ENTRY_FETCH (R224). -/
def execEntryFetch (j : Nat) (rd : HostRead) (s : State) : Outcome := guarded (.entryFetch j rd) (entryFetch j rd) s

/-- STATUS_LINE_WRITE (R225). -/
def execStatusLineWrite (j : Nat) (s : State) : Outcome := guarded (.statusLineWrite j) (statusLineWrite j) s

/-- FENCE_RELEASE (R244). -/
def execFenceRelease (j : Nat) (s : State) : Outcome := guarded (.fenceRelease j) (fenceRelease j) s

/-- WAIT_TIMEOUT (R244). -/
def execWaitTimeout (c : CmdId) (s : State) : Outcome := guarded (.waitTimeout c) (waitTimeout c) s

/-- COMPLETION_RECORD (R228). -/
def execCompletionRecord (ring : Nat) (s : State) : Outcome :=
  guarded (.completionRecord ring) (completionRecord ring) s

/-- CONSUMER_LINE_UPDATE (R227). -/
def execConsumerLineUpdate (ring : Nat) (rd : HostRead) (s : State) : Outcome :=
  guarded (.consumerLineUpdate ring rd) (consumerLineUpdate ring rd) s

/-- MSIX_MODERATION_TIMEOUT (R229). -/
def execMsixModerationTimeout (ring : Nat) (s : State) : Outcome :=
  guarded (.msixModerationTimeout ring) (msixModerationTimeout ring) s

/-- COUNTER_BIND (R92). -/
def execCounterBind (c : CmdId) (cluster : Nat) (s : State) : Outcome :=
  guarded (.counterBind c cluster) (counterBind c cluster) s

/-- WORK_COUNTER_REQUEST (R92). -/
def execWorkCounterRequest (engine : Nat) (s : State) : Outcome :=
  guarded (.workCounterRequest engine) (workCounterRequest engine) s

/-- WORK_ITEM_END (R93). -/
def execWorkItemEnd (engine : Nat) (spent : Spent) (errs : List ReadErr) (s : State) : Outcome :=
  guarded (.workItemEnd engine spent errs) (heldWrites (workItemEnd engine spent errs)) s

/-- SCALE_LATCH (R71). -/
def execScaleLatch (c : Reading) (s : State) : Outcome :=
  guarded (.scaleLatch c) (heldWrites (scaleLatch c.id c.errs)) s

/-- OUTLIER_ADD_BACK (R151). -/
def execOutlierAddBack (cluster : Nat) (errs : List ReadErr) (s : State) : Outcome :=
  guarded (.outlierAddBack cluster errs) (heldWrites (outlierAddBack cluster errs)) s

/-- FALLBACK_ITEM (R155). -/
def execFallbackItem (cluster : Nat) (errs : List ReadErr) (s : State) : Outcome :=
  guarded (.fallbackItem cluster errs) (heldWrites (fallbackItem cluster errs)) s

/-- RECOMPUTE_SWITCH (R131). -/
def execRecomputeSwitch (c : CmdId) (s : State) : Outcome := guarded (.recomputeSwitch c) (heldWrites (recomputeSwitch c)) s

/-- RECOMPUTE_NEXT (R131). -/
def execRecomputeNext (c : CmdId) (s : State) : Outcome := guarded (.recomputeNext c) (heldWrites (recomputeNext c)) s

end Sys2Proof.Machine
end

