-- ==== Sys2Proof/Machine/Dispatch.lean ====
section
/-! DEFINITION. The meaning of each command: one arm a constructor. -/

namespace Sys2Proof.Machine

def exec (i : Instr) (s : State) : Host.Outcome State Fault Refusal :=
  match i with
  | .productF c => Sys2Proof.Machine.execProductF c s
  | .productDx c => Sys2Proof.Machine.execProductDx c s
  | .productDw c => Sys2Proof.Machine.execProductDw c s
  | .cast c => Sys2Proof.Machine.execCast c s
  | .rotate c => Sys2Proof.Machine.execRotate c s
  | .add c => Sys2Proof.Machine.execAdd c s
  | .mul c => Sys2Proof.Machine.execMul c s
  | .biasAct c => Sys2Proof.Machine.execBiasAct c s
  | .rmsnorm c => Sys2Proof.Machine.execRmsnorm c s
  | .layernorm c => Sys2Proof.Machine.execLayernorm c s
  | .softmax c => Sys2Proof.Machine.execSoftmax c s
  | .xent c => Sys2Proof.Machine.execXent c s
  | .softmaxBwd c => Sys2Proof.Machine.execSoftmaxBwd c s
  | .normBwd c => Sys2Proof.Machine.execNormBwd c s
  | .actBwd c => Sys2Proof.Machine.execActBwd c s
  | .matmul c => Sys2Proof.Machine.execMatmul c s
  | .reduceCols c => Sys2Proof.Machine.execReduceCols c s
  | .reduce c => Sys2Proof.Machine.execReduce c s
  | .onePass c => Sys2Proof.Machine.execOnePass c s
  | .twoPass c => Sys2Proof.Machine.execTwoPass c s
  | .copy c => Sys2Proof.Machine.execCopy c s
  | .multicast c => Sys2Proof.Machine.execMulticast c s
  | .allEarlier c => Sys2Proof.Machine.execAllEarlier c s
  | .command c => Sys2Proof.Machine.execCommand c s
  | .seal c => Sys2Proof.Machine.execSeal c s
  | .scaleSeed c => Sys2Proof.Machine.execScaleSeed c s
  | .scaleSeedClear c => Sys2Proof.Machine.execScaleSeedClear c s
  | .dump c => Sys2Proof.Machine.execDump c s
  | .dense c => Sys2Proof.Machine.execDense c s
  | .topk c => Sys2Proof.Machine.execTopk c s
  | .importGrad c => Sys2Proof.Machine.execImportGrad c s
  | .read p t => Sys2Proof.Machine.execRead p t s
  | .write p t value => Sys2Proof.Machine.execWrite p t value s
  | .describe p index sub => Sys2Proof.Machine.execDescribe p index sub s
  | .scaleEnable path p v => Sys2Proof.Machine.execScaleEnable path p v s
  | .placeEnable path p v => Sys2Proof.Machine.execPlaceEnable path p v s
  | .placeCommit path p v => Sys2Proof.Machine.execPlaceCommit path p v s
  | .jEnable path j v => Sys2Proof.Machine.execJEnable path j v s
  | .cEnable path r v => Sys2Proof.Machine.execCEnable path r v s
  | .scrubEnable path v => Sys2Proof.Machine.execScrubEnable path v s
  | .fldEnable path v => Sys2Proof.Machine.execFldEnable path v s
  | .hdmEnable path v => Sys2Proof.Machine.execHdmEnable path v s
  | .psEnable path v => Sys2Proof.Machine.execPsEnable path v s
  | .bounceEnable path p v => Sys2Proof.Machine.execBounceEnable path p v s
  | .traceEnable path v => Sys2Proof.Machine.execTraceEnable path v s
  | .pReset path p v => Sys2Proof.Machine.execPReset path p v s
  | .updReset path b v => Sys2Proof.Machine.execUpdReset path b v s
  | .traceReset path v => Sys2Proof.Machine.execTraceReset path v s
  | .psReset path v => Sys2Proof.Machine.execPsReset path v s
  | .fldReset path v => Sys2Proof.Machine.execFldReset path v s
  | .ptCreate path v => Sys2Proof.Machine.execPtCreate path v s
  | .ptDelete path v => Sys2Proof.Machine.execPtDelete path v s
  | .attest path p v => Sys2Proof.Machine.execAttest path p v s
  | .fwLoad path v fetch => Sys2Proof.Machine.execFwLoad path v fetch s
  | .fenceTile path v => Sys2Proof.Machine.execFenceTile path v s
  | .clearPrior path v => Sys2Proof.Machine.execClearPrior path v s
  | .clearCounts path v => Sys2Proof.Machine.execClearCounts path v s
  | .dieRetired path b v => Sys2Proof.Machine.execDieRetired path b v s
  | .numSummary path v => Sys2Proof.Machine.execNumSummary path v s
  | .trFire path v => Sys2Proof.Machine.execTrFire path v s
  | .trFinish path v => Sys2Proof.Machine.execTrFinish path v s
  | .trRestart path v => Sys2Proof.Machine.execTrRestart path v s
  | .standby path v => Sys2Proof.Machine.execStandby path v s
  | .rules path value => Sys2Proof.Machine.execRules path value s
  | .ruleFired path v => Sys2Proof.Machine.execRuleFired path v s
  | .hdmCommit base size => Sys2Proof.Machine.execHdmCommit base size s
  | .request f => Sys2Proof.Machine.execRequest f s
  | .noticeAck f => Sys2Proof.Machine.execNoticeAck f s
  | .noticeResend token => Sys2Proof.Machine.execNoticeResend token s
  | .transmitOpportunity => Sys2Proof.Machine.execTransmitOpportunity s
  | .controlLineInvalidate j rd => Sys2Proof.Machine.execControlLineInvalidate j rd s
  | .entryFetch j rd => Sys2Proof.Machine.execEntryFetch j rd s
  | .statusLineWrite j => Sys2Proof.Machine.execStatusLineWrite j s
  | .fenceRelease j => Sys2Proof.Machine.execFenceRelease j s
  | .waitTimeout c => Sys2Proof.Machine.execWaitTimeout c s
  | .completionRecord ring => Sys2Proof.Machine.execCompletionRecord ring s
  | .consumerLineUpdate ring rd => Sys2Proof.Machine.execConsumerLineUpdate ring rd s
  | .msixModerationTimeout ring => Sys2Proof.Machine.execMsixModerationTimeout ring s
  | .counterBind c cluster => Sys2Proof.Machine.execCounterBind c cluster s
  | .workCounterRequest engine => Sys2Proof.Machine.execWorkCounterRequest engine s
  | .workItemEnd engine spent errs => Sys2Proof.Machine.execWorkItemEnd engine spent errs s
  | .scaleLatch c => Sys2Proof.Machine.execScaleLatch c s
  | .outlierAddBack cluster errs => Sys2Proof.Machine.execOutlierAddBack cluster errs s
  | .fallbackItem cluster errs => Sys2Proof.Machine.execFallbackItem cluster errs s
  | .recomputeSwitch c => Sys2Proof.Machine.execRecomputeSwitch c s
  | .recomputeNext c => Sys2Proof.Machine.execRecomputeNext c s
  | .transferIssue bay => Sys2Proof.Machine.execTransferIssue bay s
  | .transferDone bay ticket errs => Sys2Proof.Machine.execTransferDone bay ticket errs s
  | .dryTimeAging bay c => Sys2Proof.Machine.execDryTimeAging bay c s
  | .multicastDrop c tile => Sys2Proof.Machine.execMulticastDrop c tile s
  | .lentBind bay => Sys2Proof.Machine.execLentBind bay s
  | .lentRevoke tile errs => Sys2Proof.Machine.execLentRevoke tile errs s
  | .scrubLine bay o => Sys2Proof.Machine.execScrubLine bay o s
  | .sramScrub w o => Sys2Proof.Machine.execSramScrub w o s
  | .lineWriteBack line => Sys2Proof.Machine.execLineWriteBack line s
  | .sramWriteBack addr => Sys2Proof.Machine.execSramWriteBack addr s
  | .reduceBayBlock c bay hits errs => Sys2Proof.Machine.execReduceBayBlock c bay hits errs s
  | .reduceResultBlock c => Sys2Proof.Machine.execReduceResultBlock c s
  | .updateAgreement c => Sys2Proof.Machine.execUpdateAgreement c s
  | .updatePass2 c bay errs => Sys2Proof.Machine.execUpdatePass2 c bay errs s
  | .psSendLine x => Sys2Proof.Machine.execPsSendLine s x
  | .psApplyRecord bay record => Sys2Proof.Machine.execPsApplyRecord bay record s
  | .psAckTimer bay => Sys2Proof.Machine.execPsAckTimer bay s
  | .acked bay v => Sys2Proof.Machine.execAcked bay v s
  | .heartbeat => Sys2Proof.Machine.execHeartbeat s
  | .psPeerTimeout => Sys2Proof.Machine.execPsPeerTimeout s
  | .hello fragment => Sys2Proof.Machine.execHello fragment s
  | .report fragment => Sys2Proof.Machine.execReport fragment s
  | .encap fragment => Sys2Proof.Machine.execEncap fragment s
  | .confirm fragment => Sys2Proof.Machine.execConfirm fragment s
  | .sweepDone fragment => Sys2Proof.Machine.execSweepDone fragment s
  | .close fragment => Sys2Proof.Machine.execClose fragment s
  | .ack fragment => Sys2Proof.Machine.execAck fragment s
  | .psHandshakeTimeout => Sys2Proof.Machine.execPsHandshakeTimeout s
  | .linkUp mode width speed => Sys2Proof.Machine.execLinkUp mode width speed s
  | .linkDown => Sys2Proof.Machine.execLinkDown s
  | .perstAssert => Sys2Proof.Machine.execPerstAssert s
  | .perstRelease => Sys2Proof.Machine.execPerstRelease s
  | .vfFlr vf => Sys2Proof.Machine.execVfFlr vf s
  | .pf0Flr => Sys2Proof.Machine.execPf0Flr s
  | .hostReadTimeout c => Sys2Proof.Machine.execHostReadTimeout c s
  | .hdmRead addr len errs => Sys2Proof.Machine.execHdmRead addr len errs s
  | .hdmWrite addr data poison errs => Sys2Proof.Machine.execHdmWrite addr data poison errs s
  | .inputApplied => Sys2Proof.Machine.execInputApplied s
  | .inputRemoved => Sys2Proof.Machine.execInputRemoved s
  | .plinthSample smp => Sys2Proof.Machine.execPlinthSample smp s
  | .modEnHigh => Sys2Proof.Machine.execModEnHigh s
  | .efuseTrip => Sys2Proof.Machine.execEfuseTrip s
  | .droopDetect bay => Sys2Proof.Machine.execDroopDetect bay s
  | .droopRelease bay => Sys2Proof.Machine.execDroopRelease bay s
  | .governorInterval activity => Sys2Proof.Machine.execGovernorInterval activity s
  | .pllUnlock pll => Sys2Proof.Machine.execPllUnlock pll s
  | .pllRelock pll => Sys2Proof.Machine.execPllRelock pll s
  | .pllLockTimeout pll => Sys2Proof.Machine.execPllLockTimeout pll s
  | .bayWatchdogRestart bay => Sys2Proof.Machine.execBayWatchdogRestart bay s
  | .bayWatchdogExpiry bay => Sys2Proof.Machine.execBayWatchdogExpiry bay s
  | .bayStoreUncorrectable bay => Sys2Proof.Machine.execBayStoreUncorrectable bay s
  | .bSleep bay => Sys2Proof.Machine.execBSleep bay s
  | .bOff bay => Sys2Proof.Machine.execBOff bay s
  | .bayWakeStart bay => Sys2Proof.Machine.execBayWakeStart bay s
  | .bayWakeDone bay => Sys2Proof.Machine.execBayWakeDone bay s
  | .standbyDrainTimeout => Sys2Proof.Machine.execStandbyDrainTimeout s
  | .standbyEntry => Sys2Proof.Machine.execStandbyEntry s
  | .standbyWakeDone ok => Sys2Proof.Machine.execStandbyWakeDone ok s
  | .s0Plinth e slotId => Sys2Proof.Machine.execS0Plinth e slotId s
  | .s1Rails e => Sys2Proof.Machine.execS1Rails e s
  | .s2Fuses e f => Sys2Proof.Machine.execS2Fuses e f s
  | .s3Sram e bad => Sys2Proof.Machine.execS3Sram e bad s
  | .s4Tiles e bad => Sys2Proof.Machine.execS4Tiles e bad s
  | .s5Armature e errors => Sys2Proof.Machine.execS5Armature e errors s
  | .s6Memory e errors => Sys2Proof.Machine.execS6Memory e errors s
  | .s7Host e => Sys2Proof.Machine.execS7Host e s
  | .s9Ready e => Sys2Proof.Machine.execS9Ready e s
  | .tileWatchdogRestart tile => Sys2Proof.Machine.execTileWatchdogRestart tile s
  | .tileWatchdogExpiry tile => Sys2Proof.Machine.execTileWatchdogExpiry tile s
  | .tileSequencerStoreFault tile => Sys2Proof.Machine.execTileSequencerStoreFault tile s
  | .trngFail => Sys2Proof.Machine.execTrngFail s
  | .traceQueueDrain bay => Sys2Proof.Machine.execTraceQueueDrain bay s
  | .traceFrameSend => Sys2Proof.Machine.execTraceFrameSend s
  | .traceAlign => Sys2Proof.Machine.execTraceAlign s
  | .traceCaptureEnd => Sys2Proof.Machine.execTraceCaptureEnd s
  | .traceTrainingEnd => Sys2Proof.Machine.execTraceTrainingEnd s
  | .arbitrationSlotEnd => Sys2Proof.Machine.execArbitrationSlotEnd s
  | .plcaBeacon link => Sys2Proof.Machine.execPlcaBeacon link s
  | .icmpv6Echo f => Sys2Proof.Machine.execIcmpv6Echo f s
  | .neighbourDiscovery msg => Sys2Proof.Machine.execNeighbourDiscovery msg s
  | .peerHeartbeat t => Sys2Proof.Machine.execPeerHeartbeat t s
  | .packageBlankRewrite bay => Sys2Proof.Machine.execPackageBlankRewrite bay s

end Sys2Proof.Machine
end

