-- ==== Sys2Proof/Safety.lean ====
section
/-! DEFINITION. The terms the claims about the module use: what a next state is, when a command of a journal may
run, when a request to the dictionary is served in a slot of its own, and what stays canonical. -/

namespace Sys2Proof.Machine

open Sys2Proof

/-! ### Next states -/

/-- The next state a command gives whose effect on the module is `m`: module time does not go back (R393), and
the commands that wait are left alone. -/
def State.after (s : State) (m : Mach) : State := { m with now := max s.now m.now, pending := s.pending }

/-! ### Commands of a journal (R242, R245, R395) -/

/-- A received command that its executing sequencer takes now: the oldest of its bay, of the row `kind`, while
the module runs with its core PLL locked. -/
abbrev State.takes (s : State) (kind : Nat × Nat) (c : Cmd) : Prop :=
  c.id.whole = true ∧ s.received.find? (fun x => decide (x.id = c.id)) = some c ∧ rowOf c = some kind ∧
    (s.oldest c.bay).map (·.id) = some c.id ∧ s.modState = .run ∧ mget s.plinth.pllLost 0 = none

/-- The same as a test. -/
def State.takesB (s : State) (kind : Nat × Nat) (c : Cmd) : Bool :=
  c.id.whole && s.received.find? (fun x => decide (x.id = c.id)) == some c && rowOf c == some kind &&
    (s.oldest c.bay).map (·.id) == some c.id && s.modState == .run && mget s.plinth.pllLost 0 == none

/-- The module after the reads of the handle entries of a command, which met `errs` (R236, R286, R299). -/
def State.reads (s : State) (c : Cmd) (errs : List ReadErr) : Mach := s.toMach.takeReads errs (s.entryReads c)

/-- The mirror accepts writes to mirrored lines: no engine is held (R359). -/
abbrev State.mirrorsOn (s : State) : Prop := s.psLagging = false

/-- The link is up, or none of the buffers of a command, which is new, lies in host memory. -/
abbrev Mach.reaches (m : Mach) (c : Cmd) (a : Act) : Prop :=
  m.linkUp = true ∨ (m.act? c.id = none ∧ ∀ h ∈ a.handles, isHost (h.2.at_ a.cmd.problem) = false)

/-- A row whose commands run as items on engines: its command, its opcode and operation, and its validation. -/
structure ComputeRow where
  make : Reading → Instr
  kind : Nat × Nat
  validate : Mach → Cmd → Chk Act
  launch : Mach → Act → Mach

/-- The products, CAST, ROTATE and the wide operations (R230, R149). -/
def computeRows : List ComputeRow :=
  [⟨.productF, (1, 0), validateProduct, Mach.launchProduct⟩, ⟨.productDx, (2, 0), validateProduct, Mach.launchProduct⟩,
   ⟨.productDw, (3, 0), validateProduct, Mach.launchProduct⟩, ⟨.cast, (4, 0), validateCast, Mach.launchCast⟩,
   ⟨.rotate, (5, 0), validateRotate, Mach.launch⟩, ⟨.add, (6, 1), validateWide, Mach.launch⟩,
   ⟨.mul, (6, 2), validateWide, Mach.launch⟩, ⟨.biasAct, (6, 3), validateWide, Mach.launch⟩,
   ⟨.rmsnorm, (6, 4), validateWide, Mach.launch⟩, ⟨.layernorm, (6, 5), validateWide, Mach.launch⟩,
   ⟨.softmax, (6, 6), validateWide, Mach.launch⟩, ⟨.xent, (6, 7), validateWide, Mach.launch⟩,
   ⟨.softmaxBwd, (6, 8), validateWide, Mach.launch⟩, ⟨.normBwd, (6, 9), validateWide, Mach.launch⟩,
   ⟨.actBwd, (6, 10), validateWide, Mach.launch⟩, ⟨.matmul, (6, 11), validateWide, Mach.launch⟩,
   ⟨.reduceCols, (6, 12), validateWide, Mach.launch⟩]

/-! ### Requests to the dictionary (R318 to R325) -/

/-- A path that takes a request: a mailbox that is free, of a function the host reaches; or the field network, with
its link up and its queue empty, where no answer to that TOKEN is kept (R330). -/
def State.pathFree (s : State) : Path → Bool
  | .umpor src _ token => s.fieldUp && s.obj O.FLD_LINK 0 != 0 && s.umpor.isEmpty &&
      s.cache.all fun c => !(c.src == src && c.token == token && decide (s.now < c.at_ + 1000000000))
  | p => s.hostReaches && !(s.mailbox p.fn).busy && s.umpor.isEmpty

/-- A request that is taken at once and is alone in its slot. -/
abbrev State.alone (s : State) (p : Path) : Prop :=
  p.ok = true ∧ s.pathFree p = true ∧ s.slotWrites = [] ∧ s.slotReads = []

/-- A write of an object that passes checks 1 to 7 (R319), alone in its slot. -/
abbrev State.accepts (s : State) (p : Path) (o i : Nat) (v : Bytes) : Prop :=
  s.alone p ∧ s.visible p (oKey o i / 256) = true ∧ s.writeCheck p (oKey o i / 256) (oKey o i % 256) v = 0

/-- The module when a request has been taken: it is in its mailbox with BUSY set (R323, R325), or its frame is counted
(R331). -/
def State.asked (s : State) (p : Path) (op index sub : Nat) (v : Bytes) : Mach :=
  match p with
  | .umpor src _ _ => s.toMach.countRx src
  | p => s.toMach.setMailbox p.fn
      { s.mailbox p.fn with request := bytesAt (requestBytes op index sub v) 0 1280, busy := true }

/-- The write that is alone in its slot. -/
def State.lone (s : State) (p : Path) (o i : Nat) (v : Bytes) : SlotWrite :=
  ⟨s.now, p, oKey o i / 256, oKey o i % 256, leNat v, none⟩

/-- The module at the end of the slot a lone write arrived in; one through Umpor that stops the interface has been
answered already (R335, R336). -/
def State.served (s : State) (p : Path) (o i : Nat) (v : Bytes) : Mach :=
  let m := (s.asked p 2 (oKey o i / 256) (oKey o i % 256) v).upTo (slotStart s.now + 10)
  let m := { m with slotWrites := [s.lone p o i v] }
  if (s.lone p o i v).stopsField then m.answerFirst (s.lone p o i v) else m

/-- A write that took effect is answered with its reason and the value the object then holds (R325, R328). -/
def State.answered (s : State) (m : Mach) (p : Path) (o i : Nat) (v : Bytes) (reason check : Nat) : State :=
  let m := { m with slotWrites := [], slotReads := [] }
  s.after (if (s.lone p o i v).stopsField then m
    else m.deliver p reason (m.writeAnswer (s.lone p o i v) ⟨reason, check⟩))

/-- A write that took effect and whose answer is owed until a check ends. -/
def State.owes (s : State) (m : Mach) : State := s.after { m with slotWrites := [], slotReads := [] }

/-- A write that took effect is answered with reason 0. -/
def State.wrote (s : State) (m : Mach) (p : Path) (o i : Nat) (v : Bytes) : State := s.answered m p o i v 0 0

/-- The state in which a lone write has changed the module as `f` says and is answered OK. -/
def State.doing (s : State) (p : Path) (o i : Nat) (v : Bytes) (f : Mach → Mach) : State :=
  s.wrote (f (s.served p o i v)) p o i v

/-- The state in which a lone write has been answered with a reason and changed nothing. -/
def State.declined (s : State) (p : Path) (o i : Nat) (v : Bytes) (reason check : Nat) : State :=
  s.answered (s.served p o i v) p o i v reason check

/-- A write of 1 to an ENABLE object that is 0, and of 0 to one that is 1 (R334, R335). -/
abbrev State.enables (s : State) (p : Path) (o i : Nat) : Prop := s.accepts p o i (leBytes 1 1) ∧ s.obj o i = 0
abbrev State.disables (s : State) (p : Path) (o i : Nat) : Prop := s.accepts p o i (leBytes 1 0) ∧ s.obj o i = 1

/-- Whoever is owed the answer of a write that is alone in its slot. -/
def State.owed (s : State) (p : Path) (o i : Nat) : Owed := ⟨p, oKey o i / 256, oKey o i % 256, slotStart s.now⟩

/-! ### Messages of a handshake (R385) -/

/-- A fragment of a kind whose NUMBER has changed reaches a module whose stream is not UNPAIRED. -/
abbrev State.hears (s : State) (kind : Nat) (b : Bytes) : Prop :=
  fragmentOk b = true ∧ fld b 0 1 = kind ∧ fld b 8 8 ≠ s.pair.seenNumber ∧ s.pair.state ≠ .unpaired ∧ fld b 4 2 ≤ 4064

/-- The module that has seen it, and its payload. -/
def State.heard (s : State) (b : Bytes) : Mach :=
  (s.toMach.setWindow handshakeOff b).setPair { s.pair with seenNumber := fld b 8 8 }
def payload (b : Bytes) : Bytes := bytesAt b 32 (fld b 4 2)

/-! ### Canonical data -/

/-- Memory is in its canonical form. -/
abbrev Mach.memOk (m : Mach) : Prop := Memory.wf m.mem = true

end Sys2Proof.Machine

namespace Sys2Proof

open Sys2Proof.Machine

/-! ### What commands stand for -/

/-- The two commands that may begin module time anew (R393). -/
def Instr.restartsTime : Instr → Bool
  | .inputApplied | .inputRemoved => true
  | _ => false

/-- The rows of the field network (R317, R330 to R332). -/
def Instr.onField : Instr → Bool
  | .request _ | .noticeAck _ | .noticeResend _ | .transmitOpportunity | .plcaBeacon _ | .icmpv6Echo _
  | .neighbourDiscovery _ => true
  | _ => false

/-- Rows of engines whose writes the mirror may hold (R359). -/
def Instr.isHeld : Instr → Bool
  | .productF _ | .productDx _ | .productDw _ | .cast _ | .rotate _ | .add _ | .mul _ | .biasAct _
  | .rmsnorm _ | .layernorm _ | .softmax _ | .xent _ | .softmaxBwd _ | .normBwd _ | .actBwd _
  | .matmul _ | .reduceCols _ | .reduce _ | .onePass _ | .twoPass _ | .copy _ | .multicast _
  | .scaleSeed _ | .scaleSeedClear _ | .dump _ | .dense _ | .topk _ | .importGrad _
  | .workItemEnd _ _ _ | .scaleLatch _ | .outlierAddBack _ _ | .fallbackItem _ _ | .recomputeSwitch _
  | .recomputeNext _ | .transferDone _ _ _ | .lentRevoke _ _ | .reduceBayBlock _ _ _ _ | .reduceResultBlock _
  | .updateAgreement _ | .updatePass2 _ _ _ | .hdmWrite _ _ _ _ => true
  | _ => false

/-- Rows that store nothing in any memory. -/
def Instr.storesNothing : Instr → Bool
  | .transferIssue _ | .dryTimeAging _ _ | .multicastDrop _ _ | .lentBind _ | .workCounterRequest _ | .droopDetect _
  | .droopRelease _ | .pllUnlock _ | .bayWatchdogRestart _ | .tileWatchdogRestart _ | .trngFail
  | .traceAlign | .traceTrainingEnd | .sramWriteBack _ | .linkUp _ _ _ | .hdmCommit _ _ | .peerHeartbeat _
  | .bayWakeStart _ | .perstRelease => true
  | c => c.onField

/-- The write that a row of its own stands for: path, object, instance, value, and what a firmware fetch meets. -/
def Instr.asWrite : Instr → Option (Path × Nat × Nat × Bytes × Option FwFetch)
  | .scaleEnable q p v => some (q, O.SCALE_ENABLE, p, leBytes 1 v, none)
  | .placeEnable q p v => some (q, O.PLACE_ENABLE, p, leBytes 1 v, none)
  | .placeCommit q p v => some (q, O.PLACE_COMMIT, p, leBytes 4 v, none)
  | .jEnable q j v => some (q, O.J_ENABLE, j, leBytes 1 v, none)
  | .cEnable q r v => some (q, O.C_ENABLE, r, leBytes 1 v, none)
  | .scrubEnable q v => some (q, O.SCRUB_ENABLE, 0, leBytes 1 v, none)
  | .fldEnable q v => some (q, O.FLD_ENABLE, 0, leBytes 1 v, none)
  | .hdmEnable q v => some (q, O.HDM_ENABLE, 0, leBytes 1 v, none)
  | .psEnable q v => some (q, O.PS_ENABLE, 0, leBytes 1 v, none)
  | .bounceEnable q p v => some (q, O.BOUNCE_ENABLE, p, leBytes 1 v, none)
  | .traceEnable q v => some (q, O.TRACE_ENABLE, 0, leBytes 1 v, none)
  | .pReset q p v => some (q, O.P_RESET, p, leBytes 1 v, none)
  | .updReset q b v => some (q, O.UPD_RESET, b, leBytes 1 v, none)
  | .traceReset q v => some (q, O.TRACE_RESET, 0, leBytes 1 v, none)
  | .psReset q v => some (q, O.PS_RESET, 0, leBytes 1 v, none)
  | .fldReset q v => some (q, O.FLD_RESET, 0, leBytes 1 v, none)
  | .ptCreate q v => some (q, O.PT_CREATE, 0, leBytes 1 v, none)
  | .ptDelete q v => some (q, O.PT_DELETE, 0, leBytes 1 v, none)
  | .attest q p v => some (q, O.ATTEST, p, leBytes 1 v, none)
  | .fwLoad q v f => some (q, O.FW_LOAD, 0, leBytes 1 v, some f)
  | .fenceTile q v => some (q, O.FENCE_TILE, 0, leBytes 2 v, none)
  | .clearPrior q v => some (q, O.CLEAR_PRIOR, 0, leBytes 1 v, none)
  | .clearCounts q v => some (q, O.CLEAR_COUNTS, 0, leBytes 1 v, none)
  | .dieRetired q b v => some (q, O.DIE_RETIRED, b, leBytes 2 v, none)
  | .numSummary q v => some (q, O.NUM_SUMMARY, 0, leBytes 8 v, none)
  | .trFire q v => some (q, O.TR_FIRE, 0, leBytes 1 v, none)
  | .trFinish q v => some (q, O.TR_FINISH, 0, leBytes 1 v, none)
  | .trRestart q v => some (q, O.TR_RESTART, 0, leBytes 1 v, none)
  | .standby q v => some (q, O.STANDBY, 0, leBytes 1 v, none)
  | .rules q v => some (q, O.RULES, 0, v, none)
  | .ruleFired q v => some (q, O.RULE_FIRED, 0, leBytes 4 v, none)
  | _ => none

end Sys2Proof
end

