-- ==== Sys2Proof/Certificates/Slice0/Obligations.lean ====
section
/-! DEFINITION. The statements about the module, for the provers. Each says which words of the spec it rests on. -/

open Sys2Proof Sys2Proof.Machine

/-! ### The machine -/

/-- Each step takes the command at the front of the queue and runs it with the rest of the queue; with no command
waiting the module stays as it is (the model's choice, log entry 28). -/
def Obligations.StepTakesTheFrontCommand : Prop :=
  (∀ (c : Instr) (s : State) (rest : List Instr), s.pending = c :: rest → step s = exec c { s with pending := rest }) ∧
    ∀ s : State, s.pending = [] → step s = .next s

/-- After reset the module is in OFF with its input not applied, nothing is paired, traced, placed, enabled or
waiting, memory lists nothing and is in its canonical form, and every object of the dictionary has its default (log
entry 1). -/
def Obligations.ResetIsOff : Prop :=
  State.reset.modState = .off ∧ State.reset.plinth.inputOn = false ∧ State.reset.pair.state = .unpaired ∧
    State.reset.trace.state = .off ∧ State.reset.placed = [] ∧ State.reset.mem = [] ∧ State.reset.toMach.memOk ∧ State.reset.pending = [] ∧
    (∀ p, State.reset.part p = .reset) ∧ (∀ j, State.reset.journal j = .reset) ∧
    ∀ index sub, State.reset.objAt index sub = ((objRow index sub).map (·.default)).getD 0

/-- Every step keeps memory in its canonical form: addresses rise strictly and no listed byte is zero. -/
def Obligations.StepKeepsMemoryCanonical : Prop := ∀ s t : State, s.memOk → step s = .next t → t.memOk

/-- Every step takes at most the front command off the queue and adds none; and module time does not go back, but
where the input comes or goes (R393). The clauses the spec leaves open follow log entry 28, the model's own
choices. -/
def Obligations.StepKeepsQueueAndTime : Prop :=
  ∀ s t : State, step s = .next t → t.pending = s.pending.tail ∧
    ((∀ c ∈ s.pending.head?, c.restartsTime = false) → s.now ≤ t.now)

/-- A command that names what the module does not have is a fault. A well-formed command is never answered with a
fault, and never for want of a meaning: it gives a next state, or it is an event that cannot occur in the state.
The clauses the spec leaves open follow log entry 105, the model's own choices. -/
def Obligations.WellFormedCommandsAnswer : Prop :=
  ∀ (c : Instr) (s : State), (c.wf = false → exec c s = .fault .illFormed) ∧
    (c.wf = true → (∃ t, exec c s = .next t) ∨ ∃ why, exec c s = .refused (.cannotOccur why))

/-! ### Commands of a journal -/

/-- A command of the arrays, the cast units or the wide units that its sequencer takes and whose validation
passes starts: it leaves the sequencer's queue and runs as its validation says, on the module that has read its
handles (R236). Starting a product, a ROTATE or a wide command changes its place with the sequencer and the commands
that run, and no object, engine or record; and a product with a freeze map copies it to the work area of each
cluster of its span, which is all it writes (R116). The clauses the spec leaves open follow log entry 117, the
model's own choice. -/
def Obligations.ComputeCommandsStart : Prop :=
  (∀ r ∈ computeRows, ∀ (s : State) (c : Cmd) (errs : List ReadErr) (a : Act), errs.all ReadErr.ok = true →
    s.mirrorsOn → s.takes r.kind c → r.validate (s.reads c errs) c = .ok a → (s.reads c errs).reaches c a →
    exec (r.make ⟨c.id, errs⟩) s = .next (s.after (r.launch (s.reads c errs) a))) ∧
  ∀ (m : Mach) (a : Act),
    m.launch a = { m with received := m.received.filter (fun c => decide (c.id ≠ a.cmd.id)), acts := m.acts ++ [a] } ∧
      (∃ b, b.cmd = a.cmd ∧ m.launchProduct a = (a.placeMap m).launch b) ∧ (a.freeze = [] → a.placeMap m = m) ∧
      ∃ mem valid poison backs,
        a.placeMap m = { m with mem := mem, valid := valid, poison := poison, sramBacks := backs } ∧
        (m.memOk → ∀ x, (∀ k ∈ a.cmd.span, x < clusterAddr k a.cmd.clusterArea.1 ∨
            clusterAddr k a.cmd.clusterArea.1 + a.freeze.length ≤ x) →
          smem m.valid (sectorOf x) = true → Memory.get mem x = Memory.get m.mem x)

/-- R239: a command whose validation fails writes no output and raises nothing: memory, its carriers, the engines
and the running commands are as they were after its handles were read; only its completion record, with reason and
DETAIL, is ready. -/
def Obligations.RefusedCommandsOnlyRecord : Prop :=
  ∀ r ∈ computeRows, ∀ (s : State) (c : Cmd) (errs : List ReadErr) (e : Nat × Nat), errs.all ReadErr.ok = true →
    s.mirrorsOn → s.takes r.kind c → r.validate (s.reads c errs) c = .error e → e.1 ≠ rLINK →
    let m := s.reads c errs
    ∃ t rec, exec (r.make ⟨c.id, errs⟩) s = .next t ∧ t.mem = m.mem ∧ t.lines = m.lines ∧ t.valid = m.valid ∧
      t.poison = m.poison ∧ t.hostPoison = m.hostPoison ∧ t.engines = m.engines ∧
      t.received = m.received.filter (fun x => decide (x.id ≠ c.id)) ∧
      t.acts = m.acts.filter (fun a => decide (a.cmd.id ≠ c.id)) ∧ t.ready = m.ready ++ [rec] ∧
      rec.cmd = some (c.id, e.1) ∧ fld rec.bytes 4 1 = 1 ∧ fld rec.bytes 6 1 = e.1 % 256 ∧ fld rec.bytes 7 1 = e.2 % 256

/-- REDUCE, ONE_PASS and TWO_PASS: a validated command runs, and an UPDATE takes its units as soon as no earlier
UPDATE holds one of them and its bays work (R164, R189, R192). The clauses the spec leaves open follow log
entries 22 and 121, the model's own choices. -/
def Obligations.ReductionsAndUpdatesStart : Prop :=
  (∀ (s : State) (c : Cmd) (errs : List ReadErr) (a : Act), errs.all ReadErr.ok = true → s.mirrorsOn →
    s.takes (7, 0) c → validateReduce (s.reads c errs) c = .ok a →
    exec (.reduce ⟨c.id, errs⟩) s = .next (s.after ((s.reads c errs).launch a))) ∧
  ∀ (s : State) (c : Cmd) (errs : List ReadErr) (a : Act) (f : Flg), errs.all ReadErr.ok = true → s.mirrorsOn →
    validateUpdate (s.reads c errs) c = .ok (a, f) →
    let x := (s.reads c errs).book (bayEngine (c.chain.headD 0) 6) a ⟨f, 0, 0⟩
    (s.takes (8, 1) c → exec (.onePass ⟨c.id, errs⟩) s = .next (s.after (x.1.launch x.2).startUpdates)) ∧
    (s.takes (8, 2) c → exec (.twoPass ⟨c.id, errs⟩) s = .next (s.after (x.1.launch x.2).startUpdates))

/-- COPY and MULTICAST: a validated command that can reach its ends runs with its deadline counted from now, its
recompute list ready behind it, and the bays at its ends are woken (R268, R271, R130, R408). It waits from now, or
with the queue of its stream where that waits already. The clauses the spec leaves open follow log entries 31, 36
and 127, the model's own choices. -/
def Obligations.CopiesStart : Prop :=
  ∀ (s : State) (c : Cmd) (errs : List ReadErr) (a : Act) (l : List Act) (w : CopyWork),
    errs.all ReadErr.ok = true → s.mirrorsOn →
    let m := s.reads c errs
    validateCopy m c = .ok (a, l) → a.cmd = c → a.work = .copying w →
    ((isHost w.src || isHost w.dst) = true →
      m.linkUp = true ∧ ((m.part c.part).confidential = true → (m.bounceKeys c.part).isSome = true)) →
    let run : Act := { a with work := .copying (m.joins c.bay { w with
      deadline := if c.deadline = 0 then none else some (m.now + c.deadline) }) }
    let n := ((m.launch run).countThrottle c.part).wakeBays (m.actBays run)
    let t := s.after { n with listed := n.listed ++ l }
    (s.takes (9, 0) c → exec (.copy ⟨c.id, errs⟩) s = .next t) ∧
      (s.takes (9, 1) c → exec (.multicast ⟨c.id, errs⟩) s = .next t)

/-- WAIT (R244, R360): a SEAL waits for the lines that are dirty, and for the records not acknowledged, when it
starts, and sends its SEAL records once none is left; ALL_EARLIER completes where no earlier command of its
journal is in flight and runs on where one is; COMMAND completes where its target has, with the target's reason
code in SPECIFIC, runs on where it has not, and is refused where its journal is another partition's. The clauses
the spec leaves open follow log entries 26 and 39, the model's own choices. -/
def Obligations.WaitsCompleteWhenTheirConditionHolds : Prop :=
  ∀ (s : State) (c : Cmd),
    let m := s.toMach.launch (Act.of c (.waiting [] [] []))
    (s.takes (10, 0) c → (m.inFlight c.id.journal).any (fun i => decide (i.seq < c.id.seq)) = false →
      exec (.allEarlier c.id) s = .next (s.after (m.complete c 0 0 0 .none false))) ∧
    (s.takes (10, 0) c → (m.inFlight c.id.journal).any (fun i => decide (i.seq < c.id.seq)) = true →
      exec (.allEarlier c.id) s = .next (s.after m)) ∧
    (∀ r, s.takes (10, 1) c → s.obj O.J_PARTITION (c.f 20 1) = c.part → m.hasCompleted (c.f 20 1) (c.f 21 6) = true →
      mget (s.journal (c.f 20 1)).reasons (c.f 21 6) = some r →
      exec (.command c.id) s = .next (s.after (m.complete c 0 0 r .none false))) ∧
    (s.takes (10, 1) c → s.obj O.J_PARTITION (c.f 20 1) = c.part → m.hasCompleted (c.f 20 1) (c.f 21 6) = false →
      exec (.command c.id) s = .next (s.after m)) ∧
    (s.takes (10, 1) c → s.obj O.J_PARTITION (c.f 20 1) ≠ c.part →
      exec (.command c.id) s = .next (s.after (s.refuse c rPARTITION 20))) ∧
    (s.takes (10, 2) c → s.pair.state ≠ .broken →
      ∀ n, n = s.toMach.launch (Act.of c (.waiting (s.dirty.filter s.psLine) (s.pair.unacked.foldl
        (fun (n : SMap Nat) r => if r.line.isSome then mset n r.bay (r.seq + 1) else n) []) [])) →
      exec (.seal c.id) s = .next (s.after (n.trySeal c.id)) ∧
        (s.act? c.id = none → s.dirty.filter s.psLine ≠ [] → exec (.seal c.id) s = .next (s.after n)))

/-- SCALE_SEED writes its entry of the scale table from the image with BOUND set and the latch clear; with CLEAR it
writes the entry as zero; and it completes with reason 0 (R77). -/
def Obligations.ScaleSeedsWriteTheirEntry : Prop :=
  ∀ (s : State) (c : Cmd) (errs : List ReadErr) (b : Bytes), errs.all ReadErr.ok = true → s.mirrorsOn →
    let m := s.reads c errs
    (s.takes (11, 0) c → checkSeed m c false = .ok b →
      exec (.scaleSeed ⟨c.id, errs⟩) s = .next (s.after ((m.wr (m.obj O.SCALE_TABLE c.part + c.f 20 4 % 65536 * 128)
        (leBytes 4 (c.f 20 4) ++ [1] ++ bytesAt b 5 2 ++ zerosB 13 ++ bytesAt b 20 6 ++ zerosB 6 ++ bytesAt b 32 64 ++
          zerosB 32) false).complete c 0 0 0 .none false))) ∧
    (s.takes (11, 1) c → checkSeed m c true = .ok b →
      exec (.scaleSeedClear ⟨c.id, errs⟩) s = .next (s.after ((m.wr (m.obj O.SCALE_TABLE c.part + c.f 20 4 % 65536 * 128)
        (zerosB 128) false).complete c 0 0 0 .none false)))

/-- DUMP, DENSE, TOPK and IMPORT: with the link up, its bays awake and its validation passed, a command writes its
image, or adds what its images hold, and completes (R180, R181, R185, R463); while a bay it names sleeps it waits, and
the bay is woken (R408). The clauses the spec leaves open follow log entries 43 and 48, the model's own choices. -/
def Obligations.HostImagesAreMade : Prop :=
  ∀ (s : State) (c : Cmd) (errs : List ReadErr) (a : Act), errs.all ReadErr.ok = true → s.mirrorsOn →
    let m := s.reads c errs
    let src := m.touch errs a.exportReads
    let side := [((a.handleAt 32).at_ c.problem, (a.handleAt 32).bytes)]
    (s.takes (12, 0) c → validateDump m c = .ok a → m.linkUp = true →
      (m.issues c.bay = true → m.endsReady side = true →
        exec (.dump ⟨c.id, errs⟩) s = .next (s.after ((m.touch errs side).makeDump c a))) ∧
      (m.endsReady side = false → exec (.dump ⟨c.id, errs⟩) s = .next (s.after (m.wakeBays (m.actBays a))))) ∧
    (validateExport m c = .ok a → m.linkUp = true →
      (m.nodeReady a c.bay = true → src.blockFault (a.handleAt 32).base c.rBlocks = none →
        (s.takes (13, 1) c → exec (.dense ⟨c.id, errs⟩) s = .next (s.after (src.makeDense a))) ∧
        (s.takes (13, 2) c → exec (.topk ⟨c.id, errs⟩) s = .next (s.after (src.makeTopk a)))) ∧
      (m.nodeReady a c.bay = false →
        (s.takes (13, 1) c → exec (.dense ⟨c.id, errs⟩) s = .next (s.after (m.wakeBays (m.actBays a)))) ∧
        (s.takes (13, 2) c → exec (.topk ⟨c.id, errs⟩) s = .next (s.after (m.wakeBays (m.actBays a)))))) ∧
    ∀ (is : List Image) (x : Mach × Act), s.takes (14, 0) c → validateImport m c = .ok (a, is) →
      let ready := m.nodeReady a (c.chain.getLastD 0) && c.chain.all m.bayReady
      (ready = false → exec (.importGrad ⟨c.id, errs⟩) s = .next (s.after (m.wakeBays (m.actBays a)))) ∧
      let rd := (m.touch errs a.importReads).readImages c.part is
      (ready = true →
        (rd.2.any fun i => i.1.mode == 2 && !i.2.any (·.2) && !entriesOk c (i.2.map (·.1)) i.1) = false →
        importBlocks rd.2 c.rBlocks 0 (rd.1, a) = some x →
        exec (.importGrad ⟨c.id, errs⟩) s = .next (s.after (finishReduce (x.1.endRun (bayEngine (c.chain.getLastD 0) 5)) x.2
          (c.cpb + if (a.h 32).isSome then 1 else 0)
          (if (a.h 32).any (fun h => rd.1.rdPoison h.base (c.rBlocks * 320)) then 32 else 48))))

/-! ### Work items, scales and recomputation -/

/-- R92: in a cluster with a tile left, a command binds the work counter with the lowest number that is free to the
range dealt to it there; where all eight are bound it waits. -/
def Obligations.CountersBindLowestFree : Prop :=
  ∀ (s : State) (id : CmdId) (cluster : Nat) (a : Act) (r : Nat × Nat × Nat), id.ok = true → cluster < 160 →
    s.act? id = some a → a.toBind.find? (fun x => x.1 == cluster) = some r → (s.liveTiles cluster).isEmpty = false →
    let used := (s.counters.filter fun k => k.cluster == cluster).map (·.num)
    (∀ n, n < 8 → used.contains n = false → (∀ k, k < n → used.contains k = true) →
      (s.lent.any fun l => l.tile / 64 == cluster) = false → s.bayReady (cluster / 10) = true →
      exec (.counterBind id cluster) s = .next (s.after
        (({ s.toMach with counters :=
              s.counters ++ [⟨cluster, n, id, a.cmd.engineKind, r.2.1, r.2.2, r.2.2 - r.2.1⟩] } : Mach).setAct
          { a with toBind := a.toBind.filter fun x => x.1 != cluster }).finishFreed)) ∧
    ((∀ k, k < 8 → used.contains k = true) → exec (.counterBind id cluster) s = .next (s.after s.finishFreed))

/-- R92: a free engine of a bay that works is answered by the bound counter of its kind that was bound first and has
items left, by an indivisible fetch-and-add of 1: it runs the item the counter showed. Where a bay whose stores the
command names sleeps the item waits and the bay is woken (R408); where no counter has an item left the engine's run
ends (R446) and it rests. -/
def Obligations.WorkCountersGiveTheNextItem : Prop :=
  ∀ (s : State) (e : Nat), engineOk e = true → (s.running.any fun r => r.engine == e) = false →
    s.bayReady (engineBay e) = true → (engineKind e ≤ 3 → s.isHole (engineTile e) = false) →
    (engineKind e = 4 → (s.addBacks.any fun b => b.cluster == engineCluster e) = false ∧
      s.fallbackLeft (engineCluster e) = false) →
    let next := s.counters.find? fun k =>
      k.cluster == engineCluster e && k.kind == engineKind e && decide (k.next < k.stop)
    (∀ k a, next = some k → s.act? k.cmd = some a → s.awake a = true →
      exec (.workCounterRequest e) s = .next (s.after (({ s.toMach with
        counters := s.counters.map fun x =>
          if x.cluster = engineCluster e ∧ x.num = k.num then { x with next := x.next + 1 } else x
        running := s.running ++ [⟨e, k.cmd, k.next⟩]
        tileWatchdogs := if engineKind e ≤ 3 then mset s.tileWatchdogs (engineTile e) (s.now - s.paused)
          else s.tileWatchdogs } : Mach).startUnit e a.cmd k.next))) ∧
    (∀ k a, next = some k → s.act? k.cmd = some a → s.awake a = false →
      exec (.workCounterRequest e) s = .next (s.after (s.wakeBays (s.actBays a)))) ∧
    (next = none → exec (.workCounterRequest e) s = .next (s.after (s.endRun e)))

/-- R93, R141, R155: an engine that ends its item writes the item's outputs and is free again; the oldest finished
item of a cluster takes its outlier terms; and the wide unit of a cluster re-executes the next item of the product
that fell back there. -/
def Obligations.WorkItemsEnd : Prop :=
  (∀ (s : State) (e : Nat) (spent : Spent) (errs : List ReadErr) (r : Running) (a : Act), engineOk e = true →
    errs.all ReadErr.ok = true → s.mirrorsOn → s.running.find? (fun x => x.engine == e) = some r →
    s.act? r.cmd = some a → s.bayReady (engineBay e) = true →
    let m := s.toMach.takeReads errs (a.itemReads r.item)
    exec (.workItemEnd e spent errs) s = .next (s.after (({ m with
      running := m.running.filter fun x => decide (x.engine ≠ e) } : Mach).endItem a e r.item spent))) ∧
  (∀ (s : State) (cluster : Nat) (errs : List ReadErr) (b : AddBack) (a : Act), cluster < 160 →
    errs.all ReadErr.ok = true → s.mirrorsOn →
    s.addBacks.find? (fun x => x.cluster == cluster) = some b → s.act? b.cmd = some a →
    (s.running.any fun r => r.engine == wideEngine cluster) = false → s.bayReady (cluster / 10) = true →
    exec (.outlierAddBack cluster errs) s = .next (s.after
      ((s.toMach.takeReads errs (a.termReads s.toMach b.item)).addBackItem a b))) ∧
  ∀ (s : State) (cluster : Nat) (errs : List ReadErr) (a : Act) (l : List (Nat × Nat)) (x : Nat × Nat), cluster < 160 →
    errs.all ReadErr.ok = true → s.mirrorsOn → s.acts.find? (fun y => y.fallsBackIn cluster) = some a →
    a.work = .fallback l → l.find? (fun x => x.1 == cluster) = some x →
    (s.running.any fun r => r.engine == wideEngine cluster) = false →
    (s.addBacks.any fun b => b.cluster == cluster) = false → s.bayReady (cluster / 10) = true →
    exec (.fallbackItem cluster errs) s = .next (s.after
      ((s.toMach.takeReads errs (a.shadowReads x.2)).runFallback a l cluster x))

/-- R71, R72, R73, R300: a CAST joins the latch of its step, with RUN_COUNT raised; makes a new latch where the last
one's CASTs have all merged; waits where they have not; and is refused with OVERLAP where the entry is bound to
another tensor, with STATE where a later step has latched. An entry that reads poisoned is begun anew and counted. The
clauses the spec leaves open follow log entry 29, the model's own choices. -/
def Obligations.CastsLatchTheirScale : Prop :=
  ∀ (s : State) (id : CmdId) (errs : List ReadErr) (a : Act), id.ok = true → errs.all ReadErr.ok = true → s.mirrorsOn →
    s.act? id = some a → a.work = .latching →
    let ad := s.scaleEntry a.cmd.part a.dstTensor
    let r := s.toMach.takeReads errs [(ad, 128)]
    let m := if r.rdPoison ad 128 then (r.wr ad (freshEntry a.dstTensor) false).bump O.SCALE_LOST a.cmd.part 1 else r
    let e0 := m.rd ad 128
    let bound := (fld e0 4 1).testBit 0
    let e := if bound then e0 else freshEntry a.dstTensor
    let latched := (fld e 4 1).testBit 1
    let mine := bound = true → fld e0 0 4 = a.dstTensor
    (mine → latched = true → fld e 8 6 = a.cmd.step → fld e 7 1 = a.dstFmt.code → fld e 14 2 < 65535 →
      exec (.scaleLatch ⟨id, errs⟩) s = .next (s.after
        ((if a.cmd.capacity = 0 then m else m.touch errs a.sourceReads).joinLatch a e))) ∧
    (mine → (latched = true → fld e 8 6 < a.cmd.step ∧ fld e 14 2 = 0) →
      (entrySeeded e = false → a.cmd.noTwoPass = false) →
      exec (.scaleLatch ⟨id, errs⟩) s = .next (s.after
        ((if entrySeeded e && a.cmd.capacity == 0 then m else m.touch errs a.sourceReads).newLatch a e))) ∧
    (mine → latched = true → fld e 8 6 < a.cmd.step → 0 < fld e 14 2 →
      exec (.scaleLatch ⟨id, errs⟩) s = .next (s.after m)) ∧
    (bound = true → fld e0 0 4 ≠ a.dstTensor →
      exec (.scaleLatch ⟨id, errs⟩) s = .next (s.after (m.refuse a.cmd rOVERLAP 36))) ∧
    (mine → latched = true → a.cmd.step < fld e 8 6 →
      exec (.scaleLatch ⟨id, errs⟩) s = .next (s.after (m.refuse a.cmd rSTATE 0x10)))

/-- R131, R132: a COPY with a recompute list turns to it at its deadline; when a list command ends the next one
starts; one that fails ends the COPY; and after the last the COPY completes with 0x82 and the bytes fetched. The
clauses the spec leaves open follow log entry 50, the model's own choices. -/
def Obligations.RecomputationRunsItsList : Prop :=
  ∀ (s : State) (id : CmdId) (a : Act) (w : CopyWork), id.ok = true → s.mirrorsOn → s.act? id = some a →
    a.work = .copying w →
    (∀ d, w.running = 0 → w.deadline = some d → w.count ≠ 0 →
      exec (.recomputeSwitch id) s = .next (s.after ((s.upTo d).switchToList a w))) ∧
    (∀ r d, w.subEnd = some (r, d) → 1 ≤ r → r < 0x80 →
      exec (.recomputeNext id) s = .next (s.after (s.endCopy a (listedFault (r, d)).1 (listedFault (r, d)).2 0))) ∧
    (∀ r d, w.subEnd = some (r, d) → ¬ (1 ≤ r ∧ r < 0x80) → w.running < w.count →
      exec (.recomputeNext id) s = .next (s.after
        ((s.setCopy a { w with running := w.running + 1, subEnd := none }).startListed id (w.running + 1)))) ∧
    (∀ r d, w.subEnd = some (r, d) → ¬ (1 ≤ r ∧ r < 0x80) → w.count ≤ w.running → w.lost = false →
      exec (.recomputeNext id) s = .next (s.after
        ((s.bump O.RECOMPUTES a.cmd.part 1).endCopy a 0x82 0 (sat32 w.done)))) ∧
    (∀ r d, w.subEnd = some (r, d) → ¬ (1 ≤ r ∧ r < 0x80) → w.count ≤ w.running → w.lost = true →
      exec (.recomputeNext id) s = .next (s.after (s.endCopy a rTILELOST 0xFF 0)))

/-! ### Journals and rings -/

/-- R222, R246: the host's store of a control line invalidates the cached copy, and the sequencer of a RUNNING journal
takes PRODUCE from the line as stored; one below CONSUMED stops the journal with FIELD, one that claims more entries
than there are stops it with BOUND, a line that arrives poisoned or not at all stops it with LINK. The clauses the
spec leaves open follow log entries 15, 37 and 128, the model's own choices. -/
def Obligations.ControlLinesGiveProduce : Prop :=
  ∀ (s : State) (j : Nat) (d : Bytes), j < 64 → d.length = 64 →
    let stored := fun (bad : Bool) => (s.wr (hostAddr (s.obj O.J_CONTROL j)) (bytesAt d 0 64) bad).dropLine (controlSlot j)
    let x := s.journal j
    (x.state ≠ .running → ∀ bad,
      exec (.controlLineInvalidate j (.ok d bad)) s = .next (s.after (stored bad))) ∧
    (x.state = .running →
      let m := (stored false).cacheLine (controlSlot j) d
      (x.consumed ≤ fld d 0 8 → fld d 0 8 ≤ x.consumed + s.obj O.J_SIZE j →
        exec (.controlLineInvalidate j (.ok d false)) s =
          .next (s.after (m.setJournal j { x with produce := fld d 0 8 }))) ∧
      (fld d 0 8 < x.consumed →
        exec (.controlLineInvalidate j (.ok d false)) s = .next (s.after (m.stopJournal j rFIELD))) ∧
      (x.consumed + s.obj O.J_SIZE j < fld d 0 8 →
        exec (.controlLineInvalidate j (.ok d false)) s = .next (s.after (m.stopJournal j rBOUND))) ∧
      exec (.controlLineInvalidate j (.ok d true)) s = .next (s.after
        ((((stored true).cacheLine (controlSlot j) d).bump O.POISON_IN 0 1).stopJournal j rLINK)) ∧
      exec (.controlLineInvalidate j .fail) s = .next (s.after
        (((s.dropLine (controlSlot j)).bump O.LINK_FAILS 0 1).stopJournal j rLINK)))

/-- R221, R223, R224, R226, R238, R242: the entry of the journal whose turn it is, read from slot CONSUMED modulo
J_SIZE of J_BASE, becomes a command: CONSUMED rises, and it joins its executing sequencer's queue where it passes
the common checks, is refused where it does not, or is held where it carries FENCE and an earlier one is in flight. A
poisoned entry is refused with POISON and its fields are free; one that does not arrive stops the journal with LINK.
Another journal's entry waits its turn. The clauses the spec leaves open follow log entries 15 and 16, the model's
own choices. -/
def Obligations.EntriesAreFetchedInTurn : Prop :=
  ∀ (s : State) (j : Nat) (d : Bytes), j < 64 → d.length = 64 →
    let p := s.obj O.J_PARTITION j
    let x := s.journal j
    let slot := hostAddr (s.obj O.J_BASE j + x.consumed % max 1 (s.obj O.J_SIZE j) * 64)
    let n := s.wr slot (bytesAt d 0 64) false
    let c := n.cmdOf ⟨j, x.consumed, 0⟩ p (bytesAt d 0 64)
    let fenced := (c.f 1 1).testBit 0 && !(s.inFlight j).isEmpty
    let m : Mach := { n.setJournal j { x with
      consumed := x.consumed + 1, statusDue := true, held := if fenced then some c else none } with
        turn := mset s.turn p j }
    (s.nextJournal p = some j → fenced = false → m.commonCheck c = none →
      exec (.entryFetch j (.ok d false)) s =
        .next (s.after (({ m with received := m.received ++ [c] } : Mach).wakeFor c))) ∧
    (∀ r, s.nextJournal p = some j → fenced = false → m.commonCheck c = some r →
      exec (.entryFetch j (.ok d false)) s = .next (s.after (m.refuse c r.1 r.2))) ∧
    (s.nextJournal p = some j → fenced = true → exec (.entryFetch j (.ok d false)) s = .next (s.after m)) ∧
    (s.nextJournal p = some j → ∃ (k : Mach) (c' : Cmd), c'.id = ⟨j, x.consumed, 0⟩ ∧ c'.part = p ∧
      (k.journal j).consumed = x.consumed + 1 ∧
      exec (.entryFetch j (.ok d true)) s = .next (s.after (k.refuse c' rPOISON 0xFF))) ∧
    (s.nextJournal p = some j →
      exec (.entryFetch j .fail) s = .next (s.after ((s.bump O.LINK_FAILS 0 1).stopJournal j rLINK))) ∧
    (s.nextJournal p ≠ some j → exec (.entryFetch j (.ok d false)) s = .next (s.after s.toMach))

/-- R225, R244: the status line holds CONSUMED and COMPLETED in two little-endian 8-byte words; a command held by
FENCE goes to its sequencer when nothing of its journal is in flight; and a WAIT whose TIMEOUT passes completes
with STATE. The clauses the spec leaves open follow log entries 16 and 38, the model's own choices. -/
def Obligations.StatusFenceAndTimeout : Prop :=
  (∀ (s : State) (j : Nat), j < 64 → (s.journal j).statusDue = true → s.linkUp = true →
    exec (.statusLineWrite j) s = .next (s.after
      ((s.wr (hostAddr (s.obj O.J_STATUS j))
        (leBytes 8 (s.journal j).consumed ++ leBytes 8 (s.journal j).completed ++ zerosB 48) false).setJournal j
          { s.journal j with statusDue := false }))) ∧
  (∀ (s : State) (j : Nat) (c : Cmd), j < 64 → (s.journal j).held = some c → (s.inFlight j).isEmpty = true →
    (s.journal j).state ≠ .disabled →
    exec (.fenceRelease j) s = .next (s.after
      ((s.setJournal j { s.journal j with held := none }).handOver (s.cmdOf c.id c.part c.desc)))) ∧
  ∀ (s : State) (id : CmdId) (a : Act), id.whole = true → s.act? id = some a → a.cmd.opcode = 10 → a.cmd.f 32 4 ≠ 0 →
    exec (.waitTimeout id) s = .next (s.after
      ((s.upTo (a.cmd.received + a.cmd.f 32 4)).complete a.cmd rSTATE 5 0 .none false))

/-- R227, R228, R229, R347: the oldest record ready for an enabled ring is written where the ring has room, the
consumer line being read first where the cache does not hold it; where there is none every record of the ring that
is ready waits, each counted as a stall once. The consumer line the host has stored gives CONSUMED while the link is
up; and C_MOD_NS after the first record not yet signalled the ring's vector is signalled. The clauses the spec leaves
open follow log entries 37, 40, 95 and 128, the model's own choices. -/
def Obligations.RingsTakeRecords : Prop :=
  ∀ (s : State) (r : Nat), r < 64 →
    (∀ x, s.ready.find? (fun y => y.ring == r) = some x → s.ringOn r = true → s.linkUp = true →
      let m := s.readConsumer r
      (m.obj O.C_WRITTEN r < (m.ringOf r).consumed + m.obj O.C_SIZE r →
        exec (.completionRecord r) s = .next (s.after
          (({ m with ready := s.ready.filter fun y => decide (y ≠ x) } : Mach).writeRec r x))) ∧
      ((m.ringOf r).consumed + m.obj O.C_SIZE r ≤ m.obj O.C_WRITTEN r →
        exec (.completionRecord r) s = .next (s.after (({ m with
          ready := m.ready.map fun y => if y.ring = r then { y with stalled := true } else y } : Mach).bump O.C_STALLS r
            (m.ready.filter fun y => y.ring == r && !y.stalled).length)))) ∧
    (∀ d m, d.length = 64 →
      m = (s.wr (hostAddr (s.obj O.C_CONSUMER r)) (bytesAt d 0 64) false).dropLine (consumerSlot r) →
      (s.ringOn r = true → s.linkUp = true →
        exec (.consumerLineUpdate r (.ok d false)) s = .next (s.after
          ((m.cacheLine (consumerSlot r) d).setRing r { s.ringOf r with consumed := fld d 0 8 }))) ∧
      (s.ringOn r = false ∨ s.linkUp = false →
        exec (.consumerLineUpdate r (.ok d false)) s = .next (s.after m))) ∧
    ((s.ringOf r).unsignalled ≠ 0 → s.obj O.C_MOD_NS r ≠ 0 → s.obj O.C_MSIX r ≠ 0xFFFF →
      exec (.msixModerationTimeout r) s = .next (s.after
        ((s.upTo ((s.ringOf r).firstAt + s.obj O.C_MOD_NS r)).signalRing r)))

/-! ### The dictionary -/

/-- R319, R320, R329: a READ or DESCRIBE of an assigned object that its path sees waits for the end of its slot; and
registers are read as the bus returns them, an aligned 64-bit access as two of 32 bits, whatever the mailbox does
(R323, R340). -/
def Obligations.ReadsArrive : Prop :=
  (∀ (s : State) (p : Path) (index sub : Nat), s.alone p → index < 65536 → sub < 256 →
    s.visible p index = true → (rowAt index sub).isSome = true → s.serves index = true →
    exec (.read p (.obj index sub)) s =
      .next (s.after { s.asked p 1 index sub [] with slotReads := [⟨s.now, p, 1, index, sub, 0⟩] }) ∧
    exec (.describe p index sub) s =
      .next (s.after { s.asked p 3 index sub [] with slotReads := [⟨s.now, p, 3, index, sub, 0⟩] })) ∧
  ∀ (s : State) (p : Path) (bar off : Nat), p.ok = true → s.hostReaches = true →
    (Target.ok p (.reg bar off 4) = true →
      exec (.read p (.reg bar off 4)) s = .next (s.after
        { (s.readBar p bar off).2 with returned := (leBytes 4 (s.readBar p bar off).1, false) })) ∧
    ∀ x y, x = s.readBar p bar off → y = x.2.readBar p bar (off + 4) → Target.ok p (.reg bar off 8) = true →
      exec (.read p (.reg bar off 8)) s = .next (s.after
        { y.2 with returned := (leBytes 4 x.1 ++ leBytes 4 y.1, false) })

/-- R319, R323, R340, R354: a WRITE that passes checks 1 to 7 waits for the end of its slot; one that fails one of
checks 4 to 7 waits to be answered with its reason; a register of BAR0 takes its bytes at once, GO after them, an
aligned 64-bit access as two of 32 bits; and a write to a reserved offset of the pointing window is ignored. The
clauses the spec leaves open follow log entries 103 and 104, the model's own choices. -/
def Obligations.WritesArrive : Prop :=
  (∀ (s : State) (p : Path) (index sub : Nat) (v : Bytes), s.alone p → index < 65536 → sub < 256 →
    1 ≤ v.length → v.length ≤ 1024 → s.visible p index = true → (rowAt index sub).isSome = true →
    (s.writeCheck p index sub v = 0 → exec (.write p (.obj index sub) v) s = .next (s.after
      { s.asked p 2 index sub v with slotWrites := [⟨s.now, p, index, sub, leNat v, none⟩] })) ∧
    (s.writeCheck p index sub v ≠ 0 → exec (.write p (.obj index sub) v) s = .next (s.after
      { s.asked p 2 index sub v with slotReads := [⟨s.now, p, 2, index, sub, s.writeCheck p index sub v⟩] }))) ∧
  (∀ (s : State) (p : Path) (off : Nat) (v : Bytes), p.ok = true → s.hostReaches = true →
    (Target.ok p (.reg 0 off 4) = true → v.length = 4 →
      exec (.write p (.reg 0 off 4) v) s = .next (s.after
        (if off = 0x1000 ∧ leNat v % 2 = 1 then (s.writeReg p.fn off (leNat v)).go p none
         else s.writeReg p.fn off (leNat v)))) ∧
    ∀ m, m = (if off = 0x1000 ∧ fld v 0 4 % 2 = 1 then (s.writeReg p.fn off (fld v 0 4)).go p none
        else s.writeReg p.fn off (fld v 0 4)) →
      Target.ok p (.reg 0 off 8) = true → v.length = 8 →
      exec (.write p (.reg 0 off 8) v) s = .next (s.after (m.writeReg p.fn (off + 4) (fld v 4 4)))) ∧
  ∀ (s : State) (off : Nat) (v : Bytes), s.hostReaches = true → Target.ok .pf0 (.reg 4 off v.length) = true →
    windowOffset off = false → exec (.write .pf0 (.reg 4 off v.length) v) s = .next (s.after s.toMach)

/-- R320, R322, R325, R328: at the end of its slot a lone READ or DESCRIBE is answered with what the object then
holds, and a lone write takes effect and is answered with its reason and the value the object then holds; where its
answer is owed until a check ends none is given. The clauses the spec leaves open follow log entries 103 and 104,
the model's own choices. -/
def Obligations.SlotsEnd : Prop :=
  ∀ (s : State), s.plinthUp = true → s.umpor = [] →
    (∀ r, s.slotWrites = [] → s.slotReads = [r] →
      let m : Mach := { s.upTo (slotStart r.at_ + 10) with slotReads := [] }
      exec .arbitrationSlotEnd s = .next (s.after (m.deliver r.path r.reason (m.readAnswer r)))) ∧
    ∀ w row, s.slotWrites = [w] → s.slotReads = [] → w.path.isMgmt = false →
      rowAt w.index w.sub = some row → (row.access = .wo → row.type = .bool → w.value ≠ 0) →
      let x := (s.upTo (slotStart w.at_ + 10)).applyWrite w
      let n : Mach := { x.1 with slotWrites := [], slotReads := [] }
      (∀ v, x.2 = some v → exec .arbitrationSlotEnd s = .next (s.after (n.deliver w.path v.reason (n.writeAnswer w v)))) ∧
      (x.2 = none → exec .arbitrationSlotEnd s = .next (s.after n))

/-- R319 to R325: a row of its own, written alone in its slot and passing checks 1 to 7, does what its object does
with the value, and is answered with the reason; a write of 0 to a trigger does nothing and is answered OK; and
where the answer is owed until a check ends none is given now. The clauses the spec leaves open follow log
entries 67 and 103, the model's own choices. -/
def Obligations.OwnRowsAreServed : Prop :=
  ∀ (s : State) (c : Instr) (p : Path) (o i : Nat) (v : Bytes) (f : Option FwFetch) (row : ObjRow),
    c.asWrite = some (p, o, i, v, f) → c.wf = true → s.accepts p o i v →
    rowAt (oKey o i / 256) (oKey o i % 256) = some row →
    let m := s.served p o i v
    let x := m.applyObj p o i (leNat v) f (s.owed p o i)
    (row.access = .wo → row.type = .bool → leNat v = 0 → exec c s = .next (s.wrote m p o i v)) ∧
    (¬ (row.access = .wo ∧ row.type = .bool ∧ leNat v = 0) →
      (∀ r, x.2 = some r → exec c s = .next (s.answered x.1 p o i v r.reason r.check)) ∧
      (x.2 = none → exec c s = .next (s.owes x.1)))

/-- R69, R283, R306: SCALE_ENABLE zeroes the whole scale table, PLACE_ENABLE clears STATE of every placement entry,
and SCRUB_ENABLE begins the pass again at the lowest address, each where its check passes; and each is disabled by
a write of 0 where no command of the partition uses it. -/
def Obligations.TablesAndScrubEnable : Prop :=
  ∀ (s : State) (p : Path) (i : Nat), i < 16 →
    (∀ a n, a = s.obj O.SCALE_TABLE i → n = s.obj O.SCALE_ENTRIES i → s.enables p O.SCALE_ENABLE i → a % 128 = 0 →
      1 ≤ n → n ≤ 65536 → s.tableIn i a (128 * n) = true → s.tableFits i a (128 * n) = true →
      (s.part i).state = .active →
      exec (.scaleEnable p i 1) s = .next (s.doing p O.SCALE_ENABLE i (leBytes 1 1) fun m =>
        (m.wr a (zerosB (128 * n)) false).setObj O.SCALE_ENABLE i 1)) ∧
    (s.disables p O.SCALE_ENABLE i → s.partRuns i (fun c => c.opcode == 4) = false →
      exec (.scaleEnable p i 0) s = .next (s.doing p O.SCALE_ENABLE i (leBytes 1 0) fun m =>
        m.setObj O.SCALE_ENABLE i 0)) ∧
    (∀ a n, a = s.obj O.PLACE_TABLE i → n = s.obj O.PLACE_ENTRIES i → s.enables p O.PLACE_ENABLE i → a % 32 = 0 →
      1 ≤ n → n ≤ 4096 → s.tableIn i a (32 * n) = true → s.tableFits i a (32 * n) = true →
      (s.part i).state = .active →
      exec (.placeEnable p i 1) s = .next (s.doing p O.PLACE_ENABLE i (leBytes 1 1) fun m =>
        ((List.range n).foldl (fun t k => t.wr (a + 32 * k + 18) [0] false) m).setObj O.PLACE_ENABLE i 1)) ∧
    (s.disables p O.PLACE_ENABLE i → s.partRuns i (fun _ => true) = false →
      exec (.placeEnable p i 0) s = .next (s.doing p O.PLACE_ENABLE i (leBytes 1 0) fun m =>
        (((s.placed.filter fun o => o.part == i).foldl
          (fun t o => (t.unplace o).writeEntry (s.obj O.PLACE_TABLE i + 32 * o.entry) 0 0 0 0) m).setObj
            O.PLACE_ENABLE i 0).pruneDirty)) ∧
    (s.enables p O.SCRUB_ENABLE 0 →
      exec (.scrubEnable p 1) s = .next (s.doing p O.SCRUB_ENABLE 0 (leBytes 1 1) fun m =>
        ((List.range 16).foldl (fun t b => t.setBay b { t.bay b with scrubNext := 0 }) m).setObj O.SCRUB_ENABLE 0 1)) ∧
    (s.disables p O.SCRUB_ENABLE 0 →
      exec (.scrubEnable p 0) s = .next (s.doing p O.SCRUB_ENABLE 0 (leBytes 1 0) fun m =>
        m.setObj O.SCRUB_ENABLE 0 0))

/-- R246, R247: J_ENABLE takes PRODUCE from the control line, with which CONSUMED and COMPLETED begin, and the
journal is RUNNING with its status line written, or STOPPED with LINK where that line reads poisoned; C_ENABLE takes
CONSUMED from the consumer line. A journal with nothing in flight is disabled at once, one with commands in flight
drains; a ring is disabled while no enabled journal names it, and is refused with STATE while one does. The clauses
the spec leaves open follow log entries 35, 37, 38, 65, 95 and 128, the model's own choices. -/
def Obligations.JournalsAndRingsEnable : Prop :=
  ∀ (s : State) (p : Path) (j : Nat), j < 64 →
    (∀ size q r n a, size = s.obj O.J_SIZE j → q = s.obj O.J_PARTITION j → r = s.obj O.J_RING j →
      a = hostAddr (s.obj O.J_CONTROL j) → n = s.rdNat a 8 → s.enables p O.J_ENABLE j → isPow2 size = true →
      64 ≤ size → size ≤ 65536 → s.obj O.J_BASE j % 4096 = 0 → s.obj O.J_CONTROL j % 64 = 0 →
      s.obj O.J_STATUS j % 64 = 0 → q ≠ 0xFF → (s.part q).state = .active →
      (s.obj O.C_PARTITION r = q ∨ s.obj O.C_PARTITION r = 0xFF) →
      clashes (s.hostRanges j 64) (hostAddr (s.obj O.J_BASE j)) (64 * size) = false →
      clashes (s.hostRanges j 64) a 64 = false →
      clashes (s.hostRanges j 64) (hostAddr (s.obj O.J_STATUS j)) 64 = false → s.linkUp = true →
      s.obj O.C_ENABLE r = 1 → (s.journal j).state = .disabled →
      exec (.jEnable p j 1) s = .next (s.doing p O.J_ENABLE j (leBytes 1 1) fun m =>
        let x := ((m.cacheLine (controlSlot j) (s.rd a 64)).setObj O.J_ENABLE j 1).setJournal j
          ⟨.running, n, n, n, false, none, (s.journal j).reasons⟩
        if s.rdPoison a 8 then (x.bump O.POISON_IN 0 1).stopJournal j rLINK else x.writeStatus j)) ∧
    (s.disables p O.J_ENABLE j → s.inFlight j = [] →
      exec (.jEnable p j 0) s = .next (s.doing p O.J_ENABLE j (leBytes 1 0) fun m =>
        (((m.setObj O.J_ENABLE j 0).setJournal j { s.journal j with state := .disabled, held := none }).dropLine
          (controlSlot j)).writeStatus j)) ∧
    (s.disables p O.J_ENABLE j → s.inFlight j ≠ [] →
      exec (.jEnable p j 0) s = .next (s.doing p O.J_ENABLE j (leBytes 1 0) fun m =>
        (m.setObj O.J_ENABLE j 0).setJournal j { s.journal j with state := .draining })) ∧
    (∀ size q, size = s.obj O.C_SIZE j → q = s.obj O.C_PARTITION j → s.enables p O.C_ENABLE j → isPow2 size = true →
      64 ≤ size → size ≤ 65536 → s.obj O.C_BASE j % 4096 = 0 → s.obj O.C_CONSUMER j % 64 = 0 →
      (s.obj O.C_MSIX j = 0xFFFF ∨ s.obj O.C_MSIX j < if q = 0xFF then 2048 else 64) →
      (q ≠ 0xFF → (s.part q).state = .active) →
      clashes (s.hostRanges 64 j) (hostAddr (s.obj O.C_BASE j)) (64 * size) = false →
      clashes (s.hostRanges 64 j) (hostAddr (s.obj O.C_CONSUMER j)) 64 = false →
      exec (.cEnable p j 1) s = .next (s.doing p O.C_ENABLE j (leBytes 1 1) fun m => m.startRing j)) ∧
    (∀ m : Mach, m.linkUp = true → m.rdPoison (hostAddr (m.obj O.C_CONSUMER j)) 8 = false →
      mget m.devCache (consumerSlot j) = none →
      (m.readConsumer j).ringOf j =
        { m.ringOf j with consumed := fld (m.rd (hostAddr (m.obj O.C_CONSUMER j)) 64) 0 8 }) ∧
    (∀ named, named = ((List.range 64).any fun k => (s.journal k).state != .disabled && s.obj O.J_RING k == j) →
      s.disables p O.C_ENABLE j →
      (named = false → exec (.cEnable p j 0) s = .next (s.doing p O.C_ENABLE j (leBytes 1 0) fun m =>
        (m.setObj O.C_ENABLE j 0).dropLine (consumerSlot j))) ∧
      (named = true → exec (.cEnable p j 0) s = .next (s.declined p O.C_ENABLE j (leBytes 1 0) rSTATE 0)))

/-- R335, R348, R362, R377, R468: the field network, the HDM window, the pointing stream, the bounce path and trace
are enabled where their checks pass and disabled by a write of 0. The answer of PS_ENABLE is owed until the
handshake ends; BOUNCE_ENABLE is answered with KEY where the confirmation value does not match. The clauses the
spec leaves open follow log entries 66 and 67, the model's own choices. -/
def Obligations.LinksAndTraceEnable : Prop :=
  ∀ (s : State) (p : Path) (i : Nat), i < 16 →
    (s.enables p O.FLD_ENABLE 0 →
      (isLinkLocal (s.obj O.MGMT_PEER 0) || s.obj O.MGMT_PEER 0 == allNodes) = true →
      exec (.fldEnable p 1) s = .next (s.doing p O.FLD_ENABLE 0 (leBytes 1 1) fun m =>
        (m.setObj O.FLD_ENABLE 0 1).probeAddress)) ∧
    (s.disables p O.FLD_ENABLE 0 →
      exec (.fldEnable p 0) s = .next (s.doing p O.FLD_ENABLE 0 (leBytes 1 0) fun m => m.fieldStop)) ∧
    (∀ n a q base, n = s.obj O.HDM_SIZE 0 → a = s.obj O.HDM_DEVICE_BASE 0 → q = s.obj O.HDM_PARTITION 0 →
      s.enables p O.HDM_ENABLE 0 → n % 2 ^ 28 = 0 → 2 ^ 28 ≤ n → n ≤ 2 ^ 36 → isModule a = true →
      a % 2 ^ 28 = 0 → s.belongs q a n = true → a % 2 ^ 36 + n ≤ 2 ^ 36 → (s.part q).confidential = false → s.hdmCommitted = some base →
      (s.part q).state = .active →
      exec (.hdmEnable p 1) s = .next (s.doing p O.HDM_ENABLE 0 (leBytes 1 1) fun m =>
        (m.setObj O.HDM_HOST_BASE 0 base).setObj O.HDM_ENABLE 0 1)) ∧
    (s.disables p O.HDM_ENABLE 0 →
      exec (.hdmEnable p 0) s = .next (s.doing p O.HDM_ENABLE 0 (leBytes 1 0) fun m => m.setObj O.HDM_ENABLE 0 0)) ∧
    (s.enables p O.PS_ENABLE 0 → (s.obj O.PS_ROLE 0 = 1 ∨ s.obj O.PS_ROLE 0 = 2) →
      s.obj O.PS_PEER_BAR4 0 % 0x40000 = 0 → (s.part s.psPart).exists_ = true →
      exec (.psEnable p 1) s = .next (s.owes
        ((s.served p O.PS_ENABLE 0 (leBytes 1 1)).psBegin (s.owed p O.PS_ENABLE 0)))) ∧
    (s.disables p O.PS_ENABLE 0 →
      exec (.psEnable p 0) s = .next (s.doing p O.PS_ENABLE 0 (leBytes 1 0) fun m => m.psDisable)) ∧
    (∀ k, s.enables p O.BOUNCE_ENABLE i → (s.part i).keys = some k → (s.part i).state = .active →
      ∀ x, x = s.bounceSecret i k →
      exec (.bounceEnable p i 1) s = .next
        (if fld x 64 32 = s.obj O.KEY_CONFIRM i then s.doing p O.BOUNCE_ENABLE i (leBytes 1 1) fun m =>
          (m.setPart i { s.part i with bounce := some (fld x 0 32, fld x 32 32) }).setObj O.BOUNCE_ENABLE i 1
         else s.declined p O.BOUNCE_ENABLE i (leBytes 1 1) rKEY (oKey O.KEY_CONFIRM i))) ∧
    (s.disables p O.BOUNCE_ENABLE i → s.bounceInUse i = false →
      exec (.bounceEnable p i 0) s = .next (s.doing p O.BOUNCE_ENABLE i (leBytes 1 0) fun m =>
        (m.setPart i { s.part i with bounce := none }).setObj O.BOUNCE_ENABLE i 0)) ∧
    (s.enables p O.TRACE_ENABLE 0 → s.placed.any Placed.inTrace = false →
      exec (.traceEnable p 1) s = .next (s.doing p O.TRACE_ENABLE 0 (leBytes 1 1) fun m =>
        (m.setObj O.TRACE_ENABLE 0 1).startTraining)) ∧
    (s.disables p O.TRACE_ENABLE 0 →
      exec (.traceEnable p 0) s = .next (s.doing p O.TRACE_ENABLE 0 (leBytes 1 0) fun m => m.stopTrace))

/-- R215, R336, R462: a write of 1 to a reset object resets its function and no other, and is answered when the
reset is complete: a partition, the update unit of a bay, trace, the pointing stream and the field network. The
update unit marks the shard it was writing PARTIAL and its command completes with STATE. What the resets leave
(R361): no command, lent piece, placed object or session key of the partition, its journals DISABLED; the
pointing stream UNPAIRED without its records, with the DIRTY bits as they were where no write was held; and the field
network without queued requests, cached answers or waiting notices. The clauses the spec leaves open follow log
entries 41, 56 and 93, the model's own choices. -/
def Obligations.ResetsAct : Prop :=
  (∀ (s : State) (p : Path) (i : Nat), i < 16 →
    (s.accepts p O.P_RESET i (leBytes 1 1) →
      exec (.pReset p i 1) s = .next (s.doing p O.P_RESET i (leBytes 1 1) fun m =>
        if (s.part i).state = .failed then m.resetPart i 1
        else (((m.resetPart i 1).setPart i { (m.resetPart i 1).part i with state := .keying }).beginSession i).answerCreator
          i)) ∧
    (s.accepts p O.UPD_RESET i (leBytes 1 1) →
      exec (.updReset p i 1) s = .next (s.doing p O.UPD_RESET i (leBytes 1 1) fun m => m.resetUnit i)) ∧
    (s.accepts p O.TRACE_RESET 0 (leBytes 1 1) →
      exec (.traceReset p 1) s = .next (s.doing p O.TRACE_RESET 0 (leBytes 1 1) fun m =>
        if s.traceOn = false then m
        else { m with trace := { m.trace with
          state := .training, trainedAt := m.now, frameSeq := 0, alignGroups := 0, nextBay := 0, lastFrame := [],
          trigAt := 0, blocksSent := 0, scramblers := [0, 0, 0, 0], queues := [], bufs := [] } })) ∧
    (s.accepts p O.PS_RESET 0 (leBytes 1 1) →
      exec (.psReset p 1) s = .next (s.doing p O.PS_RESET 0 (leBytes 1 1) fun m => m.psReset)) ∧
    (s.accepts p O.FLD_RESET 0 (leBytes 1 1) →
      exec (.fldReset p 1) s = .next (s.doing p O.FLD_RESET 0 (leBytes 1 1) fun m =>
        (({ m with umpor := [], outbox := [], cache := [], notices := [] }.bump O.NOTICES_LOST 0 m.notices.length).setObj
          O.FLD_LINK 0 0).probeAddress))) ∧
  (∀ (m : Mach) (p cause : Nat), (∀ a ∈ (m.resetPart p cause).acts, a.cmd.part ≠ p) ∧
    (∀ c ∈ (m.resetPart p cause).received, c.part ≠ p) ∧ (∀ l ∈ (m.resetPart p cause).lent, l.part ≠ p) ∧
    (∀ o ∈ (m.resetPart p cause).placed, o.part ≠ p) ∧ ((m.resetPart p cause).part p).keys = none ∧
    ((m.resetPart p cause).part p).bounce = none ∧
    ∀ j, j < 64 → m.obj O.J_PARTITION j = p → ((m.resetPart p cause).journal j).state = .disabled) ∧
  (∀ m : Mach, m.pair.heldSince = none →
    m.psReset.pair.state = .unpaired ∧ m.psReset.pair.unacked = [] ∧ m.psReset.dirty = m.dirty) ∧
  ∀ m : Mach, m.fieldReset.umpor = [] ∧ m.fieldReset.cache = [] ∧ m.fieldReset.notices = []

/-- R371, R372: PT_CREATE makes a partition over the bays named and starts its first session, its answer owed while
a package is rewritten blank; it is refused with the first reason of R371 that applies and nothing changes.
PT_DELETE resets the partition, takes its journals and rings from it and releases its bays. The clauses the spec
leaves open follow log entry 67, the model's own choices. -/
def Obligations.PartitionsAreMadeAndDeleted : Prop :=
  ∀ (s : State) (p : Path) (q : Nat), q = s.obj O.PT_SELECT 0 →
    (s.accepts p O.PT_CREATE 0 (leBytes 1 1) → s.createRefused = none →
      ∃ m, m = (s.served p O.PT_CREATE 0 (leBytes 1 1)).createPart (s.owed p O.PT_CREATE 0) ∧
        exec (.ptCreate p 1) s = .next
          (if (m.part q).creator.isSome then s.owes m else s.wrote m p O.PT_CREATE 0 (leBytes 1 1))) ∧
    (∀ r, s.accepts p O.PT_CREATE 0 (leBytes 1 1) → s.createRefused = some r →
      exec (.ptCreate p 1) s = .next (s.declined p O.PT_CREATE 0 (leBytes 1 1) r 0)) ∧
    (s.accepts p O.PT_DELETE 0 (leBytes 1 1) → (s.part q).exists_ = true →
      exec (.ptDelete p 1) s = .next (s.doing p O.PT_DELETE 0 (leBytes 1 1) fun m =>
        let x := (List.range 64).foldl (fun t r =>
          if t.obj O.C_PARTITION r = q then (t.closeRing r).setObj O.C_PARTITION r 0xFF else t)
          (m.resetPart q 1)
        ((if x.obj O.PS_PARTITION 0 = q then x.psReset else x).releasePart q).settle)) ∧
    (s.accepts p O.PT_DELETE 0 (leBytes 1 1) → (s.part q).exists_ = false →
      exec (.ptDelete p 1) s = .next (s.declined p O.PT_DELETE 0 (leBytes 1 1) rPARTITION 0))

/-- R370, R383, R436: ATTEST writes its report where its destination is aligned and belongs to an ACTIVE partition
with its session keys, and in any other state is answered STATE; FW_LOAD takes the image whose fetch and checks
pass, and is refused with the reason they give. -/
def Obligations.ReportsAndImages : Prop :=
  ∀ (s : State) (p : Path) (i : Nat), i < 16 →
    (∀ a k, a = s.obj O.ATTEST_DEST i → s.accepts p O.ATTEST i (leBytes 1 1) → a % 64 = 0 →
      s.belongs i a 12128 = true → (s.part i).keys = some k → (s.part i).state = .active →
      exec (.attest p i 1) s = .next (s.doing p O.ATTEST i (leBytes 1 1) fun m =>
        m.wr a (m.report i false (leBytes 32 (s.obj O.ATTEST_NONCE i)) (Config.kemPublic (k + 2))) false)) ∧
    (s.accepts p O.ATTEST i (leBytes 1 1) → (s.part i).state = .active → (s.part i).keys ≠ none →
      (s.obj O.ATTEST_DEST i % 64 ≠ 0 →
        exec (.attest p i 1) s = .next (s.declined p O.ATTEST i (leBytes 1 1) rFIELD 0)) ∧
      (s.obj O.ATTEST_DEST i % 64 = 0 → s.belongs i (s.obj O.ATTEST_DEST i) 12128 = false →
        exec (.attest p i 1) s = .next (s.declined p O.ATTEST i (leBytes 1 1) rPARTITION 0))) ∧
    (s.accepts p O.ATTEST i (leBytes 1 1) → (s.part i).state ≠ .active →
      exec (.attest p i 1) s = .next (s.declined p O.ATTEST i (leBytes 1 1) rSTATE 0)) ∧
    (∀ f, f.ok = true → s.accepts p O.FW_LOAD 0 (leBytes 1 1) →
      ∃ x, x = (s.served p O.FW_LOAD 0 (leBytes 1 1)).loadFirmware f ∧
        exec (.fwLoad p 1 f) s = .next (s.answered x.1 p O.FW_LOAD 0 (leBytes 1 1) x.2 0) ∧
        (s.obj O.FW_SOURCE 0 % 4096 ≠ 0 → x.2 = rFIELD) ∧
        (s.obj O.FW_SOURCE 0 % 4096 = 0 → 5325 ≤ s.obj O.FW_BYTES 0 → s.obj O.FW_BYTES 0 ≤ 268435456 →
          s.start.stage ≠ some 8 → x.2 = rSTATE))

/-- R261, R301, R308, R442: PLACE_COMMIT processes its entry and answers with its RESULT; DIE_RETIRED retires the one
channel named where none is retired, and is refused where it would set a second bit; CLEAR_COUNTS clears the
counters and the error log; CLEAR_PRIOR clears every FENCED_PRIOR record; and FENCE_TILE fences the tile named. -/
def Obligations.PlacesAndIntegrityActions : Prop :=
  ∀ (s : State) (p : Path) (i v : Nat), i < 16 →
    (v < 2 ^ 32 → s.accepts p O.PLACE_COMMIT i (leBytes 4 v) →
      ∃ x, x = (s.served p O.PLACE_COMMIT i (leBytes 4 v)).placeEntry i v ∧
        exec (.placeCommit p i v) s = .next (s.answered x.1 p O.PLACE_COMMIT i (leBytes 4 v) x.2 0) ∧
        (s.obj O.PLACE_ENTRIES i ≤ v → x.2 = rFIELD) ∧
        (v < s.obj O.PLACE_ENTRIES i → s.obj O.PLACE_ENABLE i ≠ 1 → x.2 = rSTATE)) ∧
    (∀ k, k < 9 → s.accepts p O.DIE_RETIRED i (leBytes 2 (2 ^ k)) → (s.bay i).retired = [] →
      exec (.dieRetired p i (2 ^ k)) s = .next (s.doing p O.DIE_RETIRED i (leBytes 2 (2 ^ k)) fun m =>
        (m.free.2.free.2.free.2.setBay i { m.bay i with retired := [k] }).logError 5 i (2 ^ k) (m.free.1 % 256)
          (m.free.2.free.1 + 2 ^ 32 * m.free.2.free.2.free.1))) ∧
    (∀ k l, k < 9 → l < 9 → k ≠ l → s.accepts p O.DIE_RETIRED i (leBytes 2 (2 ^ k + 2 ^ l)) → (s.bay i).retired = [k] →
      exec (.dieRetired p i (2 ^ k + 2 ^ l)) s =
        .next (s.declined p O.DIE_RETIRED i (leBytes 2 (2 ^ k + 2 ^ l)) rSTATE 0)) ∧
    (s.accepts p O.CLEAR_COUNTS 0 (leBytes 1 1) →
      exec (.clearCounts p 1) s = .next (s.doing p O.CLEAR_COUNTS 0 (leBytes 1 1) fun m => m.clearCounts)) ∧
    (s.accepts p O.CLEAR_PRIOR 0 (leBytes 1 1) →
      exec (.clearPrior p 1) s = .next (s.doing p O.CLEAR_PRIOR 0 (leBytes 1 1) fun m =>
        { m with start := { m.start with fencedPrior := [] } })) ∧
    (v < 10240 → s.accepts p O.FENCE_TILE 0 (leBytes 2 v) → (s.viewBays p).contains (v / 640) = true →
      s.modState = .run →
      exec (.fenceTile p v) s = .next (s.doing p O.FENCE_TILE 0 (leBytes 2 v) fun m => m.fence v 3)) ∧
    (v < 10240 → s.accepts p O.FENCE_TILE 0 (leBytes 2 v) → (s.viewBays p).contains (v / 640) = false →
      exec (.fenceTile p v) s = .next (s.declined p O.FENCE_TILE 0 (leBytes 2 v) rPARTITION 0))

/-- R54, R322, R401, R403, R410: ones written to NUM_SUMMARY clear the flags they name in the engines the path sees;
to RULE_FIRED, the bits they name; but for what was set since the slot began. A RULES write stores the table;
STANDBY stores its value and lets the transitions it calls for begin; and a commit of the HDM decoder is taken with
its base where its size is HDM_SIZE, while the link is up. The clauses the spec leaves open follow log entries 78,
98, 99 and 101, the model's own choices. -/
def Obligations.FlagsAndRulesAreWritten : Prop :=
  ∀ (s : State) (p : Path) (v : Nat),
    (v < 2 ^ 64 → s.accepts p O.NUM_SUMMARY 0 (leBytes 8 v) →
      exec (.numSummary p v) s = .next (s.doing p O.NUM_SUMMARY 0 (leBytes 8 v) fun m =>
        m.clearFlags p v (slotStart s.now))) ∧
    (v < 2 ^ 32 → s.accepts p O.RULE_FIRED 0 (leBytes 4 v) →
      exec (.ruleFired p v) s = .next (s.doing p O.RULE_FIRED 0 (leBytes 4 v) fun m =>
        m.setObj O.RULE_FIRED 0 (s.obj O.RULE_FIRED 0 - (s.obj O.RULE_FIRED 0 &&& (v - (v &&&
          maskOf ((List.range 32).filter fun k => s.setSince (objFlag O.RULE_FIRED k) (slotStart s.now)))))))) ∧
    (∀ b, b.length = 512 → s.accepts p O.RULES 0 b →
      exec (.rules p b) s = .next (s.doing p O.RULES 0 b fun m => m.setObj O.RULES 0 (leNat b))) ∧
    (v < 2 → s.accepts p O.STANDBY 0 (leBytes 1 v) →
      exec (.standby p v) s = .next (s.doing p O.STANDBY 0 (leBytes 1 v) fun m => (m.setObj O.STANDBY 0 v).follow)) ∧
    ∀ base size, (Instr.hdmCommit base size).wf = true →
      exec (.hdmCommit base size) s = .next (s.after
        (if s.linkUp = false then s.toMach
         else if size = s.obj O.HDM_SIZE 0 then { s.toMach with hdmCommitted := some base, hdmError := false }
         else { s.toMach with hdmError := true }))

/-- R457, R466: TR_FIRE fires the trigger of a capture in TRIGGER_CENTRED mode now, TR_FINISH ends such a capture,
and TR_RESTART starts a stopped one again, its buffers emptied in that mode and each bay's GAP of the stop kept
behind the records before it in another, and is refused with STATE in any other state. The clauses the spec leaves
open follow log entries 100 and 140, the model's own choices. -/
def Obligations.TraceActions : Prop :=
  ∀ (s : State) (p : Path),
    (s.accepts p O.TR_FIRE 0 (leBytes 1 1) → s.obj O.TR_MODE 0 = 2 → s.trace.state = .capturing →
      exec (.trFire p 1) s = .next (s.doing p O.TR_FIRE 0 (leBytes 1 1) fun m =>
        { m with trace := { m.trace with state := .triggered, trigAt := m.now } }.setObj O.TR_TRIG_TIME 0 m.now)) ∧
    (s.accepts p O.TR_FIRE 0 (leBytes 1 1) → (s.obj O.TR_MODE 0 ≠ 2 ∨ s.trace.state ≠ .capturing) →
      exec (.trFire p 1) s = .next (s.doing p O.TR_FIRE 0 (leBytes 1 1) fun m => m)) ∧
    (s.accepts p O.TR_FINISH 0 (leBytes 1 1) →
      exec (.trFinish p 1) s = .next (s.doing p O.TR_FINISH 0 (leBytes 1 1) fun m =>
        if s.obj O.TR_MODE 0 = 2 ∧ s.captureOn = true then
          { m with trace := { m.trace with state := .sending } }.tryStop else m)) ∧
    (s.accepts p O.TR_RESTART 0 (leBytes 1 1) → s.trace.state = .stopped →
      exec (.trRestart p 1) s = .next (s.doing p O.TR_RESTART 0 (leBytes 1 1) fun m =>
        { m with trace := { m.trace with
          state := .capturing
          bufs := if s.obj O.TR_MODE 0 = 2 then [] else m.trace.bufs.map fun x => (x.1, s.keepGap x.1 x.2) } })) ∧
    (s.accepts p O.TR_RESTART 0 (leBytes 1 1) → s.trace.state ≠ .stopped →
      exec (.trRestart p 1) s = .next (s.declined p O.TR_RESTART 0 (leBytes 1 1) rSTATE 0))

/-- R330, R331, R332: a REQUEST that passes the frame checks is counted and joins the queue of eight; one that
repeats a cached answer's TOKEN within a second is counted as a duplicate and answered from the cache; a
NOTICE_ACK ends the resends of its notice; and a frame that fails a check is discarded and counted. The clauses
the spec leaves open follow log entry 90, the model's own choices. -/
def Obligations.FramesAreReceived : Prop :=
  ∀ (s : State) (f : Frame), f.ok = true → s.fieldUp = true → s.obj O.FLD_LINK 0 ≠ 0 →
    (s.frameOk f = true → fld f.payload 3 1 = 1 →
      (∀ c, s.cache.find? (fun c => c.src == f.src && c.token == fld f.payload 4 2 &&
          decide (s.now < c.at_ + 1000000000)) = some c →
        exec (.request f) s = .next (s.after (((s.countRx f.src).bump O.DUPLICATES 0 1).queueFrame f.src f.srcPort c.frame))) ∧
      (s.cache.find? (fun c => c.src == f.src && c.token == fld f.payload 4 2 &&
          decide (s.now < c.at_ + 1000000000)) = none → s.requestHeld f.src (fld f.payload 4 2) = false →
        (s.umpor.length < 8 → exec (.request f) s = .next (s.after { s.countRx f.src with
          umpor := s.umpor ++ [⟨f.src, f.srcPort, fld f.payload 4 2, f.payload.drop 16⟩] })) ∧
        (8 ≤ s.umpor.length → exec (.request f) s = .next (s.after (s.bump O.FLD_DISCARDS 0 1))))) ∧
    (s.frameOk f = true → fld f.payload 3 1 = 5 →
      exec (.noticeAck f) s = .next (s.after { s.countRx f.src with
        notices := s.notices.filter fun n => n.token != fld f.payload 4 2 })) ∧
    (s.frameOk f = false →
      exec (.request f) s = .next (s.after (s.bump O.FLD_DISCARDS 0 1)) ∧
      exec (.noticeAck f) s = .next (s.after (s.bump O.FLD_DISCARDS 0 1)))

/-- R317, R330, R332: a notice not acknowledged is sent again every 10 ms up to eight times, then dropped and
counted, one not yet sent only in the order of the records; a transmit opportunity sends the oldest frame that can go,
or solicits the link address its destination lacks; the beacon sets FLD_LINK; an echo request from a link-local source
is answered, any other frame of that type discarded; and a solicitation for the module's own address is advertised,
one sent to detect duplicates to all nodes. The clauses the spec leaves open follow log entries 91, 92, 94 and 132,
the model's own choices. -/
def Obligations.FramesAreSent : Prop :=
  ∀ (s : State), s.fieldUp = true →
    (∀ token n, token < 65536 → s.notices.find? (fun n => n.token == token) = some n →
      let first := (s.notices.find? fun x => decide (x.sends = 0)).map (·.token)
      let m := s.upTo n.dueAt
      (n.sends < 8 → (n.sends = 0 → first = some token) →
        exec (.noticeResend token) s = .next (s.after ({ m with
          notices := s.notices.map fun (x : Notice) =>
            if x.token = token then { x with sends := x.sends + 1, dueAt := m.now + 10000000 } else x
          }.sendNotice token n.record))) ∧
      (n.sends = 0 → first ≠ some token → exec (.noticeResend token) s = .next (s.after s.toMach)) ∧
      (8 ≤ n.sends → exec (.noticeResend token) s = .next (s.after
        ({ m with notices := s.notices.filter fun x => x.token != token }.bump O.NOTICES_LOST 0 1)))) ∧
    (s.obj O.FLD_LINK 0 ≠ 0 →
      (∀ f, s.outbox.find? (fun f => s.reachable f.dst || !smem s.soliciting f.dst) = some f →
        exec .transmitOpportunity s = .next (s.after
          (if s.reachable f.dst then ({ s.toMach with outbox := s.outbox.erase f } : Mach).sendFrame f
           else ({ s.toMach with soliciting := sadd s.soliciting f.dst } : Mach).sendFrame (s.solicitation f.dst)))) ∧
      (s.outbox.find? (fun f => s.reachable f.dst || !smem s.soliciting f.dst) = none →
        exec .transmitOpportunity s = .next (s.after s.toMach))) ∧
    (∀ k, k ≤ 2 → s.plinth.seated = true →
      exec (.plcaBeacon k) s = .next (s.after (s.setObj O.FLD_LINK 0 k))) ∧
    (∀ f, f.ok = true → s.obj O.FLD_LINK 0 ≠ 0 →
      exec (.icmpv6Echo f) s = .next (s.after
        (if f.sumOk = true ∧ fld f.payload 0 2 = 128 ∧ 8 ≤ f.payload.length ∧ isLinkLocal f.src = true then
          (s.learn f.src).queueFrame f.src 0 (icmpMessage s.ownAddress f.src 129 (f.payload.drop 4))
         else s.bump O.FLD_DISCARDS 0 1))) ∧
    ∀ x, (Instr.neighbourDiscovery x).wf = true → s.obj O.FLD_LINK 0 ≠ 0 →
      (x.target = s.ownAddress → x.solicit = true → exec (.neighbourDiscovery x) s = .next (s.after
        ((if x.dad then s.toMach else s.learn x.src).queueFrame (if x.dad then allNodes else x.src) 0
          (icmpMessage s.ownAddress (if x.dad then allNodes else x.src) 136
            ([if x.dad then 0x20 else 0x60, 0, 0, 0] ++ leBytes 16 s.ownAddress ++
              ([2, 1] ++ (List.range 6).map fun i => BitVec.ofNat 8 (s.macOctet i))))))) ∧
      (x.target ≠ s.ownAddress → x.solicit = true → exec (.neighbourDiscovery x) s = .next (s.after s.toMach)) ∧
      (x.target = s.ownAddress → x.solicit = false → exec (.neighbourDiscovery x) s = .next (s.after
        { s.toMach with addressTaken := true, umpor := [], outbox := [] })) ∧
      (x.target ≠ s.ownAddress → x.solicit = false → exec (.neighbourDiscovery x) s = .next (s.after
        (if smem s.soliciting x.target then s.learn x.target else s.toMach)))

/-- R131, R265, R266, R269, R270, R276, R408: of the queues whose next transfer may issue the one with the earliest
dry time issues, and where none may the bays whose stores are waited for are woken; an acknowledged transfer lands
and its COPY completes with its last, but where the deadline of a COPY with an alternative has passed; a queue of
infinite dry time that has waited 20 µs ages; a member whose lag stands at its limit for 2,000 ns is dropped and
counted, and lacks what is outstanding and what follows. The first piece at home is bound to the first free lendable
piece of its bay; and a tile that is not idle gives its pieces up. The clauses the spec leaves open follow log
entries 47 and 52, the model's own choices. -/
def Obligations.TransfersAndLoans : Prop :=
  ∀ (s : State) (b : Nat), b < 16 →
    (s.issues b = true → (s.transfers.filter fun t => t.bay == b).length < 256 →
      let qs := sortBy Queue.before (s.queues b)
      (∀ q a w off n tile, qs.find? (fun q => (s.queueNext q).any fun x => s.mayIssue x) = some q →
        s.queueNext q = some (a, w, off, n, tile) →
        exec (.transferIssue b) s = .next (s.after (s.issueTransfer b q a w off n tile))) ∧
      (qs.find? (fun q => (s.queueNext q).any fun x => s.mayIssue x) = none →
        exec (.transferIssue b) s = .next (s.after (s.wakeBays (qs.flatMap fun q => (s.queueNext q).elim [] fun x =>
          s.sideBays (x.2.1.sides x.2.2.2.2 x.2.2.1 x.2.2.2.1)))))) ∧
    (∀ ticket errs t a w, errs.all ReadErr.ok = true → s.mirrorsOn → s.issues b = true →
      s.transfers.find? (fun t => t.bay == b && t.ticket == ticket) = some t → s.act? t.cmd = some a →
      a.copyWork? = some w →
      ((w.count = 0 ∨ ∀ d ∈ w.deadline, s.now ≤ d) →
        let m := s.toMach.takeReads errs (if isHost w.src then [] else [(w.source + t.offset, t.len)])
        exec (.transferDone b ticket errs) s = .next (s.after
          (({ m with transfers := m.transfers.filter fun x => !(x.bay == b && x.ticket == ticket)
            }.landTransfer t a w).countThrottle a.cmd.part))) ∧
      (∀ d, w.count ≠ 0 → w.deadline = some d → d < s.now →
        exec (.transferDone b ticket errs) s = .next (s.after (s.switchToList a w)))) ∧
    (∀ id q a w, id.ok = true →
      (s.queues b).find? (fun q => (q.copies.head?.map fun x => x.1.cmd.id) == some id) = some q →
      q.copies.head? = some (a, w) → q.dry = none → q.turn ≠ none →
      exec (.dryTimeAging b id) s = .next (s.after
        ((s.upTo (w.waitedFrom + 20000)).ageQueue q (some (w.waitedFrom + 20000)) w.waitedFrom))) ∧
    (∀ id tile a w, id.ok = true → tile < 10240 → s.act? id = some a → a.copyWork? = some w →
      w.members.contains tile = true → w.multicast = true → w.issued < w.len → w.held none (w.piece w.issued) = true →
      exec (.multicastDrop id tile) s = .next (s.after
        (((s.upTo (w.waitedFrom + 2000)).bump O.MC_DROPS a.cmd.part 1).setCopy a
          { w with
            members := w.members.filter (· != tile)
            dropped := w.dropped ++ [⟨tile,
              (s.transfers.filter fun t => decide (t.cmd = id) && t.member.isNone).map (·.offset), w.issued⟩] }))) ∧
    (∀ q home rest t k, s.lends b = true → s.homePieces b = (q, home) :: rest → b * 640 ≤ t → t < b * 640 + 640 →
      (∀ u, b * 640 ≤ u → u < t → s.lendable u = []) → (s.lendable t).head? = some k →
      exec (.lentBind b) s = .next (s.after { s.toMach with lent := s.lent ++ [⟨q, home, t, k, [], []⟩] })) ∧
    ∀ t errs, t < 10240 → errs.all ReadErr.ok = true → s.mirrorsOn →
      (s.tileIdle t = false → exec (.lentRevoke t errs) s =
        .next (s.after ((s.meet errs).revokeWhere fun l => l.tile == t))) ∧
      (s.tileIdle t = true → exec (.lentRevoke t errs) s = .next (s.after s.toMach))

/-- R28, R286, R287, R296, R299, R300, R306, R307: in a bay whose sequencer runs patrol scrub reads the next line of
its package with the outcome its columns and tags give, a stale line being queued to be written blank, and a valid
SRAM word that is not poisoned, or a word of a sequencer's store, which an uncorrectable one fails; a queued write
back writes the line corrected, poisoned or blank; an SRAM write back clears what was queued; in any other bay none
of them acts. A package rewritten blank holds nothing, at epoch 1, and the session that waited for it starts. The
clauses the spec leaves open follow log entries 45 and 55, the model's own choices. -/
def Obligations.StoredDataIsKept : Prop :=
  ∀ (s : State) (b : Nat), b < 16 →
    (∀ (o : LineObs), o.ok = true →
      (s.obj O.SCRUB_ENABLE 0 = 1 → s.sequencerRuns b = true →
        let l := b * packageLines + (s.bay b).scrubNext
        let m := s.toMach.readLine { o with addr := l * 256 } 2
        exec (.scrubLine b o) s = .next (s.after
          ((if s.isStale l = true ∧ mget m.writeBacks l = none then { m with writeBacks := mset m.writeBacks l .blank }
            else m).advanceScrub b))) ∧
      (s.sequencerRuns b = false → exec (.scrubLine b o) s = .next (s.after s.toMach))) ∧
    (∀ a o, wordOk a = true → o.ok = true → s.obj O.SCRUB_ENABLE 0 = 1 →
      (s.sequencerRuns (addrBay a) = true → smem s.valid (sectorOf a) = true → smem s.poison (sectorOf a) = false →
        exec (.sramScrub (.store a) o) s = .next (s.after (s.readWord a o 2))) ∧
      (s.sequencerRuns (addrBay a) = false → exec (.sramScrub (.store a) o) s = .next (s.after s.toMach))) ∧
    (∀ o, o.ok = true → s.obj O.SCRUB_ENABLE 0 = 1 →
      (s.sequencerRuns b = true → exec (.sramScrub (.baySequencer b) o) s = .next (s.after
        (if (seqWordClass o).lost then (s.readSeqWord b o (some 2)).failBay b 2 else s.readSeqWord b o (some 2)))) ∧
      ∀ t, t < 10240 → s.tileRuns t = true → exec (.sramScrub (.tileSequencer t) o) s = .next (s.after
        (if (seqWordClass o).lost then (s.readSeqWord (t / 640) o (some 2)).fence t 1
         else s.readSeqWord (t / 640) o (some 2)))) ∧
    (∀ l w, l < 2 ^ 32 → mget s.writeBacks l = some w →
      (s.sequencerRuns (l / packageLines) = true → exec (.lineWriteBack l) s = .next (s.after { s.toMach with
        writeBacks := mdel s.writeBacks l
        mem := if w = .corrected then s.mem else Memory.setAll s.mem (l * 256) (zerosB 256)
        lines := if w = .poison then mset s.lines l ⟨s.epochOf l, 0xA0, s.lineKey l⟩
          else if w = .blank then mdel s.lines l else s.lines })) ∧
      (s.sequencerRuns (l / packageLines) = false → exec (.lineWriteBack l) s = .next (s.after s.toMach))) ∧
    (∀ a, wordOk a = true →
      exec (.sramWriteBack a) s = .next (s.after
        (if s.sequencerRuns (addrBay a) then { s.toMach with sramBacks := sdel s.sramBacks (a / 8 * 8) } else s.toMach))) ∧
    ∀ q, (List.range 16).find? (fun q => smem (s.part q).blanking b) = some q →
      ∃ m : Mach, m = { s.toMach with
          mem := s.mem.filter fun c => !decide (b * 2 ^ 36 ≤ c.1 ∧ c.1 < b * 2 ^ 36 + 2 ^ 36)
          lines := s.lines.filter fun l => l.1 / packageLines != b
          writeBacks := s.writeBacks.filter fun l => l.1 / packageLines != b } ∧
        exec (.packageBlankRewrite b) s = .next (s.after (
          let x := (m.setEpoch b 1).setPart q { s.part q with blanking := sdel (s.part q).blanking b }
          if sdel (s.part q).blanking b = [] then (x.finishSession q).answerCreator q else x))

/-- R293, R299, by its rows: on one failed data column a live line whose tag matches is corrected, counted and
queued to be written; with two or more it is lost, counted, logged and queued to be written poisoned. A column fails
by its CRC, the check column by a bad STATE byte too. The clauses the spec leaves open follow log entries 45 and 55,
the model's own choices. -/
def Obligations.LineReadsCorrectOrPoison : Prop :=
  ∀ (m : Mach) (o : LineObs) (source l b c1 c2 : Nat), l = lineOf o.addr → b = l / 2 ^ 28 → o.ok = true →
    (m.bay b).retired = [] → (∀ k, (m.bay b).crcPeriod.getD k 0 + 1 < m.obj O.DIE_RETIRE_LIMIT 0) →
    m.lineLive l = true → m.linePoisoned l = false →
    c1 = (if stateBad (Nat.xor (m.lineMeta l).state o.state1) then o.fail1 ||| 256 else o.fail1) →
    c2 = (if stateBad (Nat.xor (m.lineMeta l).state o.state2) then o.fail2 ||| 256 else o.fail2) →
    (popcount9 c1 = 1 → c1 < 256 → o.tag1 = true →
      mget (m.readLine o source).writeBacks l = some .corrected ∧
        (m.readLine o source).obj O.MEM_CORRECTED b = min (m.obj O.MEM_CORRECTED b + 1) (2 ^ 64 - 1) ∧
        (m.readLine o source).errorLog = m.errorLog) ∧
    (2 ≤ popcount9 c1 → 2 ≤ popcount9 c2 →
      mget (m.readLine o source).writeBacks l = some .poison ∧
        (m.readLine o source).obj O.MEM_UNCORRECTABLE b = min (m.obj O.MEM_UNCORRECTABLE b + 1) (2 ^ 64 - 1))

/-- R170 to R177, R205, R395, R408: a bay of a REDUCE that works sums the block whose predecessor has arrived and
sends it on; a final block is written to every output, and after the last the command completes; while a bay it
names sleeps either waits and the bay is woken. A TWO_PASS whose units have all passed once ends by the first reason
that applies, or starts its second pass; and each unit then applies its shards. The clauses the spec leaves open
follow log entry 62, the model's own choices. -/
def Obligations.BlocksAndPasses : Prop :=
  ∀ (s : State) (id : CmdId) (a : Act), id.ok = true → s.mirrorsOn → s.act? id = some a →
    (∀ w bay q inc hits errs, a.work = .reducing w → bay < 16 → hits.all BitHit.ok = true →
      errs.all ReadErr.ok = true → a.cmd.chain.findIdx? (· == bay) = some q → w.doneAt.getD q 0 < a.cmd.rBlocks →
      inc = (w.links.find? fun l => l.1 == q && l.2.1 == w.doneAt.getD q 0).map (·.2.2) → (q = 0 ∨ inc.isSome = true) →
      exec (.reduceBayBlock id bay hits errs) s = .next (s.after
        (if s.awake a && s.bayReady bay then
          (s.toMach.takeReads errs (a.blockReads q (w.doneAt.getD q 0))).sendBlock a w bay q (w.doneAt.getD q 0) inc hits
         else s.wakeBays (s.actBays a)))) ∧
    (∀ w l, a.work = .reducing w →
      w.links.find? (fun l => l.1 == a.cmd.chain.length && l.2.1 == w.written) = some l →
      exec (.reduceResultBlock id) s = .next (s.after
        (if s.awake a && s.bayReady (a.cmd.chain.getLastD 0) then s.distribute a w l.2.1 l.2.2
         else s.wakeBays (s.actBays a)))) ∧
    (∀ w r, a.work = .updating w → a.cmd.updMode = 2 → w.phase = 1 → agreed w = some r →
      exec (.updateAgreement id) s = .next (s.after (s.endAgreed a w r.1 r.2).startUpdates)) ∧
    (∀ w, a.work = .updating w → a.cmd.updMode = 2 → w.phase = 1 → agreed w = none →
      exec (.updateAgreement id) s = .next (s.after (s.beginPassTwo a w))) ∧
    ∀ w bay q errs, a.work = .updating w → bay < 16 → errs.all ReadErr.ok = true →
      a.cmd.chain.findIdx? (· == bay) = some q → w.phase = 2 → w.doneAt.contains q = false → s.issues bay = true →
      s.awake a = true →
      exec (.updatePass2 id bay errs) s = .next (s.after
        ((s.toMach.takeReads errs (w.reads a.cmd.chain.length q)).passTwo a w q))

/-- R355 to R360: a bay of the PRIMARY sends the first line of its package in the order of the DIRTY bits while its
ring has room, clearing the bit; the MIRROR applies a record that opens with the expected SEQ and bay, acknowledging
every fourth, and breaks the stream, counting a reject, where it does not; an acknowledgement that is due goes out 1
µs after the record; an ACKED value drops what it acknowledges, and the writes held for it go on; while a record has
been unacknowledged for PS_LAG_BOUND no row of an engine writes a mirrored line, and the time a write was held is
counted when the hold ends. The clauses the spec leaves open follow log entries 68 and 129, the model's own choices. -/
def Obligations.RecordsAreMirrored : Prop :=
  ∀ (s : State), (s.pair.state = .resync ∨ s.pair.state = .paired) →
    (∀ l b errs, b < 16 → errs.all ReadErr.ok = true → s.psPrimary = true → s.linkUp = true → s.issues b = true →
      s.psRoom b = true →
      s.pair.queue.find? (fun l => l / packageLines == b && smem s.dirty l && s.psLine l) = some l →
      (∀ k ∈ s.storeBays (l * 256) 256, s.bayUp k = true) →
      let m := s.toMach.takeReads errs [(l * 256, 256)]
      let bad := m.rdPoison (l * 256) 256
      exec (.psSendLine ⟨b, errs⟩) s = .next (s.after
        ((({ m with dirty := sdel m.dirty l, pair := { m.pair with queue := m.pair.queue.filter (· != l) } } :
          Mach).putRecord b 1 (boolNat bad) (l * 256) 0 (if bad then zerosB 256 else m.rd (l * 256) 256) (some l)).sealSent
            l b (m.psNext b)))) ∧
    (∀ (b : Nat) (r : Bytes), b < 16 → r.length = 304 → s.psPrimary = false →
      let n := s.setWindow (slotOff b (s.psNext b)) r
      ∃ plain m, plain = (s.pair.key.bind fun k =>
          Config.gcmOpen k (recordNonce b (s.psNext b)) (bytesAt r 0 32) (bytesAt r 32 272)) ∧
        exec (.psApplyRecord b r) s = .next (s.after m) ∧
        (plain = none → m = (n.bump O.PS_REJECTS 0 1).psBreak 5) ∧
        (¬ ((fld r 0 1 = 1 ∨ fld r 0 1 = 2) ∧ fld r 2 1 = b ∧ fld r 8 8 = s.psNext b) →
          m = (n.bump O.PS_REJECTS 0 1).psBreak 5) ∧
        ∀ d x, plain = some d → (fld r 0 1 = 1 ∨ fld r 0 1 = 2) → fld r 2 1 = b → fld r 8 8 = s.psNext b →
          x = ((n.applyRecord b r d).setPair { (n.applyRecord b r d).pair with
            seq := mset (n.applyRecord b r d).pair.seq b (s.psNext b + 1) }).bump O.PS_RECORDS_APPLIED 0 1 →
          m = if x.psAcked b + 4 ≤ s.psNext b + 1 then x.sendAcked b
            else if (mget x.pair.ackDue b).isSome then x
            else x.setPair { x.pair with ackDue := mset x.pair.ackDue b x.now }) ∧
    (∀ b t, b < 16 → mget s.pair.ackDue b = some t →
      exec (.psAckTimer b) s = .next (s.after ((s.upTo (t + 1000)).sendAcked b))) ∧
    (∀ b v, b < 16 → v < 2 ^ 64 → s.psPrimary = true → s.psAcked b < v → v ≤ s.psNext b →
      exec (.acked b v) s = .next (s.after ((s.setWindow (ackedOff b) (leBytes 8 v)).setPair { s.pair with
        ackedSeq := mset s.pair.ackedSeq b v
        unacked := s.pair.unacked.filter fun r => !(r.bay == b && decide (r.seq < v))
        sweepLeft := (s.pair.unacked.filter fun r => r.bay == b && decide (r.seq < v)).foldl
          (fun n r => r.line.elim n (sdel n)) s.pair.sweepLeft }).trySweep.trySeals.resumeWrites)) ∧
    (∀ i t, i.isHeld = true → s.psLagging = true → exec i s = .next t → t.mirrorWrites = s.mirrorWrites) ∧
    ∀ (m : Mach) (t : Nat), m.pair.heldSince = some t → m.psLagging = false →
      m.releaseHold.pair.heldSince = none ∧
        m.releaseHold.obj O.PS_HOLD_NS 0 = min (m.obj O.PS_HOLD_NS 0 + (m.now - t)) (2 ^ 64 - 1)

/-- R361, R362, R386: each module beats every 100 µs in RESYNC and PAIRED and goes BROKEN for want of the partner's
beat; a handshake with no message for 100 ms fails with LINK. HELLO with the other role and the same bays is
acknowledged, and answered by the MIRROR with its report; other BAYS fail the check with PARTITION, the same
role with KEY; a CONFIRM that matches takes the PRIMARY to RESYNC and one that does not fails with KEY;
SWEEP_DONE takes the MIRROR to PAIRED; CLOSE ends the stream; and ACK of CONFIRM takes the MIRROR to RESYNC. The
clauses the spec leaves open follow log entries 27 and 66, the model's own choices. -/
def Obligations.PairsShakeHandsAndPart : Prop :=
  ∀ (s : State),
    (s.psLive = true →
      (∀ m, m = s.upTo (s.pair.lastBeat + 100000) →
        exec .heartbeat s = .next (s.after
          ((m.setPair { s.pair with lastBeat := m.now }).peerWrite 0x20080 (leBytes 8 m.now)))) ∧
      exec .psPeerTimeout s = .next (s.after
        ((s.upTo (s.pair.lastHeard + s.obj O.PS_PEER_TIMEOUT 0)).psBreak 4))) ∧
    (s.pair.state = .handshake → s.pair.seenNumber = 0 →
      exec .psHandshakeTimeout s = .next (s.after
        ((s.upTo (s.pair.beganAt + 100000000)).psFail rLINK O.PS_PEER_BAR4 7))) ∧
    (∀ t, t < 2 ^ 64 → s.plinth.inputOn = true →
      exec (.peerHeartbeat t) s = .next (s.after
        ((s.setWindow 0x20080 (leBytes 8 t)).setPair { s.pair with peerTime := t, lastHeard := s.now }))) ∧
    ∀ b, (s.hears 1 b → s.pair.state = .handshake →
        (fld (payload b) 2 2 ≠ maskOf s.psBays →
          exec (.hello b) s = .next (s.after ((s.heard b).psFailClose rPARTITION O.PS_PARTITION))) ∧
        (fld (payload b) 2 2 = maskOf s.psBays → fld (payload b) 0 1 = s.obj O.PS_ROLE 0 →
          exec (.hello b) s = .next (s.after ((s.heard b).psFailClose rKEY O.PS_ROLE))) ∧
        (fld (payload b) 2 2 = maskOf s.psBays → fld (payload b) 0 1 ≠ s.obj O.PS_ROLE 0 → s.psPrimary = false →
          ∀ r, r = (s.heard b).report s.psPart true (bytesAt (payload b) 8 32) (Config.kemPublic s.pair.kemDraw) →
          exec (.hello b) s = .next (s.after ((((s.heard b).sendAck b).setPair { ((s.heard b).sendAck b).pair with
            hashM := hash256 (bytesAt r 0 1536) }).sendFragments (reportFragments r)))) ∧
        (fld (payload b) 2 2 = maskOf s.psBays → fld (payload b) 0 1 ≠ s.obj O.PS_ROLE 0 → s.psPrimary = true →
          exec (.hello b) s = .next (s.after ((s.heard b).sendAck b)))) ∧
      (s.hears 4 b → s.pair.state = .handshake → s.psPrimary = true →
        exec (.confirm b) s = .next (s.after
          (if s.pair.confirmValue ≠ [] ∧ bytesAt (payload b) 0 32 = s.pair.confirmValue then
            ((s.heard b).sendAck b).psResync else (s.heard b).psFailClose rKEY O.PAIR_PEER_ID))) ∧
      (s.hears 5 b → s.pair.state = .resync → s.psPrimary = false →
        exec (.sweepDone b) s = .next (s.after ((s.heard b).psState .paired 3))) ∧
      (s.hears 6 b → s.pair.state = .handshake →
        exec (.close b) s = .next (s.after ((s.heard b).psFail rKEY O.PAIR_PEER_ID 6))) ∧
      (s.hears 6 b → (s.pair.state = .resync ∨ s.pair.state = .paired) →
        exec (.close b) s = .next (s.after ((s.heard b).psUnpair 6))) ∧
      (s.hears 7 b → s.pair.awaiting = some (fld (payload b) 0 8) → ∀ m,
        m = (s.heard b).setPair { (s.heard b).pair with awaiting := none } →
        exec (.ack b) s = .next (s.after
          (if s.pair.state = .handshake ∧ s.pair.confirmed = true ∧ s.pair.outFrags = [] then m.psResync
           else m.pumpFragments)))

/-- R386: a fragment of a REPORT that is not the last is gathered and acknowledged; the last completes it, and it is
checked against the bays, the identities and the nonce of its step before the handshake goes on; and ENCAP gives the
MIRROR that has verified the PRIMARY's report the pair key, which it confirms, and fails any other with KEY. The
clauses the spec leaves open follow log entries 27 and 66, the model's own choices. -/
def Obligations.PairsExchangeReportsAndKeys : Prop :=
  ∀ (s : State) (b : Bytes), s.pair.state = .handshake →
    (∀ r m nonce, s.hears 2 b → r = s.pair.gathered ++ payload b →
      m = ((s.heard b).setPair { (s.heard b).pair with gathered := r }).sendAck b →
      nonce = (if s.psPrimary then leBytes 32 (Config.trng s.pair.nonce) else s.pair.hashM) →
      (fld b 1 1 + 1 < fld b 2 1 → exec (.report b) s = .next (s.after m)) ∧
      (fld b 2 1 ≤ fld b 1 1 + 1 → fld r 8 2 ≠ maskOf s.psBays →
        exec (.report b) s = .next (s.after (m.psFailClose rPARTITION O.PS_PARTITION))) ∧
      (fld b 2 1 ≤ fld b 1 1 + 1 → fld r 8 2 = maskOf s.psBays →
        exec (.report b) s = .next (s.after
          (if m.reportOk r nonce = false then m.psFailClose rKEY O.PAIR_PEER_ID
           else if s.psPrimary then m.primaryReport r
           else m.setPair { m.pair with hashP := hash256 (bytesAt r 0 1536), gathered := [] })))) ∧
    (s.hears 3 b → s.psPrimary = false → s.pair.hashP = [] →
      exec (.encap b) s = .next (s.after ((s.heard b).psFailClose rKEY O.PAIR_PEER_ID))) ∧
    ∀ x, s.hears 3 b → s.psPrimary = false → s.pair.hashP ≠ [] →
      x = pairSecret (Config.kemDecap s.pair.kemDraw (bytesAt (payload b) 0 1088)) s.pair.hashM s.pair.hashP →
      exec (.encap b) s = .next (s.after ((((s.heard b).sendAck b).setPair { ((s.heard b).sendAck b).pair with
        key := some (fld x 0 32), confirmed := true }).sendFragments [fragment 4 0 1 (bytesAt x 32 32)]))

/-- R339, R343, R347, R350, R345: training ends with the link up at its width and rate, or down below four lanes,
and LINK_UP of a link that does not train changes nothing; the loss of a link that is up leaves it training or down,
empties the device cache, fails each COPY that waits on a host end and each other command that waits on host memory,
stops every journal and counts one loss, after which no journal is RUNNING; PERST_N low resets PF0 in RUN and takes
the link down, its release lets a powered link train; a function-level reset clears its function's registers and in
RUN resets its partition, that of PF0 clears every function's and in RUN resets all sixteen partitions and the
pairing session, clears HDM_ENABLE and empties the device cache; and a host read that returns nothing counts a
failure and ends the command that made it with LINK, its record saying so where the command was still to be
validated. The clauses the spec leaves open follow log entries 31, 70 and 77, the model's own choices. -/
def Obligations.LinkEventsAct : Prop :=
  ∀ (s : State),
    (∀ mode width speed, (Instr.linkUp mode width speed).wf = true →
      (s.obj O.LINK_STATE 0 = 3 → exec (.linkUp mode width speed) s = .next (s.after
        (if width < 4 then s.setLink 0 0 0 else s.setLink mode width speed))) ∧
      (s.obj O.LINK_STATE 0 ≠ 3 → exec (.linkUp mode width speed) s = .next s)) ∧
    (∀ m n : Mach, m = s.setLink (if s.linkPowered && s.plinth.perst then 3 else 0) 0 0 →
      n = m.hostCopies.foldl (fun x c => x.failCopy c.1 c.2) { m with devCache := [] } →
      (s.obj O.LINK_STATE 0 ≠ 1 → s.obj O.LINK_STATE 0 ≠ 2 → s.loseLink = m) ∧
      (s.obj O.LINK_STATE 0 = 1 ∨ s.obj O.LINK_STATE 0 = 2 →
        s.loseLink = ((List.range 64).foldl (fun x j => x.stopJournal j rLINK)
          (n.acts.foldl (fun x a => match a.work, a.hostEnd with
            | .copying _, _ => x
            | _, some o => x.failHost a o
            | _, none => x) n)).bump O.LINK_DOWNS 0 1 ∧
        ∀ j, j < 64 → (s.loseLink.journal j).state ≠ .running) ∧
      exec .linkDown s = .next (s.after s.loseLink)) ∧
    (∀ m : Mach, m = { s.toMach with plinth := { s.plinth with perst := false } } →
      (s.modState = .run → exec .perstAssert s = .next (s.after (m.resetPf0 1).loseLink)) ∧
      (s.modState ≠ .run → exec .perstAssert s = .next (s.after m.loseLink))) ∧
    (∀ m : Mach, m = { s.toMach with plinth := { s.plinth with perst := true } } →
      (s.obj O.LINK_STATE 0 = 0 →
        exec .perstRelease s = .next (s.after (m.setLink (if s.linkPowered then 3 else 0) 0 0))) ∧
      (s.obj O.LINK_STATE 0 ≠ 0 → exec .perstRelease s = .next (s.after m))) ∧
    (∀ (vf : Nat) (m : Mach), 1 ≤ vf → vf ≤ 16 → m = { s.toMach with
        mailboxes := mdel s.mailboxes vf
        msix := s.msix.filter (fun e => e.1 / 2048 != vf)
        slotWrites := s.slotWrites.filter (fun w => w.path.isMgmt || w.path.fn != vf)
        slotReads := s.slotReads.filter (fun w => w.path.isMgmt || w.path.fn != vf) } →
      (s.modState = .run → exec (.vfFlr vf) s = .next (s.after (m.partitionReset (vf - 1) 2))) ∧
      (s.modState ≠ .run → exec (.vfFlr vf) s = .next (s.after m))) ∧
    (∀ m n : Mach, m = (List.range 17).foldl Mach.resetFunction s.toMach →
      n = ((List.range 16).foldl (fun x p => x.partitionReset p 1) m).psReset →
      (s.modState = .run → exec .pf0Flr s = .next (s.after { n.setObj O.HDM_ENABLE 0 0 with devCache := [] })) ∧
      (s.modState ≠ .run → s.linkPowered = true → exec .pf0Flr s = .next (s.after m)) ∧
      (s.modState ≠ .run → s.linkPowered = false → exec .pf0Flr s = .next s)) ∧
    ∀ id m, id.ok = true → m = s.bump O.LINK_FAILS 0 1 →
      (∀ c, s.received.find? (fun c => decide (c.id = id)) = some c →
        exec (.hostReadTimeout id) s = .next (s.after (m.refuse c rLINK (s.namedHost c)))) ∧
      (∀ a w, s.received.find? (fun c => decide (c.id = id)) = none → s.act? id = some a → a.copyWork? = some w →
        isHost w.src = true → exec (.hostReadTimeout id) s = .next (s.after (m.failCopy a w))) ∧
      (∀ a o, s.received.find? (fun c => decide (c.id = id)) = none → s.act? id = some a → a.copyWork? = none →
        (∀ w, a.work ≠ .copying w) → a.hostInput = some o →
        exec (.hostReadTimeout id) s = .next (s.after (m.failHost a o)))

/-- R348: a host read of the committed range returns the device's bytes and their poison, waking a bay that holds
them on loan (R408), and a write merges its 64 bytes into their line; while HDM_ENABLE is 0 a read returns zeros
with poison and a write is dropped, each counted. The clauses the spec leaves open follow log entry 70, the model's
own choices. -/
def Obligations.WindowIsReadAndWritten : Prop :=
  ∀ (s : State) (addr base a : Nat) (errs : List ReadErr) (m : Mach), s.hdmCommitted = some base → base ≤ addr →
    addr + 64 ≤ base + s.obj O.HDM_SIZE 0 → addr < 2 ^ 64 → addr % 64 = 0 → s.linkUp = true →
    a = s.obj O.HDM_DEVICE_BASE 0 + (addr - base) → errs.all ReadErr.ok = true →
    m = (s.wakeBays (s.storeBays a 64)).takeReads errs [(a, 64)] →
    (s.obj O.HDM_ENABLE 0 ≠ 0 →
      exec (.hdmRead addr 64 errs) s = .next (s.after { m with returned := (m.rd a 64, m.rdPoison a 64) })) ∧
    (s.obj O.HDM_ENABLE 0 = 0 →
      exec (.hdmRead addr 64 errs) s =
        .next (s.after { s.bump O.HDM_DROPS 0 1 with returned := (zerosB 64, true) })) ∧
    ∀ (d : Bytes) (poison : Bool), d.length = 64 → s.mirrorsOn →
      (s.obj O.HDM_ENABLE 0 ≠ 0 → exec (.hdmWrite addr d poison errs) s = .next (s.after (m.wr a d poison))) ∧
      (s.obj O.HDM_ENABLE 0 = 0 →
        exec (.hdmWrite addr d poison errs) s = .next (s.after (s.bump O.HDM_DROPS 0 1)))

/-- R393, R396 to R402, R410, R415, R416, R472: the input's arrival starts module time at 0 and stage S0; its loss
leaves the module as at reset but for the pins and host memory; a sample is taken at the next multiple of 100 µs
and its readings are filtered, stored and given to the rules; MOD_EN high is followed; a closed eFuse that trips takes
the module to OFF with cause 6; and each 10 µs the governor counts the time it held the level above 0 and finds the
next: bit 2 of ALERT_CAUSE is set where it reaches 16, from when no tile watchdog runs, and work that waited starts
where it leaves 16. The clauses the spec leaves open follow log entries 24, 70, 74, 75, 79 and 81, the model's own
choices. -/
def Obligations.PlinthEventsAct : Prop :=
  ∀ (s : State),
    (s.plinth.inputOn = false → exec .inputApplied s = .next
      { ((({ s.toMach with now := 0 } : Mach).setPlinth { s.plinth with inputOn := true }).beginStage 0).bump O.STARTS 0 1
        with pending := s.pending }) ∧
    (exec .inputRemoved s = .next { Mach.reset with
      freeCount := s.freeCount
      drawCount := s.drawCount
      mem := s.mem.filter fun c => decide (hostBase ≤ c.1)
      hostPoison := s.hostPoison
      plinth := { Plinth.reset with
        modEn := s.plinth.modEn, perst := s.plinth.perst, prsnt := s.plinth.prsnt, strap := s.plinth.strap }
      pending := s.pending }) ∧
    (∀ smp t m x, sampleOk smp = true → s.plinthUp = true → t = nextTick 100000 s.plinth.sampledAt s.now →
      m = ((s.upTo t).setPlinth { s.plinth with sampledAt := t }).samplePins smp →
      x = m.sampleInputs smp →
      ∀ y, y = ((((x.1.deriveInputs smp).storeReadings.addEnergy.gatherWindow).calibrate smp).loadRules).stepRules x.2 →
        exec (.plinthSample smp) s = .next (s.after (y.1.applyRules y.2))) ∧
    (exec .modEnHigh s = .next (s.after ({ s.toMach with plinth := { s.plinth with modEn := true } } : Mach).follow)) ∧
    (s.plinth.eFuse = true → exec .efuseTrip s = .next (s.after (s.toOff 6))) ∧
    (s.plinth.eFuse = false → exec .efuseTrip s = .next s) ∧
    ∀ act energy t (m n x : Mach) r, (Instr.governorInterval act).wf = true → s.plinthUp = true →
      energy = (act.filter fun e => s.modState == .run && (s.bay e.1).power == .run).foldl (fun k e => k + e.2) 0 →
      t = (s.upTo (nextTick 10000 s.plinth.governedAt s.now)).now →
      m = (if s.plinth.level = 0 then { s.toMach with now := t }
        else ({ s.toMach with now := t } : Mach).bump O.THROTTLE_NS 0 (t - s.plinth.governedAt)) →
      n = m.setPlinth { s.plinth with
        governedAt := t, activity := s.plinth.activity + energy, thermalMw := m.stepThermal } →
      r = n.governLevel energy → x = n.setPlinth { n.plinth with level := r.1, overCount := r.2 } →
      (r.1 = 16 → s.plinth.level ≠ 16 → exec (.governorInterval act) s = .next (s.after
        ((x.setPlinth { x.plinth with pausedSince := some t }).alert 2)) ∧
        ((x.setPlinth { x.plinth with pausedSince := some t }).alert 2).obj O.ALERT_CAUSE 0 = x.obj O.ALERT_CAUSE 0 ||| 4) ∧
      (r.1 ≠ 16 → s.plinth.level = 16 → exec (.governorInterval act) s = .next (s.after
        (x.setPlinth { x.plinth with
          pausedNs := s.plinth.pausedNs + s.plinth.pausedSince.elim 0 (t - ·), pausedSince := none }).startUpdates)) ∧
      ((r.1 = 16 ↔ s.plinth.level = 16) → exec (.governorInterval act) s = .next (s.after x))

/-- R395, R413, R414, R419: a droop raises its bay's level to at least 8 and counts, until 1 µs after the last; a
PLL that loses lock clears its bit of PLL_LOCK, the core PLL sets bit 5 of ALERT_CAUSE, counts and asserts
ALERT_N; its return sets the bit again; and a core PLL without lock for 1 ms takes the module to OFF with cause
7. The clauses the spec leaves open follow log entry 69, the model's own choices. -/
def Obligations.DroopsAndClocks : Prop :=
  ∀ (s : State) (b k : Nat), b < 16 → k < 4 →
    (s.modState = .run → (s.bay b).power ≠ .off → (s.bay b).power ≠ .failed →
      exec (.droopDetect b) s = .next (s.after
        ((s.setBay b { s.bay b with droop := 8, droopAt := s.now }).bump O.DROOP_EVENTS b 1)) ∧
      8 ≤ (s.setBay b { s.bay b with droop := 8, droopAt := s.now }).bayLevel b) ∧
    ((s.bay b).droop ≠ 0 →
      exec (.droopRelease b) s = .next (s.after
        ((s.upTo ((s.bay b).droopAt + 1000)).setBay b { s.bay b with droop := 0 }))) ∧
    ((s.obj O.PLL_LOCK 0).testBit k = true → ∀ m,
      m = (s.setObj O.PLL_LOCK 0 (s.obj O.PLL_LOCK 0 - 2 ^ k)).setPlinth
        { s.plinth with pllLost := mset s.plinth.pllLost k s.now } →
      (k ≠ 0 → exec (.pllUnlock k) s = .next (s.after m)) ∧
      (k = 0 → exec (.pllUnlock k) s = .next (s.after ((m.alert 5).bump O.PLL_UNLOCKS 0 1)) ∧
        (s.plinthUp = true → ((m.alert 5).bump O.PLL_UNLOCKS 0 1).alertN = true))) ∧
    (∀ t m, mget s.plinth.pllLost k = some t →
      m = (s.setObj O.PLL_LOCK 0 (s.obj O.PLL_LOCK 0 ||| 2 ^ k)).setPlinth
        { s.plinth with pllLost := mdel s.plinth.pllLost k } →
      exec (.pllRelock k) s = .next (s.after (if k = 0 then m.startUpdates else m)) ∧
      exec (.pllLockTimeout k) s = .next (s.after (if k = 0 then (s.upTo (t + 1000000)).toOff 7 else s.toMach)))

/-- R24, R25, R407, R408, R409: a running sequencer restarts its watchdog and fails its bay when 1 ms passes or a
word of its stores is uncorrectable, with ALERT_CAUSE bit 0; an idle bay sleeps after BAY_SLEEP_AFTER; one that may
go to B-OFF is returned to B-IDLE after BAY_OFF_AFTER, its lent pieces revoked, and then enters B-OFF, losing its
stores, unless a wake has cancelled the entry; wakes from B-OFF begin 10 µs apart, the oldest first; and a bay whose
wake ends takes work again. The clauses the spec leaves open follow log entries 59 and 84, the model's own choices. -/
def Obligations.BaysFailSleepAndWake : Prop :=
  ∀ (s : State) (b : Nat), b < 16 →
    (s.sequencerRuns b = true →
      exec (.bayWatchdogRestart b) s = .next (s.after (s.setBay b { s.bay b with watchdog := s.now })) ∧
      exec (.bayWatchdogExpiry b) s = .next (s.after ((s.upTo ((s.bay b).watchdog + 1000000)).failBay b 1)) ∧
      (∀ o m, o.ok = true → m = s.readSeqWord b o none →
        exec (.bayStoreUncorrectable ⟨b, o⟩) s = .next (s.after (if (seqWordClass o).lost then m.failBay b 2 else m))) ∧
      ((s.failBay b 2).bay b).power = .failed ∧ ((s.failBay b 2).obj O.ALERT_CAUSE 0).testBit 0 = true) ∧
    (s.maySleep b = true →
      exec (.bSleep b) s = .next (s.after ((s.upTo ((s.bay b).since + s.obj O.BAY_SLEEP_AFTER 0)).bayToSleep b))) ∧
    (s.mayOff b = true → ∀ m : Mach, m = s.upTo ((s.bay b).since + s.obj O.BAY_OFF_AFTER 0) →
      (s.bay b).power = .sleep → exec (.bOff b) s = .next (s.after
        ((m.setBay b { s.bay b with power := .idle, since := m.now, leaving := true }).revokeWhere
          fun l => l.tile / 640 == b))) ∧
    (s.mayOff b = true → ∀ m : Mach, m = s.clearStores [b] → (s.bay b).power = .idle → (s.bay b).leaving = true →
      exec (.bOff b) s = .next (s.after
        (m.setBay b { m.bay b with power := .off, since := m.now + 2000, leaving := false }))) ∧
    (s.mayOff b = false → (s.bay b).leaving = true →
      exec (.bOff b) s = .next (s.after (s.setBay b { s.bay b with leaving := false }))) ∧
    (∀ m : Mach, s.modState = .run → s.offWakes.head? = some b →
      m = s.upTo (max (s.bay b).since (s.plinth.lastOffWake.elim 0 (· + 10000))) →
      exec (.bayWakeStart b) s = .next (s.after
        ((m.setPlinth { s.plinth with lastOffWake := some m.now }).setBay b
          { s.bay b with wakeStarted := true, wakeAt := m.now }))) ∧
    (∀ p n, s.modState = .run → (s.bay b).wakeAsked = true → (s.bay b).power = p →
      ((p = .idle ∧ n = 200) ∨ (p = .sleep ∧ n = 4000) ∨ (p = .off ∧ (s.bay b).wakeStarted = true ∧ n = 40000)) →
      ∀ m : Mach, m = (if p = .idle then s.toMach else s.bump O.BAY_WAKES b 1).upTo
        (max (s.bay b).wakeAt (s.bay b).since + n) →
      exec (.bayWakeDone b) s = .next (s.after
        (m.setBay b { s.bay b with power := .run, since := m.now, wakeAsked := false, wakeStarted := false
          }).startUpdates.settle))

/-- R410, R411, R412: the end of the drain time resets each partition whose journals are not all DISABLED; once
every journal is, the module enters STANDBY, its lent pieces revoked, its link down, its PLLs off and only the
plinth's and the memories' rails on; and a wake that works takes a module that is wanted to RUN, one that fails to a
module start. The clauses the spec leaves open follow log entries 56 and 78, the model's own choices. -/
def Obligations.StandbyIsEnteredAndLeft : Prop :=
  ∀ (s : State),
    (∀ t, s.plinth.draining = some t →
      exec .standbyDrainTimeout s = .next (s.after ((List.range 16).foldl
        (fun x p => if x.journalsDisabled p then x else x.partitionReset p 1)
        (s.upTo (t + s.obj O.STANDBY_DRAIN 0))))) ∧
    (s.modState = .run → s.plinth.draining.isSome = true → (∀ j, j < 64 → (s.journal j).state = .disabled) →
      ∃ m : Mach, m = (s.toMach.revokeWhere fun _ => true).loseLink ∧
        exec .standbyEntry s = .next (s.after
          ((({ m with
            modState := .standby
            plinth := { m.plinth with draining := none, pllLost := [], rails := [18, 23] } } :
            Mach).setLink 0 0 0).setObj O.PLL_LOCK 0 0))) ∧
    (s.modState = .standby → s.wanted = true →
      exec (.standbyWakeDone true) s = .next (s.after s.wakeUp) ∧
      exec (.standbyWakeDone false) s = .next (s.after s.moduleStart.beginS1))

/-- R426, R427, R428: S0 latches the strap and ends in OFF or in S1, or leaves the plinth silent; S1 locks the PLLs
with every rail on, or opens the eFuse and halts the start; S2 reads the fuses, without which the start halts; each
writes its report, and each that passes begins the next stage. The clauses the spec leaves open follow log entries
69, 74 and 85, the model's own choices. -/
def Obligations.EarlyStagesEnd : Prop :=
  ∀ (s : State) (e : StageEnd), s.start.halted = false →
    ∀ m : Mach, m = s.upTo (s.start.beganAt + e.ns) →
    (∀ slot x, slot < 16 → s.start.stage = some 0 → x = m.setPlinth { m.plinth with strap := slot } →
      exec (.s0Plinth e slot) s = .next (s.after
        (if e.ok then
          ({ x.stageReport 0 2 (leBytes 4 Config.romVersion.toNat) with
            start := { (x.stageReport 0 2 (leBytes 4 Config.romVersion.toNat)).start with stage := none } } : Mach).follow
         else { x with start := { x.start with halted := true } }))) ∧
    (s.start.stage = some 1 → e.ok = true →
      exec (.s1Rails e) s = .next (s.after
        ((((m.setObj O.PLL_LOCK 0 15).setPlinth { m.plinth with rails := List.range 24 }).stageReport 1 2
          (leBytes 3 0 ++ leBytes 1 0xFF)).beginStage 2))) ∧
    (∀ bad, s.start.stage = some 1 → e.ok = false → bad = figure e 0 % 2 ^ 24 →
      exec (.s1Rails e) s = .next (s.after
        ((m.setPlinth { m.plinth with eFuse := false, rails := [] }).stageReport 1 4
          (leBytes 3 bad ++ leBytes 1 ((bitsOf 24 bad).headD 0xFF))).haltStart)) ∧
    ∀ f g x d, f.ok = true → s.start.stage = some 2 →
      g = (if e.ok then { f with badSlots := f.badSlots.foldl sadd [] } else m.start.fuses) →
      x = (({ m with start := { m.start with fuses := g } } : Mach).probeAddress).setFigures 2
        (fun b => [slotsIn b g.badSlots]) →
      d = x.detail 2 (zerosB 2 ++ countBytes 1 (figure e 0)) →
      (e.ok = true → exec (.s2Fuses e f) s = .next (s.after ((x.stageReport 2 2 d).beginStage 3))) ∧
      (e.ok = false → exec (.s2Fuses e f) s = .next (s.after (x.stageReport 2 4 d).haltStart))

/-- R426 to R434, R437: a stage runs to its end with its report and begins the next, or halts the start. S3 leaves
no store valid and, like S4, records the slots that fail and drops the clusters and bays that do, S4 then mapping
the slots; S5 drops what a link with too many errors reaches; S6 retires the failed channel of a package, fails the
bay of one with more, and leaves every line blank at epoch 0; S7 ends once the link is up in CXL mode, and stays
until then; and S9 leaves the module in RUN with START_RESULT 1, or 2 where a part is lost. S3 to S6 halt the start
where they fail or every bay is FAILED, S4 also for a bay hub and S5 for a bay link. The clauses the spec leaves
open follow log entries 23, 76 and 85, the model's own choices. -/
def Obligations.LaterStagesEnd : Prop :=
  ∀ (s : State) (e : StageEnd), s.start.halted = false →
    ∀ m : Mach, m = s.upTo (s.start.beganAt + e.ns) →
    (∀ bad slots x y, bad.ok = true → s.start.stage = some 3 → slots = bad.slots.foldl sadd [] →
      x = (({ m with start := { m.start with badTest := slots.foldl sadd m.start.badTest } } :
        Mach).invalidate fun _ => true).dropParts bad.clusters bad.bays →
      y = x.setFigures 3 (fun b => [figure e b, slotsIn b (m.newlyBad x slots), x.disabledIn b - m.disabledIn b,
        boolNat (m.newlyFailed x b)]) →
      exec (.s3Sram e bad) s = .next (s.after (y.endStage 3
        (!(m.newlyBad x slots).isEmpty || decide (m.disabledCount < x.disabledCount)) (!e.ok || y.allFailed)
        (y.detail 3 []))) ∧
      y.valid = [] ∧ (∀ k ∈ bad.slots, k ∈ y.start.badTest) ∧ (∀ c ∈ bad.clusters, y.clusterDisabled c = true) ∧
      ∀ b ∈ bad.bays, (y.bay b).power = .failed) ∧
    (∀ bad slots x y, bad.ok = true → s.start.stage = some 4 → slots = bad.slots.foldl sadd [] →
      x = (({ m with start := { m.start with badTest := slots.foldl sadd m.start.badTest } } :
        Mach).dropParts bad.clusters bad.bays).mapSlots →
      y = x.setFigures 4 (fun b => [x.statusIn 2 b, x.statusIn 3 b, x.holesIn b, x.disabledIn b - m.disabledIn b,
        boolNat (m.newlyFailed x b)]) →
      exec (.s4Tiles e bad) s = .next (s.after (y.endStage 4
        (!(m.newlyBad x slots).isEmpty || decide (m.disabledCount < x.disabledCount))
        (!e.ok || !bad.hubs.isEmpty || y.allFailed) (y.detail 4 [])))) ∧
    (∀ errs failed x y, (Instr.s5Armature e errs).wf = true → s.start.stage = some 5 →
      failed = errs.filter (fun x => decide (s.obj O.ARM_ERR_LIMIT 0 < x.2)) →
      x = failed.foldl (fun t x => t.failLink x.1) m →
      y = x.setFigures 5 (fun b => [figure e b, (failed.filter fun x => linkBay x.1 == b).length,
        x.holesIn b - m.holesIn b, ((errs.filter fun x => linkBay x.1 == b).map (·.2)).foldl max 0]) →
      exec (.s5Armature e errs) s = .next (s.after (y.endStage 5
        (decide (m.start.holes.length < x.start.holes.length) || decide (m.disabledCount < x.disabledCount))
        (!e.ok || failed.any (fun x => x.1 == .bayLink) || y.allFailed) (y.detail 5 [])))) ∧
    (∀ errs (failed : Nat → List Nat) (x y z w : Mach), (Instr.s6Memory e errs).wf = true → s.start.stage = some 6 →
      (∀ b, failed b = (((errs.filter fun x => decide (s.obj O.MEM_ERR_LIMIT 0 < x.2)).map (·.1)).foldl sadd
        []).filter fun c => c / 9 == b) →
      x = (List.range 16).foldl (fun t b => t.retireOne b (failed b)) m →
      y = x.dropMapped [] ((List.range 16).filter fun b => m.inService b && decide (2 ≤ (failed b).length)) →
      z = (List.range 16).foldl (fun t b => t.setBay b { t.bay b with epoch := 0 })
        { y with mem := y.mem.filter (fun c => decide (2 ^ 56 ≤ c.1)), lines := [], writeBacks := [] } →
      w = z.setFigures 6 (fun b => [min 1 (failed b).length, boolNat (m.newlyFailed z b),
        ((errs.filter fun x => x.1 / 9 == b).map (·.2)).foldl max 0]) →
      exec (.s6Memory e errs) s = .next (s.after (w.endStage 6
        ((List.range 16).any fun b => m.inService b && !(failed b).isEmpty) (!e.ok || w.allFailed) (w.detail 6 []))) ∧
      w.lines = [] ∧ (∀ c ∈ w.mem, 2 ^ 56 ≤ c.1) ∧ ∀ b, b < 16 → (w.bay b).epoch = 0 ∧
        (∀ c, failed b = [c] → (w.bay b).retired = [c % 9]) ∧
        (m.inService b = true → 2 ≤ (failed b).length → (w.bay b).power = .failed)) ∧
    (s.start.stage = some 7 → s.obj O.LINK_STATE 0 = 1 →
      exec (.s7Host e) s = .next (s.after ((m.stageReport 7 2 (leBytes 1 (s.obj O.LINK_WIDTH 0) ++
        leBytes 1 (s.obj O.LINK_SPEED 0) ++ countBytes 4 (figure e 0))).beginStage 8))) ∧
    (s.obj O.LINK_STATE 0 ≠ 1 → exec (.s7Host e) s = .next s) ∧
    ∀ loss result (x y : Mach), s.start.stage = some 9 →
      loss = (!m.start.holes.isEmpty || decide (0 < m.disabledCount) || (List.range 16).any fun b =>
        m.outOfService b || !(m.bay b).retired.isEmpty) →
      result = (if loss then 2 else 1) →
      x = (m.setObj O.START_RESULT 0 result).setFigures 9
        (fun b => if b = 16 then [] else [640 - m.holesIn b, boolNat (m.inService b)]) →
      y = x.stageReport 9 2 (x.detail 9 (zerosB 4 ++ leBytes 1 result)) →
      ∃ t, exec (.s9Ready e) s = .next t ∧ t.modState = .run ∧ t.start.stage = none ∧
        t = s.after (((List.range 16).filter m.inService).foldl
          (fun u b => u.setBay b { u.bay b with power := .run, since := u.now, watchdog := u.now })
          ({ y with modState := .run, start := { y.start with stage := none } } : Mach)).settle.follow

/-- R438, R375: a running tile restarts its watchdog, and is fenced where TILE_WATCHDOG passes while it holds an
item, the time its bay stood at level 16 or waited for a wake left out; a word of its sequencer's stores that is
uncorrectable fences it and one that is corrected does not; and a TRNG that fails stays failed and is counted. A
fenced tile is a hole with no lent piece and no running engine. The clauses the spec leaves open follow log entries
33, 58 and 60, the model's own choices. -/
def Obligations.TilesAreFenced : Prop :=
  ∀ (s : State) (t : Nat), t < 10240 →
    (s.tileRuns t = true →
      exec (.tileWatchdogRestart t) s = .next (s.after
        { s.toMach with tileWatchdogs := mset s.tileWatchdogs t (s.now - s.paused) }) ∧
      ∀ o m, o.ok = true → m = s.readSeqWord (t / 640) o none →
        exec (.tileSequencerStoreFault ⟨t, o⟩) s = .next (s.after (if (seqWordClass o).lost then m.fence t 1 else m))) ∧
    (s.tileRuns t = true → s.holdsItem t = true → s.bayLevel (t / 640) < 16 → (s.bay (t / 640)).power = .run →
      exec (.tileWatchdogExpiry t) s = .next (s.after
        ((s.upTo (mgetD s.tileWatchdogs t 0 + s.obj O.TILE_WATCHDOG 0 + s.paused)).fence t 2))) ∧
    (s.plinth.inputOn = true →
      exec .trngFail s = .next (s.after ({ s.toMach with trngFailed := true }.bump O.TRNG_FAILS 0 1))) ∧
    ∀ (m : Mach) cause, m.isHole t = false → (m.fence t cause).isHole t = true ∧
      (∀ l ∈ (m.fence t cause).lent, l.tile ≠ t) ∧
      ∀ r ∈ (m.fence t cause).running, engineKind r.engine ≤ 3 → engineTile r.engine ≠ t

/-- R449, R454, R457, R459 to R462: in RUN, the first queue of a bay that holds anything writes its next record,
after a GAP for what it dropped; the next bay in turn sends a frame; and ALIGN blocks go out, one on each lane; a
triggered capture ends TR_POST_NS after its trigger; and training ends after 100 µs. The clauses the spec leaves
open follow log entries 12, 13, 14 and 58, the model's own choices. -/
def Obligations.TraceRuns : Prop :=
  ∀ (s : State),
    (∀ b q m, b < 16 → s.inRun = true →
      (bayQueues b).find? (fun q => !(s.capQueue q).recs.isEmpty || (s.capQueue q).gap.isSome) = some q →
      m = (s.capQueue q).gap.elim s.toMach (fun g => s.bufPut b (gapRecord b g)) →
      (∀ r rest, (s.capQueue q).recs = r :: rest →
        exec (.traceQueueDrain b) s = .next (s.after ((m.setCapQueue q ⟨rest, none⟩).bufPut b r))) ∧
      ((s.capQueue q).recs = [] →
        exec (.traceQueueDrain b) s = .next (s.after (m.setCapQueue q ⟨[], none⟩)))) ∧
    (s.inRun = true → (if s.obj O.TR_MODE 0 = 2 then s.trace.state = .sending
        else s.trace.state = .capturing ∨ s.trace.state = .stopped) →
      (∀ b, ((List.range 16).map fun i => (s.trace.nextBay + i) % 16).find? (fun b => !(s.toSend b).isEmpty) = some b →
        exec .traceFrameSend s = .next (s.after (s.sendTraceFrame b).tryStop)) ∧
      (((List.range 16).map fun i => (s.trace.nextBay + i) % 16).find? (fun b => !(s.toSend b).isEmpty) = none →
        exec .traceFrameSend s = .next (s.after s.tryStop))) ∧
    (s.inRun = true → s.trace.state ≠ .off → ∀ g, g = s.trace.alignGroups →
      exec .traceAlign s = .next (s.after { s.toMach with
        trace := ({ s.trace with lastFrame := [], alignGroups := (g + 1) % 2 ^ 32 } : Trace).send
          ((List.range 4).map fun i => (2, leBytes 1 0x4B ++ leBytes 1 i ++ leBytes 4 g ++ zerosB 2)) })) ∧
    (s.trace.state = .triggered → ∀ m : Mach, m = s.upTo (s.trace.trigAt + s.obj O.TR_POST_NS 0) →
      exec .traceCaptureEnd s = .next (s.after
        ({ m with trace := { s.trace with state := .sending } } : Mach).tryStop)) ∧
    (s.trace.state = .training → ∀ m : Mach, m = s.upTo (s.trace.trainedAt + 100000) →
      exec .traceTrainingEnd s = .next (s.after { m with trace := { s.trace with state := .capturing } }))

/-! ### Rules over operations -/

/-- R91: the ranges dealt to the clusters of a span share its items out: each item lies in the range of exactly one
cluster, the ranges are those of the floors, a cluster whose range is empty is dealt nothing; and an item a command
runs comes from a counter of the engine's own cluster. -/
def Obligations.ItemsAreDealtStatically : Prop :=
  (∀ (c : Cmd) (items i : Nat), 1 ≤ c.spanCount → i < items →
    ∃ j, j < c.spanCount ∧ j * items / c.spanCount ≤ i ∧ i < (j + 1) * items / c.spanCount ∧
      ∀ k, k < c.spanCount → k * items / c.spanCount ≤ i → i < (k + 1) * items / c.spanCount → k = j) ∧
  (∀ (c : Cmd) (items cluster a b : Nat), (cluster, a, b) ∈ dealAll c items ↔
    ∃ j, j < c.spanCount ∧ cluster = c.spanFirst + j ∧ a = j * items / c.spanCount ∧
      b = (j + 1) * items / c.spanCount ∧ a < b) ∧
  ∀ (s t : State) (e : Nat), exec (.workCounterRequest e) s = .next t → ∀ r ∈ t.running, r ∉ s.running →
    r.engine = e ∧ ∃ k ∈ s.counters, k.cmd = r.cmd ∧ k.cluster = engineCluster e ∧ k.next = r.item ∧ r.item < k.stop

/-- R37, R38: in F8, H8, BF16, FP16 and FP32 a subnormal code reads as a zero of its sign, raising no flag, and none
is written: a code written with a zero exponent is a zero. Every NaN written is the canonical positive one, and a
NaN read keeps neither sign nor payload. -/
def Obligations.SubnormalsAndNans : Prop :=
  (∀ f ∈ [FloatFmt.f8, .h8, .bf16, .fp16, .fp32],
    (∀ c, c / 2 ^ f.mbits % 2 ^ f.ebits = 0 → decodeFloat f c = .fin (decide (c / f.signBit % 2 = 1)) 0 1) ∧
    (∀ m x g, (convertFloat f m x g).1 / 2 ^ f.mbits % 2 ^ f.ebits = 0 →
      (convertFloat f m x g).1 % 2 ^ f.mbits = 0) ∧
    (∀ m g, (convertFloat f m .nan g).1 = f.nan) ∧
    ∀ c, (decodeFloat f c).isNan = true → decodeFloat f c = .nan) ∧
  FloatFmt.f8.nan = 0x7F ∧ FloatFmt.h8.nan = 0x7E ∧ FloatFmt.bf16.nan = 0x7FC0 ∧ FloatFmt.fp16.nan = 0x7E00 ∧
    FloatFmt.fp32.nan = 0x7FC00000

/-- R51, R52, R54, R55: an engine that raises flags keeps those it had; its saturation counter stops at the largest
32-bit value; its first-fault record is latched by an INV that finds it not valid and left alone by any other; a
write of NUM_SUMMARY whose slot begins at a time clears a flag exactly where its bit for the engine's bay is one,
the path sees the engine and the engine has not set it since; and no other engine changes. -/
def Obligations.FlagsStick : Prop :=
  (∀ (m : Mach) (e : Nat) (c : Cmd) (f : Flg) (row col problem k : Nat),
    (((m.raise e c f row col problem).engine e).flags.testBit k =
      ((m.engine e).flags.testBit k || f.bits.testBit k)) ∧
    ((m.raise e c f row col problem).engine e).sats = min ((m.engine e).sats + f.sats) (2 ^ 32 - 1) ∧
    (f.inv = false ∨ (m.engine e).firstFault % 2 = 1 →
      ((m.raise e c f row col problem).engine e).firstFault = (m.engine e).firstFault) ∧
    (f.inv = true → (m.engine e).firstFault % 2 = 0 →
      ((m.raise e c f row col problem).engine e).firstFault = faultRecord m.now e c f.cause row col problem) ∧
    (∀ j, j < 4 → f.bits.testBit j = true → (m.raise e c f row col problem).setSince (engineFlag e j) m.now = true) ∧
    ∀ d, d ≠ e → (m.raise e c f row col problem).engine d = m.engine d) ∧
  ∀ (m : Mach) (p : Path) (v slot e k : Nat), k < 4 → (mget m.engines e).isSome = true → m.seesEngine p e = true →
    ((m.clearFlags p v slot).engine e).flags.testBit k =
      ((m.engine e).flags.testBit k && !(v.testBit (4 * engineBay e + k) && !m.setSince (engineFlag e k) slot))

/-- R321: of writes to one object in one slot, writes of 0 to a trigger take no part; equal writes, and all writes
to a W1C object, take effect together; else one write wins, of the least rank, and the others lose. Every write is
in exactly one of the three lists. -/
def Obligations.OneWriteWins : Prop :=
  ∀ (w : SlotWrite) (ws : List SlotWrite) (row : ObjRow) (x : List SlotWrite × List SlotWrite × List SlotWrite),
    rowAt w.index w.sub = some row → (∀ u ∈ ws, u.key = w.key) → x = arbitrate (w :: ws) →
    (∀ u ∈ x.2.1, row.access = .wo ∧ row.type = .bool ∧ u.value = 0) ∧
    (∀ u ∈ w :: ws, (u ∈ x.1 ∧ u ∉ x.2.1 ∧ u ∉ x.2.2) ∨ (u ∉ x.1 ∧ u ∈ x.2.1 ∧ u ∉ x.2.2) ∨
      (u ∉ x.1 ∧ u ∉ x.2.1 ∧ u ∈ x.2.2)) ∧
    (∀ u ∈ x.1, ∀ v ∈ x.1, row.access = .w1c ∨ u.value = v.value) ∧
    (x.2.2 ≠ [] → ∃ best, x.1 = [best] ∧ ∀ u ∈ x.2.2,
      writeRank best.path (safety w.index w.sub row) ≤ writeRank u.path (safety w.index w.sub row)) ∧
    ∀ p : Path, p.ok = true → ∀ n, writeRank .pf0 true < writeRank (.vf (n + 1)) true ∧
      writeRank (.vf n) true < writeRank (.vf (n + 1)) true ∧
      (p.isMgmt = true → writeRank p true < writeRank .pf0 true ∧
        (n ≤ 16 → writeRank (.vf n) false < writeRank p false ∧ writeRank .pf0 false < writeRank p false))

/-- R328, R329: an answer has its fields at their offsets, whatever they hold; a WRITE that reached check 8 carries
the start of its slot and the value the object then holds, a READ the value, a DESCRIBE the record, a request
refused at checks 1 to 3 nothing; and the DESCRIBE record names type, access, owner, flags and size before the
default. -/
def Obligations.AnswersAreLaidOut : Prop :=
  (∀ (op index sub reason slot ci cs : Nat) (v : Bytes), op < 256 → index < 65536 → sub < 256 → reason < 256 →
    slot < 2 ^ 64 → ci < 65536 → cs < 256 → v.length < 65536 →
    let b := answerBytes op index sub reason slot ci cs v
    b.length = 24 + v.length ∧ fld b 0 1 = op ∧ fld b 1 1 = sub ∧ fld b 2 2 = index ∧ fld b 4 1 = reason ∧ fld b 5 1 = 0 ∧
      fld b 6 2 = v.length ∧ fld b 8 8 = slot ∧ fld b 16 2 = ci ∧ fld b 18 1 = cs ∧ fld b 19 5 = 0 ∧
      bytesAt b 24 v.length = v) ∧
  (∀ (m : Mach) (w : SlotWrite) (v : Verdict), m.writeAnswer w v =
    answerBytes 2 w.index w.sub v.reason (w.at_ / 10 * 10) (v.check / 256) (v.check % 256)
      (m.readBytes w.path w.index w.sub)) ∧
  (∀ (m : Mach) (r : SlotRead), m.readAnswer r = answerBytes r.op r.index r.sub r.reason 0 0 0
    (if r.op = 3 then m.describeBytes r.index r.sub else m.readBytes r.path r.index r.sub)) ∧
  (∀ (m : Mach) (p : Path) (b : Bytes) (reason : Nat), m.refuseRequest p b reason =
    m.deliver p reason (answerBytes (fld b 0 1) (fld b 2 2) (fld b 1 1) reason 0 0 0 [])) ∧
  ([OType.bool, .u8, .u16, .u32, .u64, .f32, .str, .blob].map OType.code = [1, 2, 3, 4, 5, 7, 8, 9] ∧
    [Access.ro, .rw, .wo, .w1c, .rwl].map Access.code = [1, 2, 3, 4, 5] ∧
    [Owner.host, .mgmt, .either].map Owner.code = [1, 2, 3]) ∧
  ∀ (m : Mach) (index sub : Nat) (r : ObjRow), rowAt index sub = some r → r.size < 65536 →
    let b := m.describeBytes index sub
    b.length = 8 + r.size ∧
      fld b 0 1 = r.type.code ∧ fld b 1 1 = r.access.code ∧ fld b 2 1 = r.owner.code ∧
      (fld b 3 1).testBit 0 = safety index sub r ∧ (fld b 3 1).testBit 1 = r.pf0 ∧ fld b 3 1 < 4 ∧ fld b 4 2 = r.size ∧
      fld b 6 2 = 0 ∧ bytesAt b 8 r.size = leBytes r.size (m.defaultOf index sub r)

/-- R452: a record is captured, or counted as dropped, only for an engine of a bay whose partition consents or that
has none; a partition is created with TR_CONSENT 0 where it is confidential and 1 where it is not; and only a
confidential partition's own function may write its TR_CONSENT. -/
def Obligations.ConsentGovernsTrace : Prop :=
  (∀ (m : Mach) (e kind : Nat) (c : Cmd) (above : Bool) (t units : Nat) (d : Counts) (first : Nat),
    m.capture e kind c above t units d first ≠ m →
    m.bayPart (engineBay e) = none ∨ ∃ p, m.bayPart (engineBay e) = some p ∧ m.obj O.TR_CONSENT p = 1) ∧
  (∀ (m : Mach) (w : Owed) (p : Nat), p = m.obj O.PT_SELECT 0 → p < 16 →
    (m.createPart w).obj O.TR_CONSENT p = if m.obj O.PT_CONFIDENTIAL 0 = 1 then 0 else 1) ∧
  ∀ (m : Mach) (path : Path) (p : Nat) (v : Bytes), p < 16 → path.ok = true → (m.part p).confidential = true →
    m.writeCheck path (oKey O.TR_CONSENT p / 256) (oKey O.TR_CONSENT p % 256) v = 0 → path = .vf (p + 1)

/-- What the rows that store nothing leave alone: every byte of every memory with its marks, the placed objects, the
partitions, the journals, the rings, and the vectors; and those of the field network all but the interface's own
state, the objects, the plinth's record of frames and the time. -/
def Obligations.FramesOfRowsThatStoreNothing : Prop :=
  (∀ (c : Instr) (s t : State), c.storesNothing = true → exec c s = .next t →
    t.mem = s.mem ∧ t.lines = s.lines ∧ t.writeBacks = s.writeBacks ∧ t.valid = s.valid ∧ t.poison = s.poison ∧
      t.hostPoison = s.hostPoison ∧ t.dirty = s.dirty ∧ t.placed = s.placed ∧ t.parts = s.parts ∧
      t.journals = s.journals ∧ t.rings = s.rings ∧ t.ready = s.ready ∧ t.msix = s.msix) ∧
  ∀ (c : Instr) (s t : State), c.onField = true → exec c s = .next t →
    t = { s with
      now := t.now, dict := t.dict, plinth := { s.plinth with rxInSecond := t.plinth.rxInSecond }, umpor := t.umpor
      outbox := t.outbox, cache := t.cache, notices := t.notices, lastSent := t.lastSent
      addressTaken := t.addressTaken, neighbours := t.neighbours, soliciting := t.soliciting }
end

