-- ==== Sys2Proof/Laws/State.lean ====
section
/-! SUPPORT. What the state's own updates leave alone, and how a meaning of the module becomes the meaning of a
command. -/

namespace Sys2Proof.Machine

open Sys2Proof

/-! ### The next state -/

@[simp] theorem State.after_pending (s : State) (m : Mach) : (s.after m).pending = s.pending := rfl
@[simp] theorem State.after_now (s : State) (m : Mach) : (s.after m).now = max s.now m.now := rfl
@[simp] theorem State.after_mem (s : State) (m : Mach) : (s.after m).mem = m.mem := rfl
@[simp] theorem State.after_dict (s : State) (m : Mach) : (s.after m).dict = m.dict := rfl
@[simp] theorem State.after_lines (s : State) (m : Mach) : (s.after m).lines = m.lines := rfl
@[simp] theorem State.after_engines (s : State) (m : Mach) : (s.after m).engines = m.engines := rfl
@[simp] theorem State.after_received (s : State) (m : Mach) : (s.after m).received = m.received := rfl
@[simp] theorem State.after_acts (s : State) (m : Mach) : (s.after m).acts = m.acts := rfl
@[simp] theorem State.after_ready (s : State) (m : Mach) : (s.after m).ready = m.ready := rfl
@[simp] theorem State.after_journals (s : State) (m : Mach) : (s.after m).journals = m.journals := rfl
@[simp] theorem State.after_bays (s : State) (m : Mach) : (s.after m).bays = m.bays := rfl
@[simp] theorem State.after_parts (s : State) (m : Mach) : (s.after m).parts = m.parts := rfl
@[simp] theorem State.after_pair (s : State) (m : Mach) : (s.after m).pair = m.pair := rfl
@[simp] theorem State.after_modState (s : State) (m : Mach) : (s.after m).modState = m.modState := rfl

/-- A meaning that answers a next module answers the next state. -/
theorem State.lift_next {r : Mach → Res} {s : State} {m : Mach} (h : r s.toMach = .next m) :
    State.lift r s = .next (s.after m) := by
  simp [State.lift, State.after, h]

/-- A lifted meaning answers a next state only as `after` says. -/
theorem State.lift_cases {r : Mach → Res} {s t : State} (h : State.lift r s = .next t) :
    ∃ m, r s.toMach = .next m ∧ t = s.after m := by
  unfold State.lift at h
  split at h
  · exact ⟨_, ‹_›, by simpa [State.after] using h.symm⟩
  · cases h
  · cases h

/-- A well-formed command answers what its meaning does. -/
theorem guarded_next {i : Instr} {r : Mach → Res} {s : State} {m : Mach} (hw : i.wf = true)
    (h : r s.toMach = .next m) : guarded i r s = .next (s.after m) := by
  simp [guarded, hw, State.lift_next h]

/-- A guarded meaning answers a next state only for a well-formed command. -/
theorem guarded_cases {i : Instr} {r : Mach → Res} {s t : State} (h : guarded i r s = .next t) :
    i.wf = true ∧ ∃ m, r s.toMach = .next m ∧ t = s.after m := by
  unfold guarded at h
  split at h
  · exact ⟨‹_›, State.lift_cases h⟩
  · cases h

/-- The same for the two commands that begin module time anew. -/
theorem guardedRaw_cases {i : Instr} {r : Mach → Res} {s t : State} (h : guardedRaw i r s = .next t) :
    i.wf = true ∧ ∃ m, r s.toMach = .next m ∧ t = { m with pending := s.pending } := by
  unfold guardedRaw State.liftRaw at h
  split at h
  · refine ⟨‹_›, ?_⟩
    split at h
    · exact ⟨_, ‹_›, by simpa using h.symm⟩
    · cases h
    · cases h
  · cases h

/-! ### Updates of the module, one lemma for each part they name -/

@[simp] theorem Mach.setBay_mem (m : Mach) (b : Nat) (v : Bay) : (m.setBay b v).mem = m.mem := rfl
@[simp] theorem Mach.setBay_dict (m : Mach) (b : Nat) (v : Bay) : (m.setBay b v).dict = m.dict := rfl
@[simp] theorem Mach.setBay_bays (m : Mach) (b : Nat) (v : Bay) : (m.setBay b v).bays = mset m.bays b v := rfl
@[simp] theorem Mach.setPart_mem (m : Mach) (p : Nat) (v : Partition) : (m.setPart p v).mem = m.mem := rfl
@[simp] theorem Mach.setPart_dict (m : Mach) (p : Nat) (v : Partition) : (m.setPart p v).dict = m.dict := rfl
@[simp] theorem Mach.setPart_parts (m : Mach) (p : Nat) (v : Partition) : (m.setPart p v).parts = mset m.parts p v := rfl
@[simp] theorem Mach.setJournal_mem (m : Mach) (j : Nat) (v : Journal) : (m.setJournal j v).mem = m.mem := rfl
@[simp] theorem Mach.setJournal_dict (m : Mach) (j : Nat) (v : Journal) : (m.setJournal j v).dict = m.dict := rfl
@[simp] theorem Mach.setJournal_journals (m : Mach) (j : Nat) (v : Journal) :
    (m.setJournal j v).journals = mset m.journals j v := rfl
@[simp] theorem Mach.setRing_mem (m : Mach) (r : Nat) (v : Ring) : (m.setRing r v).mem = m.mem := rfl
@[simp] theorem Mach.setRing_dict (m : Mach) (r : Nat) (v : Ring) : (m.setRing r v).dict = m.dict := rfl
@[simp] theorem Mach.setEngine_mem (m : Mach) (e : Nat) (v : Engine) : (m.setEngine e v).mem = m.mem := rfl
@[simp] theorem Mach.setEngine_dict (m : Mach) (e : Nat) (v : Engine) : (m.setEngine e v).dict = m.dict := rfl
@[simp] theorem Mach.setEngine_engines (m : Mach) (e : Nat) (v : Engine) :
    (m.setEngine e v).engines = mset m.engines e v := rfl
@[simp] theorem Mach.setMailbox_mem (m : Mach) (f : Nat) (v : Mailbox) : (m.setMailbox f v).mem = m.mem := rfl
@[simp] theorem Mach.setMailbox_dict (m : Mach) (f : Nat) (v : Mailbox) : (m.setMailbox f v).dict = m.dict := rfl
@[simp] theorem Mach.setMailbox_mailboxes (m : Mach) (f : Nat) (v : Mailbox) :
    (m.setMailbox f v).mailboxes = mset m.mailboxes f v := rfl
@[simp] theorem Mach.setAct_mem (m : Mach) (a : Act) : (m.setAct a).mem = m.mem := rfl
@[simp] theorem Mach.setAct_dict (m : Mach) (a : Act) : (m.setAct a).dict = m.dict := rfl
@[simp] theorem Mach.setAct_received (m : Mach) (a : Act) : (m.setAct a).received = m.received := rfl
@[simp] theorem Mach.setObjAt_mem (m : Mach) (i s v : Nat) : (m.setObjAt i s v).mem = m.mem := (rfl)
@[simp] theorem Mach.setObj_mem (m : Mach) (o i v : Nat) : (m.setObj o i v).mem = m.mem := (rfl)
@[simp] theorem Mach.setObj_engines (m : Mach) (o i v : Nat) : (m.setObj o i v).engines = m.engines := (rfl)
@[simp] theorem Mach.setObj_acts (m : Mach) (o i v : Nat) : (m.setObj o i v).acts = m.acts := (rfl)
@[simp] theorem Mach.bump_mem (m : Mach) (o i n : Nat) : (m.bump o i n).mem = m.mem := (rfl)
@[simp] theorem Mach.bump_engines (m : Mach) (o i n : Nat) : (m.bump o i n).engines = m.engines := (rfl)
@[simp] theorem Mach.launch_mem (m : Mach) (a : Act) : (m.launch a).mem = m.mem := rfl
@[simp] theorem Mach.launch_dict (m : Mach) (a : Act) : (m.launch a).dict = m.dict := rfl
@[simp] theorem Mach.launch_acts (m : Mach) (a : Act) : (m.launch a).acts = m.acts ++ [a] := rfl
@[simp] theorem Mach.free_mem (m : Mach) : m.free.2.mem = m.mem := rfl
@[simp] theorem Mach.drawNo_mem (m : Mach) : m.drawNo.2.mem = m.mem := rfl

/-! Module time moved on, and the flags' times: nothing else changes. -/

@[simp] theorem Mach.upTo_mem (m : Mach) (t : Nat) : (m.upTo t).mem = m.mem := (rfl)
@[simp] theorem Mach.upTo_dict (m : Mach) (t : Nat) : (m.upTo t).dict = m.dict := (rfl)
@[simp] theorem Mach.upTo_engines (m : Mach) (t : Nat) : (m.upTo t).engines = m.engines := (rfl)
@[simp] theorem Mach.upTo_received (m : Mach) (t : Nat) : (m.upTo t).received = m.received := (rfl)
@[simp] theorem Mach.upTo_acts (m : Mach) (t : Nat) : (m.upTo t).acts = m.acts := (rfl)
@[simp] theorem Mach.upTo_ready (m : Mach) (t : Nat) : (m.upTo t).ready = m.ready := (rfl)
@[simp] theorem Mach.upTo_journals (m : Mach) (t : Nat) : (m.upTo t).journals = m.journals := (rfl)
@[simp] theorem Mach.upTo_bays (m : Mach) (t : Nat) : (m.upTo t).bays = m.bays := (rfl)
@[simp] theorem Mach.upTo_parts (m : Mach) (t : Nat) : (m.upTo t).parts = m.parts := (rfl)
@[simp] theorem Mach.upTo_pair (m : Mach) (t : Nat) : (m.upTo t).pair = m.pair := (rfl)
@[simp] theorem Mach.upTo_plinth (m : Mach) (t : Nat) : (m.upTo t).plinth = m.plinth := (rfl)
@[simp] theorem Mach.upTo_start (m : Mach) (t : Nat) : (m.upTo t).start = m.start := (rfl)
@[simp] theorem Mach.upTo_modState (m : Mach) (t : Nat) : (m.upTo t).modState = m.modState := (rfl)
@[simp] theorem Mach.upTo_mailboxes (m : Mach) (t : Nat) : (m.upTo t).mailboxes = m.mailboxes := (rfl)
@[simp] theorem Mach.noteFlag_mem (m : Mach) (k : Nat) : (m.noteFlag k).mem = m.mem := (rfl)
@[simp] theorem Mach.noteFlag_dict (m : Mach) (k : Nat) : (m.noteFlag k).dict = m.dict := (rfl)
@[simp] theorem Mach.noteFlag_engines (m : Mach) (k : Nat) : (m.noteFlag k).engines = m.engines := (rfl)
@[simp] theorem Mach.noteFlag_received (m : Mach) (k : Nat) : (m.noteFlag k).received = m.received := (rfl)
@[simp] theorem Mach.noteFlag_acts (m : Mach) (k : Nat) : (m.noteFlag k).acts = m.acts := (rfl)
@[simp] theorem Mach.noteFlag_ready (m : Mach) (k : Nat) : (m.noteFlag k).ready = m.ready := (rfl)
@[simp] theorem Mach.noteFlag_journals (m : Mach) (k : Nat) : (m.noteFlag k).journals = m.journals := (rfl)
@[simp] theorem Mach.noteFlag_bays (m : Mach) (k : Nat) : (m.noteFlag k).bays = m.bays := (rfl)
@[simp] theorem Mach.noteFlag_parts (m : Mach) (k : Nat) : (m.noteFlag k).parts = m.parts := (rfl)
@[simp] theorem Mach.noteFlag_pair (m : Mach) (k : Nat) : (m.noteFlag k).pair = m.pair := (rfl)
@[simp] theorem Mach.noteFlag_plinth (m : Mach) (k : Nat) : (m.noteFlag k).plinth = m.plinth := (rfl)
@[simp] theorem Mach.noteFlag_start (m : Mach) (k : Nat) : (m.noteFlag k).start = m.start := (rfl)
@[simp] theorem Mach.noteFlag_modState (m : Mach) (k : Nat) : (m.noteFlag k).modState = m.modState := (rfl)
@[simp] theorem Mach.noteFlag_mailboxes (m : Mach) (k : Nat) : (m.noteFlag k).mailboxes = m.mailboxes := (rfl)
@[simp] theorem Mach.noteFlag_now (m : Mach) (k : Nat) : (m.noteFlag k).now = m.now := (rfl)
@[simp] theorem Mach.noteFlag_flagAt (m : Mach) (k : Nat) : (m.noteFlag k).flagAt = mset m.flagAt k m.now := (rfl)
@[simp] theorem Mach.setPair_pair (m : Mach) (p : Pair) : (m.setPair p).pair = p := (rfl)
@[simp] theorem Mach.setPair_mem (m : Mach) (p : Pair) : (m.setPair p).mem = m.mem := (rfl)
@[simp] theorem Mach.setPair_dict (m : Mach) (p : Pair) : (m.setPair p).dict = m.dict := (rfl)
@[simp] theorem Mach.setPlinth_plinth (m : Mach) (p : Plinth) : (m.setPlinth p).plinth = p := (rfl)
@[simp] theorem Mach.setPlinth_mem (m : Mach) (p : Plinth) : (m.setPlinth p).mem = m.mem := (rfl)
@[simp] theorem Mach.setPlinth_dict (m : Mach) (p : Plinth) : (m.setPlinth p).dict = m.dict := (rfl)
@[simp] theorem Mach.setWindow_mem (m : Mach) (o : Nat) (b : Bytes) : (m.setWindow o b).mem = m.mem := (rfl)
@[simp] theorem Mach.setWindow_dict (m : Mach) (o : Nat) (b : Bytes) : (m.setWindow o b).dict = m.dict := (rfl)
@[simp] theorem Mach.setWindow_pair (m : Mach) (o : Nat) (b : Bytes) : (m.setWindow o b).pair = m.pair := (rfl)
@[simp] theorem Mach.cacheLine_mem (m : Mach) (k : Nat) (b : Bytes) : (m.cacheLine k b).mem = m.mem := (rfl)
@[simp] theorem Mach.cacheLine_dict (m : Mach) (k : Nat) (b : Bytes) : (m.cacheLine k b).dict = m.dict := (rfl)
@[simp] theorem Mach.dropLine_mem (m : Mach) (k : Nat) : (m.dropLine k).mem = m.mem := (rfl)
@[simp] theorem Mach.dropLine_dict (m : Mach) (k : Nat) : (m.dropLine k).dict = m.dict := (rfl)
@[simp] theorem Mach.holdWrite_mem (m : Mach) : m.holdWrite.mem = m.mem := (rfl)
@[simp] theorem Mach.holdWrite_dict (m : Mach) : m.holdWrite.dict = m.dict := (rfl)
@[simp] theorem Mach.learn_mem (m : Mach) (a : Nat) : (m.learn a).mem = m.mem := (rfl)
@[simp] theorem Mach.learn_dict (m : Mach) (a : Nat) : (m.learn a).dict = m.dict := (rfl)
@[simp] theorem Mach.setFigures_mem (m : Mach) (k : Nat) (f : Nat → List Nat) : (m.setFigures k f).mem = m.mem := by
  simp [Mach.setFigures]
@[simp] theorem Mach.setFigures_dict (m : Mach) (k : Nat) (f : Nat → List Nat) : (m.setFigures k f).dict = m.dict := by
  simp [Mach.setFigures]

/-! ### Sparse maps -/

@[simp] theorem mget_mset_self {α : Type} (m : SMap α) (k : Nat) (v : α) : mget (mset m k v) k = some v := by
  induction m with
  | nil => simp [mset, mget]
  | cons e r ih =>
    obtain ⟨j, w⟩ := e
    unfold mset
    split
    · subst_vars; simp [mget]
    · split
      · simp [mget]
      · simp only [mget, *, ite_false]

theorem mget_mset_other {α : Type} (m : SMap α) {k x : Nat} (v : α) (h : x ≠ k) : mget (mset m k v) x = mget m x := by
  induction m with
  | nil => simp only [mset, mget, h, ite_false]; split <;> rfl
  | cons e r ih =>
    obtain ⟨j, w⟩ := e
    unfold mset
    split
    · subst_vars; simp only [mget, h, ite_false]
    · split
      · simp only [mget, h, ite_false]
        by_cases hk : x < k
        · have h1 : x ≠ j := by omega
          have h2 : x < j := by omega
          simp only [hk, h1, h2, ite_true, ite_false]
        · simp only [hk, ite_false]
      · simp only [mget, ih]

@[simp] theorem mgetD_mset_self {α : Type} (m : SMap α) (k : Nat) (v d : α) : mgetD (mset m k v) k d = v := by
  simp [mgetD]

theorem mgetD_mset_other {α : Type} (m : SMap α) {k x : Nat} (v d : α) (h : x ≠ k) :
    mgetD (mset m k v) x d = mgetD m x d := by
  simp only [mgetD, mget_mset_other m v h]

@[simp] theorem Mach.bay_setBay (m : Mach) (b : Nat) (v : Bay) : (m.setBay b v).bay b = v := by
  simp [Mach.bay]

theorem Mach.bay_setBay_other (m : Mach) {b c : Nat} (v : Bay) (h : c ≠ b) : (m.setBay b v).bay c = m.bay c := by
  simp only [Mach.bay, Mach.setBay_bays, mgetD_mset_other _ _ _ h]

@[simp] theorem Mach.journal_setJournal (m : Mach) (j : Nat) (v : Journal) : (m.setJournal j v).journal j = v := by
  simp [Mach.journal]

@[simp] theorem Mach.part_setPart (m : Mach) (p : Nat) (v : Partition) : (m.setPart p v).part p = v := by
  simp [Mach.part]

end Sys2Proof.Machine
end

