-- ==== Sys2Proof/Laws/Exec.lean ====
section
/-! SUPPORT. What every command's meaning has in common, and how the command of a descriptor comes to its own
meaning. -/

namespace Sys2Proof.Machine

open Sys2Proof

/-- Every command is a meaning of the module, run for a well-formed command; the two that may begin module time
anew are run without holding time back. -/
theorem exec_shape (c : Instr) (s : State) :
    (∃ r, exec c s = guarded c r s) ∨ (c.restartsTime = true ∧ ∃ r, exec c s = guardedRaw c r s) := by
  cases c
  case inputApplied => exact .inr ⟨rfl, _, rfl⟩
  case inputRemoved => exact .inr ⟨rfl, Sys2Proof.Machine.inputRemoved, rfl⟩
  case linkDown => exact .inl ⟨Sys2Proof.Machine.linkDown, rfl⟩
  case perstAssert => exact .inl ⟨Sys2Proof.Machine.perstAssert, rfl⟩
  case perstRelease => exact .inl ⟨Sys2Proof.Machine.perstRelease, rfl⟩
  case modEnHigh => exact .inl ⟨Sys2Proof.Machine.modEnHigh, rfl⟩
  case efuseTrip => exact .inl ⟨Sys2Proof.Machine.efuseTrip, rfl⟩
  all_goals exact .inl ⟨_, rfl⟩

/-- A step answers what its front command does. -/
theorem step_cons {s : State} {c : Instr} {rest : List Instr} (h : s.pending = c :: rest) :
    step s = exec c { s with pending := rest } := by
  simp [step, h]

/-- A descriptor whose sequencer takes it runs its own meaning, on the module that has read its handles. -/
theorem descRow_takes {kind : Nat × Nat} {s : State} {c : Cmd} (errs : List ReadErr) (k : Cmd → Mach → Res)
    (h : s.takes kind c) : descRow kind c.id errs k s.toMach = k c (s.reads c errs) := by
  obtain ⟨_, h2, h3, h4, h5, h6⟩ := h
  simp [descRow, h2, h3, h4, h5, h6, State.reads]

/-- Where the mirror accepts writes, no engine is held. -/
theorem heldWrites_accepted {m : Mach} (r : Mach → Res) (h : m.psLagging = false) : heldWrites r m = r m := by
  unfold heldWrites
  split <;> simp_all

/-- Work that may write ends as it does, or is held whole with nothing changed but the hold. -/
theorem heldWrites_cases {m n : Mach} {r : Mach → Res} (h : heldWrites r m = .next n) :
    r m = .next n ∨ (m.psLagging = true ∧ n = m.holdWrite ∧ ∃ m', r m = .next m' ∧ m'.mirrorWrites ≠ m.mirrorWrites) := by
  unfold heldWrites at h
  split at h
  · split at h
    · simp only [Host.Outcome.next.injEq] at h
      simp_all
    · exact .inl (by simp_all)
  · exact .inl h

/-- A command that starts with the link up, or without a buffer in host memory, does not end for want of it. -/
theorem Mach.failStarted_of_reaches {m : Mach} {id : CmdId}
    (h : m.linkUp = true ∨ ∀ a, m.act? id = some a → a.hostEnd = none) : m.failStarted id = m := by
  unfold Mach.failStarted
  split
  · rfl
  · split
    · rcases h with h | h
      · simp [h]
      · have := h _ ‹_›
        simp_all
    · rfl

theorem hostField_eq_none {hs : SMap Handle} {p : Nat} {fs : List Nat}
    (h : ∀ x ∈ hs, isHost (x.2.at_ p) = false) : hostField hs p fs = none := by
  simp only [hostField, Option.map_eq_none_iff, List.find?_eq_none]
  intro x hx
  simp [h x hx]

/-- The command launched last is found where none of its identifier ran before. -/
theorem Mach.act?_launch {m : Mach} {a b : Act} {id : CmdId} (h : m.act? id = none)
    (hb : (m.launch a).act? id = some b) : b = a := by
  simp only [Mach.act?, Mach.launch_acts, List.find?_append] at hb h
  simp only [h, Option.none_or, List.find?_cons, List.find?_nil] at hb
  split at hb
  · exact (Option.some.inj hb).symm
  · cases hb

theorem reaches_launch {m : Mach} {c : Cmd} {a b : Act} (h : m.reaches c a) (hb : b.cmd = a.cmd)
    (hh : b.handles = a.handles) : (m.launch b).failStarted c.id = m.launch b := by
  apply Mach.failStarted_of_reaches
  rcases h with h | ⟨h1, h2⟩
  · exact .inl h
  · refine .inr fun x hx => ?_
    rw [Mach.act?_launch h1 hx]
    exact hostField_eq_none (by rw [hb, hh]; exact h2)

end Sys2Proof.Machine
end

