-- ==== Sys2Proof/Laws/Dictionary.lean ====
section
/-! SUPPORT. Byte strings and their fields, and what a request carries through a mailbox. -/

namespace Sys2Proof.Machine

open Sys2Proof

/-! ### Bytes and fields -/

@[simp] theorem leBytes_length (n x : Nat) : (leBytes n x).length = n := by
  induction n generalizing x with
  | zero => rfl
  | succ n ih => simp [leBytes, ih]

@[simp] theorem zerosB_length (n : Nat) : (zerosB n).length = n := by simp [zerosB]

/-- A little-endian field reads back modulo its size. -/
theorem leNat_leBytes (n x : Nat) : leNat (leBytes n x) = x % 256 ^ n := by
  induction n generalizing x with
  | zero => simp [leBytes, leNat, Nat.mod_one]
  | succ n ih =>
    have e : 256 ^ (n + 1) = 256 * 256 ^ n := by rw [Nat.pow_succ, Nat.mul_comm]
    rw [e, Nat.mod_mul]
    simp [leBytes, leNat, ih]

theorem bytesAt_append_left (a b : Bytes) {n : Nat} (h : a.length = n) : bytesAt (a ++ b) 0 n = a := by
  subst h
  apply List.ext_getElem
  · simp [bytesAt]
  · intro i h1 h2
    simp [bytesAt, List.getD_eq_getElem?_getD, List.getElem?_append_left h2, List.getElem?_eq_getElem h2]

theorem bytesAt_append_right (a b : Bytes) {k : Nat} (h : a.length = k) (o n : Nat) :
    bytesAt (a ++ b) (k + o) n = bytesAt b o n := by
  subst h
  simp only [bytesAt, List.getD_eq_getElem?_getD]
  refine List.map_congr_left fun i _ => ?_
  rw [List.getElem?_append_right (by omega)]
  congr 2
  omega

theorem bytesAt_bytesAt (b : Bytes) {N o n : Nat} (h : o + n ≤ N) : bytesAt (bytesAt b 0 N) o n = bytesAt b o n := by
  simp only [bytesAt, List.getD_eq_getElem?_getD]
  refine List.map_congr_left fun i hi => ?_
  have : o + i < N := by have := List.mem_range.mp hi; omega
  simp [this]

theorem bytesAt_all (b : Bytes) : bytesAt b 0 b.length = b := by
  simpa using bytesAt_append_left b [] rfl

/-- The fields of a request, as the module reads them from a mailbox (R327). -/
theorem request_fields (op index sub : Nat) (v : Bytes) (hop : op < 256) (hi : index < 65536) (hs : sub < 256)
    (hv : v.length ≤ 1024) :
    let b := bytesAt (requestBytes op index sub v) 0 1280
    fld b 0 1 = op ∧ fld b 1 1 = sub ∧ fld b 2 2 = index ∧ fld b 4 2 = v.length ∧ fld b 6 2 = 0 ∧
      bytesAt b 8 v.length = v := by
  intro b
  have e : requestBytes op index sub v =
      leBytes 1 op ++ (leBytes 1 sub ++ (leBytes 2 index ++ (leBytes 2 v.length ++ (zerosB 2 ++ v)))) := by
    simp [requestBytes]
  have hb : ∀ o n, o + n ≤ 1280 → bytesAt b o n = bytesAt (requestBytes op index sub v) o n :=
    fun o n h => bytesAt_bytesAt _ h
  have r1 : ∀ o n, bytesAt (requestBytes op index sub v) (1 + o) n =
      bytesAt (leBytes 1 sub ++ (leBytes 2 index ++ (leBytes 2 v.length ++ (zerosB 2 ++ v)))) o n :=
    fun o n => by rw [e, bytesAt_append_right _ _ (leBytes_length _ _)]
  have r2 : ∀ o n, bytesAt (requestBytes op index sub v) (1 + (1 + o)) n =
      bytesAt (leBytes 2 index ++ (leBytes 2 v.length ++ (zerosB 2 ++ v))) o n :=
    fun o n => by rw [r1, bytesAt_append_right _ _ (leBytes_length _ _)]
  have r3 : ∀ o n, bytesAt (requestBytes op index sub v) (1 + (1 + (2 + o))) n =
      bytesAt (leBytes 2 v.length ++ (zerosB 2 ++ v)) o n :=
    fun o n => by rw [r2, bytesAt_append_right _ _ (leBytes_length _ _)]
  have r4 : ∀ o n, bytesAt (requestBytes op index sub v) (1 + (1 + (2 + (2 + o)))) n =
      bytesAt (zerosB 2 ++ v) o n :=
    fun o n => by rw [r3, bytesAt_append_right _ _ (leBytes_length _ _)]
  refine ⟨?_, ?_, ?_, ?_, ?_, ?_⟩
  · rw [fld, hb _ _ (by omega), e, bytesAt_append_left _ _ (leBytes_length _ _), leNat_leBytes]; omega
  · rw [fld, hb _ _ (by omega), r1 0, bytesAt_append_left _ _ (leBytes_length _ _), leNat_leBytes]; omega
  · rw [fld, hb _ _ (by omega), r2 0, bytesAt_append_left _ _ (leBytes_length _ _), leNat_leBytes]; omega
  · rw [fld, hb _ _ (by omega), r3 0, bytesAt_append_left _ _ (leBytes_length _ _), leNat_leBytes]; omega
  · rw [fld, hb _ _ (by omega), r4 0, bytesAt_append_left _ _ (zerosB_length _)]; rfl
  · rw [hb _ _ (by omega), r4 2, bytesAt_append_right _ _ (zerosB_length _) 0 _, bytesAt_all]

/-! ### Parts of the module a mailbox does not touch -/

theorem Mach.obj_of_dict {m n : Mach} (h : m.dict = n.dict) (o i : Nat) : m.obj o i = n.obj o i := by
  simp [Mach.obj, Mach.objAt, h]

@[simp] theorem Mach.obj_setMailbox (m : Mach) (f : Nat) (x : Mailbox) (o i : Nat) :
    (m.setMailbox f x).obj o i = m.obj o i := Mach.obj_of_dict rfl o i

@[simp] theorem Mach.mailbox_setMailbox (m : Mach) (f : Nat) (x : Mailbox) : (m.setMailbox f x).mailbox f = x := by
  simp [Mach.mailbox]

/-- A slot that holds nothing is the present one. -/
theorem Mach.pastSlot_empty {m : Mach} (h1 : m.slotWrites = []) (h2 : m.slotReads = []) : m.pastSlot = m := by
  simp [Mach.pastSlot, Mach.openSlot, h1, h2]

theorem mset_mset {α : Type} (l : SMap α) (k : Nat) (x y : α) : mset (mset l k x) k y = mset l k y := by
  induction l with
  | nil => simp [mset]
  | cons e r ih =>
    obtain ⟨j, w⟩ := e
    by_cases h : k = j
    · subst h; simp [mset]
    · by_cases h2 : k < j
      · simp [mset, h, h2]
      · simp [mset, h, h2, ih]

@[simp] theorem Mach.setMailbox_setMailbox (m : Mach) (k : Nat) (x y : Mailbox) :
    (m.setMailbox k x).setMailbox k y = m.setMailbox k y := by
  simp [Mach.setMailbox, mset_mset]

/-- The TOKEN of a frame with an Umpor header, and its body. -/
theorem umporHeader_fields (kind token n : Nat) (b : Bytes) (h : token < 65536) :
    fld (umporHeader kind token n ++ b) 4 2 = token ∧ (umporHeader kind token n ++ b).drop 16 = b := by
  have e : umporHeader kind token n ++ b =
      leBytes 2 0x4D55 ++ (leBytes 1 1 ++ (leBytes 1 kind ++ (leBytes 2 token ++ (leBytes 2 n ++ (zerosB 8 ++ b))))) := by
    simp [umporHeader]
  constructor
  · rw [e, fld, bytesAt_append_right _ _ (leBytes_length _ _) 2 2, bytesAt_append_right _ _ (leBytes_length _ _) 1 2,
      bytesAt_append_right _ _ (leBytes_length _ _) 0 2, bytesAt_append_left _ _ (leBytes_length _ _), leNat_leBytes]
    omega
  · have : (umporHeader kind token n).length = 16 := by simp [umporHeader]
    rw [← this, List.drop_left]

/-- A request that is taken at once arrives in its slot. -/
theorem submit_alone {s : State} {p : Path} (h : s.alone p) (op index sub : Nat) (v : Bytes)
    (f : Option FwFetch) :
    ∃ b, (p.isMgmt = false → b = bytesAt (requestBytes op index sub v) 0 1280) ∧
      (p.isMgmt = true → b = requestBytes op index sub v) ∧
      s.submit p (requestBytes op index sub v) f = (s.asked p op index sub v).arrive p b f := by
  obtain ⟨hok, hp, hw, hs⟩ := h
  have hpast : ∀ k x, (s.toMach.setMailbox k x).pastSlot = s.toMach.setMailbox k x :=
    fun k x => Mach.pastSlot_empty hw hs
  have hbb : bytesAt (bytesAt (requestBytes op index sub v) 0 1280) 0 1280 = bytesAt (requestBytes op index sub v) 0 1280 :=
    bytesAt_bytesAt _ (by omega)
  cases p with
  | pf0 =>
    simp only [State.pathFree, Bool.and_eq_true, Bool.not_eq_true'] at hp
    exact ⟨_, fun _ => rfl, fun h => by simp [Path.isMgmt] at h, by
      simp [Mach.submit, hp, Mach.mailboxRequest, Mach.go, hpast, hbb, State.asked]⟩
  | vf n =>
    simp only [State.pathFree, Bool.and_eq_true, Bool.not_eq_true'] at hp
    exact ⟨_, fun _ => rfl, fun h => by simp [Path.isMgmt] at h, by
      simp [Mach.submit, hp, Mach.mailboxRequest, Mach.go, hpast, hbb, State.asked]⟩
  | umpor src port token =>
    simp only [State.pathFree, Bool.and_eq_true, bne_iff_ne, ne_eq] at hp
    obtain ⟨⟨⟨hup, hl⟩, hu⟩, hc⟩ := hp
    have htok : token < 65536 := by simp [Path.ok, fits] at hok; omega
    obtain ⟨ht, hd⟩ := umporHeader_fields 1 token (requestBytes op index sub v).length
      (requestBytes op index sub v) htok
    have hu' : s.umpor = [] := by simpa using hu
    have hnone : s.cache.find? (fun c => c.src == src && c.token == token && decide (s.now < c.at_ + 1000000000)) = none := by
      rw [List.find?_eq_none]
      intro c hm
      have := List.all_eq_true.mp hc c hm
      simp at this ⊢
      intro a b
      rcases this with (h | h) | h
      · exact absurd a h
      · exact absurd b h
      · exact h
    refine ⟨_, fun h => by simp [Path.isMgmt] at h, fun _ => rfl, ?_⟩
    simp only [Mach.submit, hup, hl, Mach.pastSlot_empty hw hs, Mach.takeRequest, ht, hd, hnone, State.asked]
    simp [Mach.requestHeld, hu', hw, hs, Mach.admitRequest, Mach.mgmtInSlot, Mach.countRx, Mach.learn, Mach.bump, Mach.setPlinth,
      Mach.setObj, Mach.setObjAt]

end Sys2Proof.Machine
end

