-- ==== Sys2Proof/Laws/Memory.lean ====
section
/-! SUPPORT. Memory reads back what was written, and every operation on it keeps its canonical form. -/

namespace Sys2Proof.Machine

open Sys2Proof

/-! ### The canonical form -/

theorem Memory.sortedFrom_mono {m : List Host.Cell} {lo hi : Nat} (h : lo ≤ hi)
    (w : Memory.sortedFrom hi m = true) : Memory.sortedFrom lo m = true := by
  cases m with
  | nil => rfl
  | cons e r =>
    obtain ⟨k, v⟩ := e
    simp only [Memory.sortedFrom, Bool.and_eq_true, decide_eq_true_eq] at w ⊢
    exact ⟨⟨by omega, w.1.2⟩, w.2⟩

theorem Memory.sortedFrom_set (m : List Host.Cell) (x : Nat) (v : Byte) (lo : Nat) (h : lo ≤ x)
    (w : Memory.sortedFrom lo m = true) : Memory.sortedFrom lo (Memory.set m x v) = true := by
  induction m generalizing lo with
  | nil =>
    unfold Memory.set
    split <;> simp_all [Memory.sortedFrom]
  | cons e r ih =>
    obtain ⟨k, u⟩ := e
    simp only [Memory.sortedFrom, Bool.and_eq_true, decide_eq_true_eq] at w
    obtain ⟨⟨hk, hu⟩, hr⟩ := w
    unfold Memory.set
    split
    · subst_vars
      split
      · exact Memory.sortedFrom_mono (by omega) hr
      · simp_all [Memory.sortedFrom]
    · split
      · split
        · simp_all [Memory.sortedFrom]
        · simp only [Memory.sortedFrom, Bool.and_eq_true, decide_eq_true_eq]
          exact ⟨⟨h, by simpa using ‹¬v = 0›⟩, ⟨by omega, hu⟩, hr⟩
      · simp only [Memory.sortedFrom, Bool.and_eq_true, decide_eq_true_eq]
        exact ⟨⟨hk, hu⟩, ih (k + 1) (by omega) hr⟩

theorem Memory.wf_set {m : List Host.Cell} (x : Nat) (v : Byte) (w : Memory.wf m = true) :
    Memory.wf (Memory.set m x v) = true :=
  Memory.sortedFrom_set m x v 0 (Nat.zero_le _) w

theorem Memory.wf_setAll {m : List Host.Cell} (a : Nat) (v : Bytes) (w : Memory.wf m = true) :
    Memory.wf (Memory.setAll m a v) = true := by
  induction v generalizing m a with
  | nil => exact w
  | cons b r ih => exact ih (a + 1) (Memory.wf_set a b w)

theorem Memory.sortedFrom_filter (f : Host.Cell → Bool) (m : List Host.Cell) (lo : Nat)
    (w : Memory.sortedFrom lo m = true) : Memory.sortedFrom lo (m.filter f) = true := by
  induction m generalizing lo with
  | nil => rfl
  | cons e r ih =>
    obtain ⟨k, v⟩ := e
    simp only [Memory.sortedFrom, Bool.and_eq_true, decide_eq_true_eq] at w
    by_cases hf : f (k, v) = true
    · simp only [List.filter_cons, hf, ite_true, Memory.sortedFrom, Bool.and_eq_true, decide_eq_true_eq]
      exact ⟨w.1, ih (k + 1) w.2⟩
    · simp only [List.filter_cons, hf, ite_false, Bool.false_eq_true]
      exact Memory.sortedFrom_mono (by omega) (ih (k + 1) w.2)

theorem Memory.wf_filter (f : Host.Cell → Bool) {m : List Host.Cell} (w : Memory.wf m = true) :
    Memory.wf (m.filter f) = true :=
  Memory.sortedFrom_filter f m 0 w

/-- Cells below a bound, then cells from it up. -/
theorem Memory.sortedFrom_append (a b : List Host.Cell) (lo n : Nat) (hl : lo ≤ n)
    (ha : Memory.sortedFrom lo a = true) (hlt : ∀ x ∈ a, x.1 < n) (hb : Memory.sortedFrom n b = true) :
    Memory.sortedFrom lo (a ++ b) = true := by
  induction a generalizing lo with
  | nil => exact Memory.sortedFrom_mono hl hb
  | cons e r ih =>
    obtain ⟨k, v⟩ := e
    simp only [Memory.sortedFrom, Bool.and_eq_true, decide_eq_true_eq] at ha
    have hk : k < n := hlt (k, v) (by simp)
    simp only [List.cons_append, Memory.sortedFrom, Bool.and_eq_true, decide_eq_true_eq]
    exact ⟨ha.1, ih (k + 1) (by omega) ha.2 fun x hx => hlt x (by simp [hx])⟩

theorem Memory.sortedFrom_filter_ge (m : List Host.Cell) (lo n : Nat) (w : Memory.sortedFrom lo m = true) :
    Memory.sortedFrom n (m.filter fun x => decide (n ≤ x.1)) = true := by
  induction m generalizing lo with
  | nil => rfl
  | cons e r ih =>
    obtain ⟨k, v⟩ := e
    simp only [Memory.sortedFrom, Bool.and_eq_true, decide_eq_true_eq] at w
    by_cases hk : n ≤ k
    · simp only [List.filter_cons, hk, decide_true, ite_true, Memory.sortedFrom, Bool.and_eq_true, true_and]
      exact ⟨w.1.2, Memory.sortedFrom_filter _ r (k + 1) w.2⟩
    · simp only [List.filter_cons, hk, decide_false, Bool.false_eq_true, ite_false]
      exact ih (k + 1) w.2

/-! ### Reading back -/

theorem Memory.get_below {m : List Host.Cell} {lo x : Nat} (w : Memory.sortedFrom lo m = true) (h : x < lo) :
    Memory.get m x = 0 := by
  cases m with
  | nil => rfl
  | cons e r =>
    obtain ⟨k, v⟩ := e
    simp only [Memory.sortedFrom, Bool.and_eq_true, decide_eq_true_eq] at w
    have h1 : x ≠ k := by omega
    have h2 : x < k := by omega
    simp [Memory.get, h1, h2]

theorem Memory.get_set_from (m : List Host.Cell) (x : Nat) (v : Byte) (lo y : Nat)
    (w : Memory.sortedFrom lo m = true) : Memory.get (Memory.set m x v) y = if y = x then v else Memory.get m y := by
  induction m generalizing lo with
  | nil =>
    unfold Memory.set
    split
    · simp_all [Memory.get]
    · by_cases hy : y = x
      · simp [Memory.get, hy]
      · simp only [Memory.get, hy, ite_false]; split <;> rfl
  | cons e r ih =>
    obtain ⟨k, u⟩ := e
    simp only [Memory.sortedFrom, Bool.and_eq_true, decide_eq_true_eq] at w
    obtain ⟨⟨_, _⟩, hr⟩ := w
    rcases Nat.lt_trichotomy x k with hx | hx | hx
    · have h1 : x ≠ k := by omega
      simp only [Memory.set, h1, hx, ite_false, ite_true]
      by_cases hv : v = 0
      · by_cases hy : y = x
        · subst hy; simp [hv, Memory.get, h1, hx]
        · simp [hv, hy]
      · by_cases hy : y = x
        · simp only [hv, Memory.get, hy, ite_true, ite_false]
        · simp only [hv, Memory.get, hy, ite_false]
          by_cases hlt : y < x
          · have h2 : y ≠ k := by omega
            have h3 : y < k := by omega
            simp [hlt, h2, h3]
          · simp [hlt]
    · subst hx
      simp only [Memory.set, ite_true]
      by_cases hv : v = 0
      · by_cases hy : y = x
        · subst hy; simp [hv, Memory.get_below hr (Nat.lt_succ_self _)]
        · simp only [hv, Memory.get, hy, ite_false, ite_true]
          by_cases hlt : y < x
          · simp [hlt, Memory.get_below hr (show y < x + 1 by omega)]
          · simp [hlt]
      · by_cases hy : y = x
        · simp only [hv, Memory.get, hy, ite_true, ite_false]
        · simp only [hv, Memory.get, hy, ite_false]
    · have h1 : x ≠ k := by omega
      have h2 : ¬ x < k := by omega
      simp only [Memory.set, h1, h2, ite_false]
      have := ih (k + 1) hr
      by_cases hy : y = x
      · subst hy
        simp only [ite_true] at this
        simp [Memory.get, h1, h2, this]
      · simp only [hy, ite_false] at this
        simp [Memory.get, hy, this]

/-- A byte written reads back, and every other byte is as it was. -/
theorem Memory.get_set {m : List Host.Cell} (w : Memory.wf m = true) (x y : Nat) (v : Byte) :
    Memory.get (Memory.set m x v) y = if y = x then v else Memory.get m y :=
  Memory.get_set_from m x v 0 y w

/-- Consecutive bytes written read back, and every other byte is as it was. -/
theorem Memory.get_setAll {m : List Host.Cell} (w : Memory.wf m = true) (a y : Nat) (v : Bytes) :
    Memory.get (Memory.setAll m a v) y = if a ≤ y ∧ y < a + v.length then v.getD (y - a) 0 else Memory.get m y := by
  induction v generalizing m a with
  | nil =>
    simp only [Memory.setAll, List.length_nil]
    rw [if_neg (by omega)]
  | cons b r ih =>
    simp only [Memory.setAll]
    rw [ih (Memory.wf_set a b w), Memory.get_set w]
    simp only [List.length_cons]
    by_cases h1 : a + 1 ≤ y ∧ y < a + 1 + r.length
    · have h2 : a ≤ y ∧ y < a + (r.length + 1) := by omega
      have h3 : y - a = (y - (a + 1)) + 1 := by omega
      simp [h1, h2, h3]
    · simp only [h1, ite_false]
      by_cases hy : y = a
      · subst hy
        have h2 : y ≤ y ∧ y < y + (r.length + 1) := by omega
        simp [h2]
      · have h2 : ¬ (a ≤ y ∧ y < a + (r.length + 1)) := by omega
        simp [hy, h2]

/-! ### The operations on memory keep the canonical form -/

@[simp] theorem Mach.setDirty_mem (m : Mach) (l : Nat) : (m.setDirty l).mem = m.mem := by
  unfold Mach.setDirty
  dsimp only
  repeat' first
    | rfl
    | split

theorem Mach.memOk_setDirty {m : Mach} (l : Nat) (h : m.memOk) : (m.setDirty l).memOk := by
  unfold Mach.memOk
  rw [Mach.setDirty_mem]
  exact h

theorem Mach.memOk_putLine {m : Mach} (l o : Nat) (v : Bytes) (p : Bool) (h : m.memOk) : (m.putLine l o v p).memOk :=
  Memory.wf_setAll _ _ h

theorem Mach.memOk_wrLine {m : Mach} (l o : Nat) (v : Bytes) (p : Bool) (h : m.memOk) : (m.wrLine l o v p).memOk :=
  Mach.memOk_setDirty l (Mach.memOk_putLine l o v p h)

theorem Mach.memOk_wrSector {m : Mach} (s o : Nat) (v : Bytes) (p : Bool) (h : m.memOk) : (m.wrSector s o v p).memOk := by
  unfold Mach.wrSector
  split
  · exact h
  · exact Memory.wf_setAll _ _ h

theorem Mach.memOk_wrHost {m : Mach} (a : Nat) (v : Bytes) (p : Bool) (h : m.memOk) : (m.wrHost a v p).memOk :=
  Memory.wf_setAll _ _ h

/-- A loop that keeps the form at every turn keeps it. -/
theorem Mach.memOk_foldl {α : Type} (f : Mach → α → Mach) (l : List α) (hf : ∀ m x, m.memOk → (f m x).memOk)
    {m : Mach} (h : m.memOk) : (l.foldl f m).memOk := by
  induction l generalizing m with
  | nil => exact h
  | cons x r ih => exact ih (hf m x h)

@[simp] theorem Mach.markLent_mem (m : Mach) (x : Nat) (p d : List Nat) : (m.markLent x p d).mem = m.mem := (rfl)

theorem Mach.memOk_markLent {m : Mach} (x : Nat) (p d : List Nat) (h : m.memOk) : (m.markLent x p d).memOk := h

/-- A sector filled, or written in part, is a sector written. -/
theorem Mach.fillSector_eq (m : Mach) (l : Lent) (a : Nat) (s : Mach) (i : Nat) :
    ∃ x v p, m.fillSector l a s i = s.wrSector x 0 v p := ⟨_, _, _, rfl⟩

theorem Mach.putSector_eq (l : Lent) (a : Nat) (v : Bytes) (p : Bool) (s : Mach) (k : Nat) :
    ∃ x o w, Mach.putSector l a v p s k = s.wrSector x o w p := ⟨_, _, _, rfl⟩

theorem Mach.memOk_fillLent {m : Mach} (l : Lent) (a : Nat) (h : m.memOk) : (m.fillLent l a).memOk := by
  refine Mach.memOk_markLent _ _ _ (Mach.memOk_foldl _ _ (fun s i hs => ?_) h)
  obtain ⟨x, v, p, e⟩ := m.fillSector_eq l (lineOf a) s i
  rw [e]
  exact Mach.memOk_wrSector _ _ _ _ hs

theorem Mach.memOk_wrPiece {m : Mach} (a : Nat) (v : Bytes) (p : Bool) (h : m.memOk) : (m.wrPiece a v p).memOk := by
  unfold Mach.wrPiece
  split
  · split
    · exact Mach.memOk_wrLine _ _ _ _ h
    · refine Mach.memOk_setDirty _ (Mach.memOk_markLent _ _ _ (Mach.memOk_foldl _ _ (fun s k hs => ?_) ?_))
      · obtain ⟨x, o, w, e⟩ := Mach.putSector_eq _ a v p s k
        rw [e]
        exact Mach.memOk_wrSector _ _ _ _ hs
      · split
        · exact Mach.memOk_fillLent _ _ h
        · exact h
  · exact Mach.memOk_wrHost _ _ _ h
  · exact Mach.memOk_wrSector _ _ _ _ h

/-- Every write through the module's own paths. -/
theorem Mach.memOk_wr {m : Mach} (a : Nat) (v : Bytes) (p : Bool) (h : m.memOk) : (m.wr a v p).memOk := by
  unfold Mach.wr
  split
  · split
    · exact h
    · exact Mach.memOk_wrHost _ _ _ h
  · exact Mach.memOk_foldl _ _ (fun s x hs => Mach.memOk_wrPiece _ _ _ hs) h

/-- A read fills lent pieces, and keeps the form. -/
theorem Mach.memOk_fillRead {m : Mach} (a n : Nat) (h : m.memOk) : (m.fillRead a n).memOk := by
  unfold Mach.fillRead
  split
  · exact h
  · refine Mach.memOk_foldl _ _ (fun s i hs => ?_) h
    dsimp only
    split
    · exact hs
    · split
      · exact Mach.memOk_fillLent _ _ hs
      · exact hs

theorem Mach.memOk_wrPoison {m : Mach} (a n : Nat) (h : m.memOk) : (m.wrPoison a n).memOk :=
  Mach.memOk_wr a (zerosB n) true h

theorem Mach.memOk_wrNat {m : Mach} (a n v : Nat) (h : m.memOk) : (m.wrNat a n v).memOk :=
  Mach.memOk_wr a (leBytes n v) false h

theorem Mach.memOk_invalidate {m : Mach} (f : Nat → Bool) (h : m.memOk) : (m.invalidate f).memOk :=
  Memory.wf_filter _ h

/-- What stood in host memory is put back behind what the module now holds. -/
theorem Mach.memOk_keepHost {m n : Mach} (hm : m.memOk) (hn : n.memOk) : (m.keepHost n).memOk := by
  unfold Mach.keepHost Mach.memOk Memory.wf
  refine Memory.sortedFrom_append _ _ 0 hostBase (Nat.zero_le _) (Memory.sortedFrom_filter _ _ 0 hn) ?_
    (Memory.sortedFrom_filter_ge _ 0 hostBase hm)
  intro x hx
  simpa using (List.mem_filter.mp hx).2

end Sys2Proof.Machine
end

