-- ==== Sys2Proof/Laws/FrameOps.lean ====
section
/-! SUPPORT. Memory frames of the operations over memory and state, the trace, the sequencers and the journals: `X_mem` says that X leaves memory as it is, `X_memW` that X keeps
memory in its canonical form. -/

namespace Sys2Proof.Machine

open Sys2Proof

theorem foldl_mem {α : Type} (f : Mach → α → Mach) (l : List α) (hf : ∀ m x, (f m x).mem = m.mem) (m : Mach) :
    (l.foldl f m).mem = m.mem := by
  induction l generalizing m with
  | nil => rfl
  | cons x l ih => simp [ih, hf]

theorem foldl_memW {α : Type} (f : Mach → α → Mach) (l : List α)
    (hf : ∀ m x, Memory.wf m.mem = true → Memory.wf (f m x).mem = true) (m : Mach) (h : Memory.wf m.mem = true) :
    Memory.wf (l.foldl f m).mem = true := by
  induction l generalizing m with
  | nil => exact h
  | cons x l ih => exact ih _ (hf _ _ h)

@[simp] theorem Mach.mem_ite (c : Prop) [Decidable c] (a b : Mach) :
    (if c then a else b).mem = if c then a.mem else b.mem := by split <;> rfl

@[simp] theorem memW_ite (c : Prop) [Decidable c] (a b : List Host.Cell) (ha : Memory.wf a = true) (hb :
    Memory.wf b = true) :
    Memory.wf (if c then a else b) = true := by split <;> assumption

@[simp] theorem cannot_next (w : String) (m : Mach) : (cannot w = .next m) = False := by simp [cannot]

@[simp] theorem Mach.putLine_memW (m : Mach) (l o : Nat) (v : Bytes) (p : Bool) (h : Memory.wf m.mem = true) :
    Memory.wf (m.putLine l o v p).mem = true := Mach.memOk_putLine l o v p h

@[simp] theorem Mach.wrLine_memW (m : Mach) (l o : Nat) (v : Bytes) (p : Bool) (h : Memory.wf m.mem = true) :
    Memory.wf (m.wrLine l o v p).mem = true := Mach.memOk_wrLine l o v p h

@[simp] theorem Mach.wrSector_memW (m : Mach) (l o : Nat) (v : Bytes) (p : Bool) (h : Memory.wf m.mem = true) :
    Memory.wf (m.wrSector l o v p).mem = true := Mach.memOk_wrSector l o v p h

@[simp] theorem Mach.wrHost_memW (m : Mach) (a : Nat) (v : Bytes) (p : Bool) (h : Memory.wf m.mem = true) :
    Memory.wf (m.wrHost a v p).mem = true := Mach.memOk_wrHost a v p h

@[simp] theorem Mach.fillLent_memW (m : Mach) (l : Lent) (a : Nat) (h : Memory.wf m.mem = true) :
    Memory.wf (m.fillLent l a).mem = true := Mach.memOk_fillLent l a h

@[simp] theorem Mach.fillRead_memW (m : Mach) (a n : Nat) (h : Memory.wf m.mem = true) :
    Memory.wf (m.fillRead a n).mem = true := Mach.memOk_fillRead a n h

@[simp] theorem Mach.wrPiece_memW (m : Mach) (a : Nat) (v : Bytes) (p : Bool) (h : Memory.wf m.mem = true) :
    Memory.wf (m.wrPiece a v p).mem = true := Mach.memOk_wrPiece a v p h

@[simp] theorem Mach.wr_memW (m : Mach) (a : Nat) (v : Bytes) (p : Bool) (h : Memory.wf m.mem = true) :
    Memory.wf (m.wr a v p).mem = true := Mach.memOk_wr a v p h

/-- A loop of writes. The addresses are a function of their own, so that no proof evaluates one. -/
theorem foldl_wr_memW {α : Type} (g : α → Nat) (v : α → Bytes) (p : α → Bool) (l : List α) (m : Mach)
    (h : Memory.wf m.mem = true) : Memory.wf (l.foldl (fun s x => s.wr (g x) (v x) (p x)) m).mem = true := by
  induction l generalizing m with
  | nil => exact h
  | cons x l ih => exact ih _ (Mach.wr_memW _ _ _ _ h)

@[simp] theorem Mach.wrPoison_memW (m : Mach) (a n : Nat) (h : Memory.wf m.mem = true) :
    Memory.wf (m.wrPoison a n).mem = true := Mach.memOk_wrPoison a n h

@[simp] theorem Mach.wrNat_memW (m : Mach) (a n v : Nat) (h : Memory.wf m.mem = true) :
    Memory.wf (m.wrNat a n v).mem = true := Mach.memOk_wrNat a n v h

@[simp] theorem Mach.invalidate_memW (m : Mach) (f : Nat → Bool) (h : Memory.wf m.mem = true) :
    Memory.wf (m.invalidate f).mem = true := Mach.memOk_invalidate f h

theorem foldl_mem_fst {α β : Type} (f : Mach × β → α → Mach × β) (l : List α) (hf : ∀ x a, (f x a).1.mem = x.1.mem)
    (x : Mach × β) : (l.foldl f x).1.mem = x.1.mem := by
  induction l generalizing x with
  | nil => rfl
  | cons a l ih => simp [ih, hf]

theorem foldl_memW_fst {α β : Type} (f : Mach × β → α → Mach × β) (l : List α)
    (hf : ∀ x a, Memory.wf x.1.mem = true → Memory.wf (f x a).1.mem = true) (x : Mach × β)
    (h : Memory.wf x.1.mem = true) : Memory.wf (l.foldl f x).1.mem = true := by
  induction l generalizing x with
  | nil => exact h
  | cons a l ih => exact ih _ (hf _ _ h)

@[simp] theorem Mach.defaultIndex_mem (m : Mach) (a1 : Nat) : (Mach.defaultIndex m a1).mem = m.mem := by
  simp [Mach.defaultIndex]

@[simp] theorem Mach.countDrop_mem (m : Mach) (a1 : Nat) : (Mach.countDrop m a1).mem = m.mem := by
  simp [Mach.countDrop]

@[simp] theorem Mach.raise_mem (m : Mach) (a1 : Nat) (a2 : Cmd) (a3 : Flg) (a4 a5 a6 : Nat) :
    (Mach.raise m a1 a2 a3 a4 a5 a6).mem = m.mem := by
  unfold Mach.raise
  extract_lets g m1
  rw [Mach.setEngine_mem]
  exact foldl_mem _ _ (fun _ _ => by rw [Mach.noteFlag_mem]) m

@[simp] theorem Mach.nextSeq_mem (m : Mach) (a1 : Nat) : (Mach.nextSeq m a1).2.mem = m.mem := by
  simp [Mach.nextSeq]

@[simp] theorem Mach.queueFrame_mem (m : Mach) (a1 a2 : Nat) (a3 : Bytes) :
    (Mach.queueFrame m a1 a2 a3).mem = m.mem := by
  simp [Mach.queueFrame]

@[simp] theorem Mach.sendNotice_mem (m : Mach) (a1 : Nat) (a2 : Bytes) : (Mach.sendNotice m a1 a2).mem = m.mem := by
  simp [Mach.sendNotice]

@[simp] theorem Mach.notify_mem (m : Mach) (a1 : Bytes) : (Mach.notify m a1).mem = m.mem := by
  simp [Mach.notify]

@[simp] theorem Mach.pushRec_mem (m : Mach) (a1 : Nat) (a2 : Bytes) (a3 : Option (CmdId × Nat)) :
    (Mach.pushRec m a1 a2 a3).mem = m.mem := by
  simp [Mach.pushRec]

@[simp] theorem Mach.setCause_mem (m : Mach) (a1 a2 : Nat) : (Mach.setCause m a1 a2).mem = m.mem := by
  simp [Mach.setCause]

@[simp] theorem Mach.eventTo_mem (m : Mach) (a1 : Nat) (a2 : List Nat) (a3 : Option Cmd) (a4 a5 a6 a7 a8 a9 : Nat) :
    (Mach.eventTo m a1 a2 a3 a4 a5 a6 a7 a8 a9).mem = m.mem := by
  simp only [Mach.eventTo, Mach.notify_mem]
  exact (foldl_mem _ _ (fun m x => by simp) _).trans (by simp)

@[simp] theorem Mach.event_mem (m : Mach) (a1 a2 a3 a4 a5 a6 a7 a8 : Nat) :
    (Mach.event m a1 a2 a3 a4 a5 a6 a7 a8).mem = m.mem := by
  simp [Mach.event]

@[simp] theorem Mach.moduleEvent_mem (m : Mach) (a1 a2 : Nat) : (Mach.moduleEvent m a1 a2).mem = m.mem := by
  simp [Mach.moduleEvent]

@[simp] theorem Mach.alert_mem (m : Mach) (a1 : Nat) : (Mach.alert m a1).mem = m.mem := by
  simp [Mach.alert]

@[simp] theorem Mach.logError_mem (m : Mach) (a1 a2 a3 a4 a5 : Nat) :
    (Mach.logError m a1 a2 a3 a4 a5).mem = m.mem := by
  simp [Mach.logError]

@[simp] theorem Mach.releaseHold_mem (m) : (Mach.releaseHold m).mem = m.mem := by
  unfold Mach.releaseHold
  split <;> simp

@[simp] theorem Mach.countPoisonedField_mem (m : Mach) (a1 : SMap Handle) (a2 a3 : Nat) :
    (Mach.countPoisonedField m a1 a2 a3).mem = m.mem := by
  simp [Mach.countPoisonedField]

@[simp] theorem Mach.fireTrigger_mem (m : Mach) (a1 : Nat) : (Mach.fireTrigger m a1).mem = m.mem := by
  simp [Mach.fireTrigger]

@[simp] theorem Mach.triggerOn_mem (m : Mach) (a1 : Nat) : (Mach.triggerOn m a1).mem = m.mem := by
  simp [Mach.triggerOn]

@[simp] theorem Mach.flags_mem (m : Mach) (a1 : Nat) (a2 : Cmd) (a3 : Flg) (a4 a5 a6 : Nat) :
    (Mach.flags m a1 a2 a3 a4 a5 a6).mem = m.mem := by
  simp [Mach.flags]

@[simp] theorem Mach.setCapQueue_mem (m : Mach) (a1 : Nat) (a2 : CapQueue) :
    (Mach.setCapQueue m a1 a2).mem = m.mem := by
  simp [Mach.setCapQueue]

@[simp] theorem Mach.setTraceBuf_mem (m : Mach) (a1 : Nat) (a2 : TraceBuf) :
    (Mach.setTraceBuf m a1 a2).mem = m.mem := by
  simp [Mach.setTraceBuf]

@[simp] theorem Mach.countDropped_mem (m : Mach) (a1 a2 : Nat) : (Mach.countDropped m a1 a2).mem = m.mem := by
  simp [Mach.countDropped]

@[simp] theorem Mach.countFrame_mem (m : Mach) (a1 a2 : Nat) : (Mach.countFrame m a1 a2).mem = m.mem := by
  simp [Mach.countFrame]

@[simp] theorem Mach.capture_mem (m a1 a2 a3 a4 a5 a6 a7 a8) : (Mach.capture m a1 a2 a3 a4 a5 a6 a7 a8).mem = m.mem := by
  simp [Mach.capture]

@[simp] theorem Mach.bufPut_mem (m : Mach) (a1 : Nat) (a2 : Bytes) : (Mach.bufPut m a1 a2).mem = m.mem := by
  unfold Mach.bufPut
  repeat' first
    | with_reducible rfl
    | (with_reducible refine (foldl_mem _ _ (fun m x => ?_) _).trans ?_)
    | (simp; done)
    | split
    | dsimp only
  all_goals (simp_all; done)

theorem traceQueueDrain_mem {n : Mach} (a0 : Nat) (m : Mach) (h : traceQueueDrain a0 m = .next n) :
    n.mem = m.mem := by
  unfold traceQueueDrain at h
  try dsimp only at h
  repeat' split at h
  all_goals first
    | (simp only [cannot_next, reduceCtorEq] at h; done)
    | (simp only [Host.Outcome.next.injEq] at h; subst h; first | with_reducible rfl | (simp; done))
    | (simp_all; done)

@[simp] theorem Mach.invalidateTrace_mem (m : Mach) (a1 : Nat) : (Mach.invalidateTrace m a1).mem = m.mem := by
  simp [Mach.invalidateTrace]

@[simp] theorem Mach.endRunAt_mem (m a1 a2) : (Mach.endRunAt m a1 a2).mem = m.mem := by
  unfold Mach.endRunAt
  repeat' first
    | with_reducible rfl
    | (with_reducible refine (foldl_mem _ _ (fun m x => ?_) _).trans ?_)
    | (with_reducible refine (foldl_mem_fst _ _ (fun m x => ?_) _).trans ?_)
    | (simp; done)
    | split
    | dsimp only
  all_goals (simp_all; done)

@[simp] theorem Mach.endRun_mem (m a1) : (Mach.endRun m a1).mem = m.mem := by
  simp [Mach.endRun]

@[simp] theorem Mach.stopRun_mem (m a1) : (Mach.stopRun m a1).mem = m.mem := by
  simp [Mach.stopRun]

@[simp] theorem Mach.beginRun_mem (m a1 a2 a3) : (Mach.beginRun m a1 a2 a3).mem = m.mem := by
  unfold Mach.beginRun
  split <;> simp

@[simp] theorem Mach.startUnit_mem (m a1 a2 a3) : (Mach.startUnit m a1 a2 a3).mem = m.mem := by
  simp [Mach.startUnit]

@[simp] theorem Mach.spend_mem (m : Mach) (a1 : Nat) (a2 : Spent) (a3 : Nat) :
    (Mach.spend m a1 a2 a3).mem = m.mem := by
  simp [Mach.spend]

@[simp] theorem Mach.freeSpent_mem (m) : (Mach.freeSpent m).2.mem = m.mem := by
  simp [Mach.freeSpent]

@[simp] theorem Mach.spendFree_mem (m a1 a2) : (Mach.spendFree m a1 a2).mem = m.mem := by
  simp [Mach.spendFree]

@[simp] theorem Mach.tryStop_mem (m : Mach) : (Mach.tryStop m).mem = m.mem := by
  simp [Mach.tryStop]

@[simp] theorem Mach.sendTraceFrame_mem (m : Mach) (a1 : Nat) : (m.sendTraceFrame a1).mem = m.mem := by
  unfold Mach.sendTraceFrame
  simp only [Mach.countFrame_mem, Mach.setTraceBuf_mem]
  exact foldl_mem_fst _ _ (fun x a => by simp) (m, [])

theorem traceFrameSend_mem {n : Mach} (m : Mach) (h : traceFrameSend m = .next n) : n.mem = m.mem := by
  unfold traceFrameSend at h
  try dsimp only at h
  repeat' split at h
  all_goals first
    | (simp only [cannot_next, reduceCtorEq] at h; done)
    | (simp only [Host.Outcome.next.injEq] at h; subst h; first | with_reducible rfl | (simp; done))
    | (simp_all; done)

theorem traceAlign_mem {n : Mach} (m : Mach) (h : traceAlign m = .next n) : n.mem = m.mem := by
  unfold traceAlign at h
  repeat' split at h
  all_goals first | (simp_all; done) | (simp only [Host.Outcome.next.injEq] at h; simp [← h])

theorem traceCaptureEnd_mem {n : Mach} (m : Mach) (h : traceCaptureEnd m = .next n) : n.mem = m.mem := by
  unfold traceCaptureEnd at h
  repeat' split at h
  all_goals first | (simp_all; done) | (simp only [Host.Outcome.next.injEq] at h; simp [← h])

theorem traceTrainingEnd_mem {n : Mach} (m : Mach) (h : traceTrainingEnd m = .next n) : n.mem = m.mem := by
  unfold traceTrainingEnd at h
  repeat' split at h
  all_goals first | (simp_all; done) | (simp only [Host.Outcome.next.injEq] at h; simp [← h])

@[simp] theorem Mach.startTraining_mem (m : Mach) : (Mach.startTraining m).mem = m.mem := by
  simp [Mach.startTraining]

@[simp] theorem Mach.bayToSleep_mem (m a1) : (Mach.bayToSleep m a1).mem = m.mem := by
  simp [Mach.bayToSleep]

@[simp] theorem Mach.obeySleep_mem (m a1) : (Mach.obeySleep m a1).mem = m.mem := by
  simp [Mach.obeySleep]

@[simp] theorem Mach.settle_mem (m : Mach) : (Mach.settle m).mem = m.mem := by
  unfold Mach.settle
  exact foldl_mem _ _ (fun m x => by simp) _

@[simp] theorem Mach.askWake_mem (m : Mach) (a1 : Nat) : (Mach.askWake m a1).mem = m.mem := by
  unfold Mach.askWake
  repeat' first
    | with_reducible rfl
    | (with_reducible refine (foldl_mem _ _ (fun m x => ?_) _).trans ?_)
    | (simp; done)
    | split
    | dsimp only
  all_goals (simp_all; done)

@[simp] theorem Mach.wakeBays_mem (m a1) : (Mach.wakeBays m a1).mem = m.mem := by
  unfold Mach.wakeBays
  repeat' first
    | with_reducible rfl
    | (with_reducible refine (foldl_mem _ _ (fun m x => ?_) _).trans ?_)
    | (with_reducible refine (foldl_mem_fst _ _ (fun m x => ?_) _).trans ?_)
    | (simp; done)
    | split
    | dsimp only
  all_goals (simp_all; done)

@[simp] theorem Mach.complete_mem (m : Mach) (a1 : Cmd) (a2 a3 a4 : Nat) (a5 : Flg) (a6 : Bool) :
    (Mach.complete m a1 a2 a3 a4 a5 a6).mem = m.mem := by
  unfold Mach.complete
  repeat' first
    | with_reducible rfl
    | (with_reducible refine (foldl_mem _ _ (fun m x => ?_) _).trans ?_)
    | (simp; done)
    | split
    | dsimp only
  all_goals (simp_all; done)

@[simp] theorem Mach.refuse_mem (m : Mach) (a1 : Cmd) (a2 a3 : Nat) : (Mach.refuse m a1 a2 a3).mem = m.mem := by
  simp [Mach.refuse]

theorem bindCounter_mem {n : Mach} (a0 : CmdId) (a1 : Nat) (m : Mach) (h : bindCounter a0 a1 m = .next n) :
    n.mem = m.mem := by
  unfold bindCounter at h
  try dsimp only at h
  repeat' split at h
  all_goals first
    | (simp only [cannot_next, reduceCtorEq] at h; done)
    | (simp only [Host.Outcome.next.injEq] at h; subst h; first | with_reducible rfl | (simp; done))
    | (simp_all; done)

theorem workCounterRequest_mem {m n : Mach} (a0) (h : workCounterRequest a0 m = .next n) : n.mem = m.mem := by
  unfold workCounterRequest at h
  try dsimp only at h
  repeat' split at h
  all_goals first
    | (simp only [cannot_next, reduceCtorEq] at h; done)
    | (simp only [Host.Outcome.next.injEq] at h; subst h; first | with_reducible rfl | (simp; done))
    | (simp_all; done)

@[simp] theorem Mach.itemDone_mem (m : Mach) (a1 : CmdId) (a2 : Nat) : (Mach.itemDone m a1 a2).mem = m.mem := by
  simp [Mach.itemDone]

@[simp] theorem Mach.restEngine_mem (m a1 a2) : (Mach.restEngine m a1 a2).mem = m.mem := by
  unfold Mach.restEngine
  split <;> simp

@[simp] theorem Mach.queueBack_mem (m a1 a2) : (Mach.queueBack m a1 a2).mem = m.mem := by
  simp [Mach.queueBack]

@[simp] theorem Mach.readLine_mem (m : Mach) (a1 : LineObs) (a2 : Nat) : (m.readLine a1 a2).mem = m.mem := by
  unfold Mach.readLine
  extract_lets l b ret c1 c2 f1 f2 live retry f tag failed s1 corrected lost s2 limit
  have h1 : s1.mem = m.mem := foldl_mem _ _ (fun s k => by simp) _
  have h2 : s2.mem = m.mem := by
    simp only [s2, lost, corrected, Mach.mem_ite, Mach.queueBack_mem, Mach.logError_mem, Mach.bump_mem, h1, ite_self]
  refine (foldl_mem _ _ (fun s k => ?_) _).trans h2
  dsimp only
  split
  · simp
  · rfl

@[simp] theorem Mach.countWord_mem (m a1 a2 a3 a4) : (Mach.countWord m a1 a2 a3 a4).mem = m.mem := by
  unfold Mach.countWord
  split <;> simp

@[simp] theorem Mach.readWord_mem (m a1 a2 a3) : (Mach.readWord m a1 a2 a3).mem = m.mem := by
  unfold Mach.readWord
  repeat' first
    | with_reducible rfl
    | (with_reducible refine (foldl_mem _ _ (fun m x => ?_) _).trans ?_)
    | (with_reducible refine (foldl_mem_fst _ _ (fun m x => ?_) _).trans ?_)
    | (simp; done)
    | split
    | dsimp only
  all_goals (simp_all; done)

@[simp] theorem Mach.readSeqWord_mem (m a1 a2 a3) : (Mach.readSeqWord m a1 a2 a3).mem = m.mem := by
  simp [Mach.readSeqWord]

@[simp] theorem Mach.meet_mem (m : Mach) (a1 : List ReadErr) : (m.meet a1).mem = m.mem := by
  unfold Mach.meet
  refine foldl_mem _ _ (fun s e => ?_) m
  cases e <;> simp

@[simp] theorem Mach.readRetired_mem (m a1 a2) : (Mach.readRetired m a1 a2).mem = m.mem := by
  simp [Mach.readRetired]

@[simp] theorem Mach.touch_memW (m a1 a2) (h : Memory.wf m.mem = true) :
    Memory.wf (Mach.touch m a1 a2).mem = true := by
  unfold Mach.touch
  repeat' first
    | with_reducible exact h
    | (with_reducible refine foldl_memW _ _ (fun m x h => ?_) _ ?_)
    | (with_reducible refine foldl_memW_fst _ _ (fun m x h => ?_) _ ?_)
    | (simp (maxDischargeDepth := 99) [h]; done)
    | split
    | dsimp only
  all_goals (simp_all; done)

@[simp] theorem Mach.takeReads_memW (m a1 a2) (h : Memory.wf m.mem = true) :
    Memory.wf (Mach.takeReads m a1 a2).mem = true := by
  simp [Mach.takeReads, h]

@[simp] theorem Mach.writeStatus_memW (m : Mach) (a1 : Nat) (h : Memory.wf m.mem = true) :
    Memory.wf (Mach.writeStatus m a1).mem = true := by
  simp [Mach.writeStatus, h]

theorem statusLineWrite_memW {n : Mach} (a0 : Nat) (m : Mach) (w : Memory.wf m.mem = true)
    (h : statusLineWrite a0 m = .next n) :
    Memory.wf n.mem = true := by
  unfold statusLineWrite at h
  repeat' split at h
  all_goals first | (simp_all; done) | (simp only [Host.Outcome.next.injEq] at h; simp [← h, w])

@[simp] theorem Mach.stopJournal_mem (m : Mach) (a1 a2 : Nat) : (Mach.stopJournal m a1 a2).mem = m.mem := by
  simp [Mach.stopJournal]

@[simp] theorem Mach.takeProduce_mem (m : Mach) (a1 a2 : Nat) : (Mach.takeProduce m a1 a2).mem = m.mem := by
  simp [Mach.takeProduce]

@[simp] theorem Mach.hostStored_memW (m : Mach) (a1 : Nat) (a2 : HostRead) (h : Memory.wf m.mem = true) :
    Memory.wf (Mach.hostStored m a1 a2).mem = true := by
  unfold Mach.hostStored
  split <;> simp [h]

@[simp] theorem Mach.closeJournal_mem (m a1) : (Mach.closeJournal m a1).mem = m.mem := by
  simp [Mach.closeJournal]

@[simp] theorem Mach.closeRing_mem (m a1) : (Mach.closeRing m a1).mem = m.mem := by
  simp [Mach.closeRing]

@[simp] theorem Mach.hostReadFailed_mem (m : Mach) (a1 : Bool) : (Mach.hostReadFailed m a1).mem = m.mem := by
  simp [Mach.hostReadFailed]

theorem controlLineInvalidate_memW {n : Mach} (a0 : Nat) (a1 : HostRead) (m : Mach) (w : Memory.wf m.mem = true)
    (h : controlLineInvalidate a0 a1 m = .next n) :
    Memory.wf n.mem = true := by
  unfold controlLineInvalidate at h
  try dsimp only at h
  repeat' split at h
  all_goals first
    | (simp only [cannot_next, reduceCtorEq] at h; done)
    | (simp only [Host.Outcome.next.injEq] at h; subst h; first | with_reducible exact w | (simp (maxDischargeDepth := 99) [w]; done))
    | (simp_all; done)

@[simp] theorem Mach.wakeFor_mem (m : Mach) (a1 : Cmd) : (Mach.wakeFor m a1).mem = m.mem := by
  unfold Mach.wakeFor
  exact foldl_mem _ _ (fun m x => by simp) _

@[simp] theorem Mach.handOver_mem (m : Mach) (a1 : Cmd) : (Mach.handOver m a1).mem = m.mem := by
  unfold Mach.handOver
  split <;> simp

theorem entryFetch_memW {m n : Mach} (a0 a1) (w : Memory.wf m.mem = true) (h : entryFetch a0 a1 m = .next n) :
    Memory.wf n.mem = true := by
  unfold entryFetch at h
  try dsimp only at h
  repeat' split at h
  all_goals first
    | (simp only [cannot_next, reduceCtorEq] at h; done)
    | (simp only [Host.Outcome.next.injEq] at h; subst h; first | with_reducible exact w | (simp (maxDischargeDepth := 99) [w]; done))
    | (simp_all; done)

theorem fenceRelease_mem {n : Mach} (a0 : Nat) (m : Mach) (h : fenceRelease a0 m = .next n) : n.mem = m.mem := by
  unfold fenceRelease at h
  try dsimp only at h
  repeat' split at h
  all_goals first
    | (simp only [cannot_next, reduceCtorEq] at h; done)
    | (simp only [Host.Outcome.next.injEq] at h; subst h; first | with_reducible rfl | (simp; done))
    | (simp_all; done)

theorem descRow_mem {kind : Nat × Nat} {id : CmdId} {errs : List ReadErr} {k : Cmd → Mach → Res} {m n : Mach}
    (hr : ∀ c, (m.takeReads errs (m.entryReads c)).mem = m.mem)
    (hk : ∀ c m n, k c m = .next n → n.mem = m.mem) (h : descRow kind id errs k m = .next n) : n.mem = m.mem := by
  unfold descRow at h
  repeat' split at h
  all_goals first
    | (simp only [cannot_next] at h; done)
    | (cases h; rfl)
    | exact (hk _ _ _ h).trans (hr _)

theorem descRow_memW {kind : Nat × Nat} {id : CmdId} {errs : List ReadErr} {k : Cmd → Mach → Res} {m n : Mach}
    (hk : ∀ c m n, Memory.wf m.mem = true → k c m = .next n → Memory.wf n.mem = true)
    (w : Memory.wf m.mem = true) (h : descRow kind id errs k m = .next n) : Memory.wf n.mem = true := by
  unfold descRow at h
  repeat' split at h
  all_goals first
    | (simp only [cannot_next] at h; done)
    | (cases h; exact w)
    | exact hk _ _ _ (Mach.takeReads_memW _ _ _ w) h

@[simp] theorem Mach.linkFault_mem (m : Mach) (a1 : Cmd) (a2 : Nat) : (Mach.linkFault m a1 a2).mem = m.mem := by
  simp [Mach.linkFault]

@[simp] theorem Mach.refuseChecked_mem (m : Mach) (a1 : Cmd) (a2 : Nat × Nat) :
    (Mach.refuseChecked m a1 a2).mem = m.mem := by
  unfold Mach.refuseChecked
  repeat' first | (simp; done) | split

theorem Mach.startOr_mem {m n : Mach} (c : Cmd) (r : Chk Act) (h : m.startOr c r = .next n) : n.mem = m.mem := by
  unfold Mach.startOr at h
  split at h <;> (simp only [Host.Outcome.next.injEq] at h; subst h; simp)

@[simp] theorem Mach.targetReason_mem (m : Mach) (a1 a2 : Nat) : (Mach.targetReason m a1 a2).2.mem = m.mem := by
  unfold Mach.targetReason
  split <;> simp

@[simp] theorem Mach.tryWait_mem (m : Mach) (a1 : Cmd) : (Mach.tryWait m a1).mem = m.mem := by
  simp [Mach.tryWait]

@[simp] theorem Mach.tryWaits_mem (m : Mach) : (Mach.tryWaits m).mem = m.mem := by
  unfold Mach.tryWaits
  exact foldl_mem _ _ (fun m x => by simp) _

theorem waitAllEarlier_memW {n : Mach} (id : CmdId) (m : Mach) (w : Memory.wf m.mem = true)
    (h : waitAllEarlier id m = .next n) : Memory.wf n.mem = true :=
  descRow_memW (fun c m n w h => by cases h; simp [w]) w h

theorem waitCommand_memW {n : Mach} (id : CmdId) (m : Mach) (w : Memory.wf m.mem = true)
    (h : waitCommand id m = .next n) : Memory.wf n.mem = true :=
  descRow_memW (fun c m n w h => by
    split at h <;> (simp only [Host.Outcome.next.injEq] at h; subst h; simp [w])) w h

theorem waitTimeout_mem {n : Mach} (a0 : CmdId) (m : Mach) (h : waitTimeout a0 m = .next n) : n.mem = m.mem := by
  unfold waitTimeout at h
  repeat' split at h
  all_goals first | (simp_all; done) | (simp only [Host.Outcome.next.injEq] at h; simp [← h])

@[simp] theorem Mach.signalVector_memW (m : Mach) (a1 a2 : Nat) (h : Memory.wf m.mem = true) :
    Memory.wf (Mach.signalVector m a1 a2).mem = true := by
  unfold Mach.signalVector
  split <;> simp [h]

@[simp] theorem Mach.signalRing_memW (m : Mach) (a1 : Nat) (h : Memory.wf m.mem = true) :
    Memory.wf (Mach.signalRing m a1).mem = true := by
  simp [Mach.signalRing, h]

@[simp] theorem Mach.recordWritten_memW (m : Mach) (a1 : CmdId) (a2 : Nat) (h : Memory.wf m.mem = true) :
    Memory.wf (Mach.recordWritten m a1 a2).mem = true := by
  simp [Mach.recordWritten, h]

@[simp] theorem Mach.writeRec_memW (m : Mach) (r : Nat) (x : Rec) (h : Memory.wf m.mem = true) :
    Memory.wf (m.writeRec r x).mem = true := by
  unfold Mach.writeRec
  dsimp only
  repeat' first | (simp (maxDischargeDepth := 99) [h]; done) | split

@[simp] theorem Mach.stallAll_mem (m a1) : (Mach.stallAll m a1).mem = m.mem := by
  simp [Mach.stallAll]

@[simp] theorem Mach.readConsumer_mem (m a1) : (Mach.readConsumer m a1).mem = m.mem := by
  simp [Mach.readConsumer]

theorem completionRecord_memW {n : Mach} (a0 : Nat) (m : Mach) (w : Memory.wf m.mem = true)
    (h : completionRecord a0 m = .next n) :
    Memory.wf n.mem = true := by
  unfold completionRecord at h
  try dsimp only at h
  repeat' split at h
  all_goals first
    | (simp only [cannot_next, reduceCtorEq] at h; done)
    | (simp only [Host.Outcome.next.injEq] at h; subst h; first | with_reducible exact w | (simp (maxDischargeDepth := 99) [w]; done))
    | (simp_all; done)

theorem consumerLineUpdate_memW {n : Mach} (a0 : Nat) (a1 : HostRead) (m : Mach) (w : Memory.wf m.mem = true)
    (h : consumerLineUpdate a0 a1 m = .next n) :
    Memory.wf n.mem = true := by
  unfold consumerLineUpdate at h
  try dsimp only at h
  repeat' split at h
  all_goals first
    | (simp only [cannot_next, reduceCtorEq] at h; done)
    | (simp only [Host.Outcome.next.injEq] at h; subst h; first | with_reducible exact w | (simp (maxDischargeDepth := 99) [w]; done))
    | (simp_all; done)

theorem msixModerationTimeout_memW {n : Mach} (a0 : Nat) (m : Mach) (w : Memory.wf m.mem = true)
    (h : msixModerationTimeout a0 m = .next n) :
    Memory.wf n.mem = true := by
  unfold msixModerationTimeout at h
  try dsimp only at h
  repeat' split at h
  all_goals first
    | (simp only [cannot_next, reduceCtorEq] at h; done)
    | (simp only [Host.Outcome.next.injEq] at h; subst h; first | with_reducible exact w | (simp (maxDischargeDepth := 99) [w]; done))
    | (simp_all; done)

end Sys2Proof.Machine
end

