-- ==== Sys2Proof/Laws/FrameItems.lean ====
section
/-! SUPPORT. Memory frames of the work items: `X_mem` says that X leaves memory as it is, `X_memW` that X keeps
memory in its canonical form. -/

namespace Sys2Proof.Machine

open Sys2Proof

@[simp] theorem Act.writeBox_memW (a0 : Act) (m : Mach) (a2 : Nat) (a3 : List Nat) (a4 : Bool) (h :
    Memory.wf m.mem = true) :
    Memory.wf (Act.writeBox a0 m a2 a3 a4).mem = true := by
  unfold Act.writeBox
  repeat' first
    | with_reducible exact h
    | (with_reducible refine foldl_memW _ _ (fun m x h => ?_) _ ?_)
    | (simp (maxDischargeDepth := 99) [h]; done)
    | split
    | dsimp only
  all_goals (simp_all; done)

@[simp] theorem Mach.book_mem (m : Mach) (a1 : Nat) (a2 : Act) (a3 : Raised) :
    (Mach.book m a1 a2 a3).1.mem = m.mem := by
  simp [Mach.book]

@[simp] theorem Act.poisonItem_memW (a0 : Act) (m : Mach) (a2 a3 a4 : Nat) (h : Memory.wf m.mem = true) :
    Memory.wf (Act.poisonItem a0 m a2 a3 a4).1.mem = true := by
  simp [Act.poisonItem, h]

@[simp] theorem productItem_memW (m : Mach) (a1 : Act) (a2 a3 : Nat) (h : Memory.wf m.mem = true) :
    Memory.wf (productItem m a1 a2 a3).1.mem = true := by
  unfold productItem
  repeat' first | (simp [h]; done) | split

@[simp] theorem Mach.tally_mem (m a1 a2 a3) : (Mach.tally m a1 a2 a3).mem = m.mem := by
  simp [Mach.tally]

@[simp] theorem finishProduct_mem (m a1) : (finishProduct m a1).mem = m.mem := by
  unfold finishProduct
  split <;> simp

@[simp] theorem Mach.runFallback_memW (m : Mach) (a1 : Act) (a2 : List (Nat × Nat)) (a3 : Nat) (a4 : Nat × Nat) (h :
    Memory.wf m.mem = true) :
    Memory.wf (Mach.runFallback m a1 a2 a3 a4).mem = true := by
  unfold Mach.runFallback
  repeat' first
    | with_reducible exact h
    | (with_reducible refine foldl_memW _ _ (fun m x h => ?_) _ ?_)
    | (simp (maxDischargeDepth := 99) [h]; done)
    | split
    | dsimp only
  all_goals (simp_all; done)

theorem fallbackItem_memW {n : Mach} (a0 : Nat) (a1 : List ReadErr) (m : Mach) (w : Memory.wf m.mem = true)
    (h : fallbackItem a0 a1 m = .next n) :
    Memory.wf n.mem = true := by
  unfold fallbackItem at h
  try dsimp only at h
  repeat' split at h
  all_goals first
    | (simp only [cannot_next, reduceCtorEq] at h; done)
    | (simp only [Host.Outcome.next.injEq] at h; subst h; first | with_reducible exact w | (simp (maxDischargeDepth := 99) [w]; done))
    | (simp_all; done)

@[simp] theorem Mach.addBackItem_memW (m : Mach) (a1 : Act) (a2 : AddBack) (h : Memory.wf m.mem = true) :
    Memory.wf (Mach.addBackItem m a1 a2).mem = true := by
  unfold Mach.addBackItem
  repeat' first
    | with_reducible exact h
    | (with_reducible refine foldl_memW _ _ (fun m x h => ?_) _ ?_)
    | (simp (maxDischargeDepth := 99) [h]; done)
    | split
    | dsimp only
  all_goals (simp_all; done)

theorem outlierAddBack_memW {n : Mach} (a0 : Nat) (a1 : List ReadErr) (m : Mach) (w : Memory.wf m.mem = true)
    (h : outlierAddBack a0 a1 m = .next n) :
    Memory.wf n.mem = true := by
  unfold outlierAddBack at h
  try dsimp only at h
  repeat' split at h
  all_goals first
    | (simp only [cannot_next, reduceCtorEq] at h; done)
    | (simp only [Host.Outcome.next.injEq] at h; subst h; first | with_reducible exact w | (simp (maxDischargeDepth := 99) [w]; done))
    | (simp_all; done)

@[simp] theorem Act.placeMap_memW (a : Act) (m : Mach) (h : Memory.wf m.mem = true) :
    Memory.wf (a.placeMap m).mem = true := by
  unfold Act.placeMap
  split
  · exact h
  · exact foldl_wr_memW (fun k => clusterAddr k a.cmd.clusterArea.1) (fun _ => a.freeze) (fun _ => false) _ _ h

@[simp] theorem Mach.launchProduct_memW (m : Mach) (a : Act) (h : Memory.wf m.mem = true) :
    Memory.wf (m.launchProduct a).mem = true := by
  unfold Mach.launchProduct
  dsimp only
  split <;> simp [h]

theorem startProduct_memW {n : Mach} (c : Cmd) (m : Mach) (w : Memory.wf m.mem = true)
    (h : startProduct c m = .next n) : Memory.wf n.mem = true := by
  unfold startProduct at h
  split at h <;> (simp only [Host.Outcome.next.injEq] at h; subst h; simp [w])

theorem productF_memW {n : Mach} (id : CmdId) (errs : List ReadErr) (m : Mach) (w : Memory.wf m.mem = true)
    (h : productF id errs m = .next n) : Memory.wf n.mem = true :=
  descRow_memW (fun _ _ _ w h => startProduct_memW _ _ w h) w h

theorem productDx_memW {n : Mach} (id : CmdId) (errs : List ReadErr) (m : Mach) (w : Memory.wf m.mem = true)
    (h : productDx id errs m = .next n) : Memory.wf n.mem = true :=
  descRow_memW (fun _ _ _ w h => startProduct_memW _ _ w h) w h

theorem productDw_memW {n : Mach} (id : CmdId) (errs : List ReadErr) (m : Mach) (w : Memory.wf m.mem = true)
    (h : productDw id errs m = .next n) : Memory.wf n.mem = true :=
  descRow_memW (fun _ _ _ w h => startProduct_memW _ _ w h) w h

@[simp] theorem Act.writePages_memW (a0 : Act) (m : Mach) (a2 : Nat) (a3 : List (Nat × Int)) (a4 : List Nat) (a5 : Bool) (h : Memory.wf m.mem = true) :
    Memory.wf (Act.writePages a0 m a2 a3 a4 a5).mem = true := by
  unfold Act.writePages
  repeat' first
    | with_reducible exact h
    | (with_reducible refine foldl_memW _ _ (fun m x h => ?_) _ ?_)
    | (simp (maxDischargeDepth := 99) [h]; done)
    | split
    | dsimp only
  all_goals (simp_all; done)

@[simp] theorem Act.writeDense_memW (a0 : Act) (m : Mach) (a2 : Nat) (a3 : List Nat) (a4 : Bool) (h :
    Memory.wf m.mem = true) :
    Memory.wf (Act.writeDense a0 m a2 a3 a4).mem = true := by
  simp [Act.writeDense, h]

@[simp] theorem Act.castPoison_memW (a0 : Act) (m : Mach) (a2 : Nat) (h : Memory.wf m.mem = true) :
    Memory.wf (Act.castPoison a0 m a2).mem = true := by
  simp [Act.castPoison, h]

@[simp] theorem castItem_memW (m : Mach) (a1 : Act) (a2 a3 : Nat) (h : Memory.wf m.mem = true) :
    Memory.wf (castItem m a1 a2 a3).1.mem = true := by
  unfold castItem
  repeat' first
    | with_reducible exact h
    | (with_reducible refine foldl_memW _ _ (fun m x h => ?_) _ ?_)
    | (simp (maxDischargeDepth := 99) [h]; done)
    | split
    | dsimp only
  all_goals (simp_all; done)

@[simp] theorem rotateItem_memW (m : Mach) (a1 : Act) (a2 a3 : Nat) (h : Memory.wf m.mem = true) :
    Memory.wf (rotateItem m a1 a2 a3).1.mem = true := by
  unfold rotateItem
  repeat' first
    | with_reducible exact h
    | (with_reducible refine foldl_memW _ _ (fun m x h => ?_) _ ?_)
    | (simp (maxDischargeDepth := 99) [h]; done)
    | split
    | dsimp only
  all_goals (simp_all; done)

@[simp] theorem Mach.scaleMerge_memW (m : Mach) (a1 : Cmd) (a2 : Nat) (a3 : Option Nat) (h : Memory.wf m.mem = true) :
    Memory.wf (Mach.scaleMerge m a1 a2 a3).mem = true := by
  unfold Mach.scaleMerge
  repeat' first
    | with_reducible exact h
    | (with_reducible refine foldl_memW _ _ (fun m x h => ?_) _ ?_)
    | (simp (maxDischargeDepth := 99) [h]; done)
    | split
    | dsimp only
  all_goals (simp_all; done)

@[simp] theorem Mach.launchCast_memW (m a1) (h : Memory.wf m.mem = true) :
    Memory.wf (Mach.launchCast m a1).mem = true := by
  unfold Mach.launchCast
  split <;> simp [h]

theorem castRow_memW {n : Mach} (id : CmdId) (errs : List ReadErr) (m : Mach) (w : Memory.wf m.mem = true)
    (h : castRow id errs m = .next n) : Memory.wf n.mem = true :=
  descRow_memW (fun c m n w h => by
    split at h <;> (simp only [Host.Outcome.next.injEq] at h; subst h; simp [w])) w h

theorem rotateRow_memW {n : Mach} (id : CmdId) (errs : List ReadErr) (m : Mach) (w : Memory.wf m.mem = true)
    (h : rotateRow id errs m = .next n) : Memory.wf n.mem = true :=
  descRow_memW (fun _ _ _ w h => by rw [Mach.startOr_mem _ _ h]; exact w) w h

@[simp] theorem Mach.joinLatch_memW (m : Mach) (a1 : Act) (a2 : Bytes) (h : Memory.wf m.mem = true) :
    Memory.wf (Mach.joinLatch m a1 a2).mem = true := by
  simp [Mach.joinLatch, h]

@[simp] theorem Mach.newLatch_memW (m : Mach) (a1 : Act) (a2 : Bytes) (h : Memory.wf m.mem = true) :
    Memory.wf (Mach.newLatch m a1 a2).mem = true := by
  simp [Mach.newLatch, h]

theorem scaleLatch_memW {n : Mach} (id : CmdId) (errs : List ReadErr) (m : Mach) (w : Memory.wf m.mem = true)
    (h : scaleLatch id errs m = .next n) : Memory.wf n.mem = true := by
  unfold scaleLatch at h
  split at h
  · simp at h
  · split at h
    · simp at h
    · extract_lets c k code ad m1 lost m2 e0 bound e latched ls run seeded at h
      have h2 : Memory.wf m2.mem = true := by simp only [m2, m1]; split <;> simp [w]
      repeat' split at h
      all_goals
        simp only [Host.Outcome.next.injEq] at h
        subst h
        first
          | (simp [h2]; done)
          | (refine Mach.joinLatch_memW _ _ _ ?_; split <;> simp [h2])
          | (refine Mach.newLatch_memW _ _ _ ?_; split <;> simp [h2])

@[simp] theorem finishCast_memW (m : Mach) (a : Act) (h : Memory.wf m.mem = true) :
    Memory.wf (finishCast m a).mem = true := by
  unfold finishCast
  extract_lets c p at_ f1 f2 f3 m1 s x m2 a2 m3 m4 m5
  have hf1 : Memory.wf f1.mem = true := by simp only [f1]; split <;> simp [h]
  have hf2 : Memory.wf f2.mem = true := by simp only [f2]; split <;> simp [hf1]
  have hf3 : Memory.wf f3.mem = true := by simp only [f3]; split <;> simp [hf2]
  have h1 : Memory.wf m1.mem = true := by simp only [m1]; split <;> simp [h]
  have hx : Memory.wf x.1.mem = true := by
    simp only [x]
    repeat' first | (simp (maxDischargeDepth := 99) [h1]; done) | split
  have h3 : Memory.wf m3.mem = true := by simp only [m3, m2]; split <;> simp [hx]
  have h5 : Memory.wf m5.mem = true := by simp only [m5, m4]; split <;> simp [h3]
  split
  · simp [hf3]
  · simp [h5]

@[simp] theorem Mach.finishPlain_mem (m : Mach) (a1 : Act) : (Mach.finishPlain m a1).mem = m.mem := by
  unfold Mach.finishPlain
  split <;> simp

theorem seedWith_memW {n : Mach} (a0 : Bool) (a1 : Cmd) (m : Mach) (w : Memory.wf m.mem = true)
    (h : seedWith a0 a1 m = .next n) :
    Memory.wf n.mem = true := by
  unfold seedWith at h
  repeat' split at h
  all_goals first | (simp_all; done) | (simp only [Host.Outcome.next.injEq] at h; simp [← h, w])

theorem scaleSeed_memW {n : Mach} (id : CmdId) (errs : List ReadErr) (m : Mach) (w : Memory.wf m.mem = true)
    (h : scaleSeed id errs m = .next n) : Memory.wf n.mem = true :=
  descRow_memW (fun _ _ _ w h => seedWith_memW _ _ _ w h) w h

theorem scaleSeedClear_memW {n : Mach} (id : CmdId) (errs : List ReadErr) (m : Mach) (w : Memory.wf m.mem = true)
    (h : scaleSeedClear id errs m = .next n) : Memory.wf n.mem = true :=
  descRow_memW (fun _ _ _ w h => seedWith_memW _ _ _ w h) w h

theorem wideRow_memW {op : Nat} {n : Mach} (id : CmdId) (errs : List ReadErr) (m : Mach)
    (w : Memory.wf m.mem = true) (h : wideRow op id errs m = .next n) : Memory.wf n.mem = true :=
  descRow_memW (fun _ _ _ w h => by rw [Mach.startOr_mem _ _ h]; exact w) w h

@[simp] theorem Act.widePoison_memW (a0 : Act) (m : Mach) (a2 : Nat) (h : Memory.wf m.mem = true) :
    Memory.wf (Act.widePoison a0 m a2).mem = true := by
  unfold Act.widePoison
  repeat' first
    | with_reducible exact h
    | (with_reducible refine foldl_memW _ _ (fun m x h => ?_) _ ?_)
    | (simp (maxDischargeDepth := 99) [h]; done)
    | split
    | dsimp only
  all_goals (simp_all; done)

@[simp] theorem matmulItem_memW (m : Mach) (a1 : Act) (a2 a3 : Nat) (h : Memory.wf m.mem = true) :
    Memory.wf (matmulItem m a1 a2 a3).1.mem = true := by
  unfold matmulItem
  repeat' first
    | with_reducible exact h
    | (with_reducible refine foldl_memW _ _ (fun m x h => ?_) _ ?_)
    | (simp (maxDischargeDepth := 99) [h]; done)
    | split
    | dsimp only
  all_goals (simp_all; done)

@[simp] theorem reduceColsItem_memW (m : Mach) (a1 : Act) (a2 : Nat) (h : Memory.wf m.mem = true) :
    Memory.wf (reduceColsItem m a1 a2).1.mem = true := by
  unfold reduceColsItem
  repeat' first
    | with_reducible exact h
    | (with_reducible refine foldl_memW _ _ (fun m x h => ?_) _ ?_)
    | (simp (maxDischargeDepth := 99) [h]; done)
    | split
    | dsimp only
  all_goals (simp_all; done)

@[simp] theorem wideItem_memW (m : Mach) (a1 : Act) (a2 a3 : Nat) (h : Memory.wf m.mem = true) :
    Memory.wf (wideItem m a1 a2 a3).1.mem = true := by
  unfold wideItem
  repeat' first
    | with_reducible exact h
    | (with_reducible refine foldl_memW _ _ (fun m x h => ?_) _ ?_)
    | (simp (maxDischargeDepth := 99) [h]; done)
    | split
    | dsimp only
  all_goals (simp_all; done)

@[simp] theorem finishWide_memW (m a1) (h : Memory.wf m.mem = true) :
    Memory.wf (finishWide m a1).mem = true := by
  unfold finishWide
  split <;> simp [h]

theorem wideAdd_memW {n : Mach} (id : CmdId) (errs : List ReadErr) (m : Mach) (w : Memory.wf m.mem = true)
    (h : wideAdd id errs m = .next n) : Memory.wf n.mem = true := wideRow_memW _ _ _ w h

theorem wideMul_memW {n : Mach} (id : CmdId) (errs : List ReadErr) (m : Mach) (w : Memory.wf m.mem = true)
    (h : wideMul id errs m = .next n) : Memory.wf n.mem = true := wideRow_memW _ _ _ w h

theorem wideBiasAct_memW {n : Mach} (id : CmdId) (errs : List ReadErr) (m : Mach) (w : Memory.wf m.mem = true)
    (h : wideBiasAct id errs m = .next n) : Memory.wf n.mem = true := wideRow_memW _ _ _ w h

theorem wideRmsnorm_memW {n : Mach} (id : CmdId) (errs : List ReadErr) (m : Mach) (w : Memory.wf m.mem = true)
    (h : wideRmsnorm id errs m = .next n) : Memory.wf n.mem = true := wideRow_memW _ _ _ w h

theorem wideLayernorm_memW {n : Mach} (id : CmdId) (errs : List ReadErr) (m : Mach) (w : Memory.wf m.mem = true)
    (h : wideLayernorm id errs m = .next n) : Memory.wf n.mem = true := wideRow_memW _ _ _ w h

theorem wideSoftmax_memW {n : Mach} (id : CmdId) (errs : List ReadErr) (m : Mach) (w : Memory.wf m.mem = true)
    (h : wideSoftmax id errs m = .next n) : Memory.wf n.mem = true := wideRow_memW _ _ _ w h

theorem wideXent_memW {n : Mach} (id : CmdId) (errs : List ReadErr) (m : Mach) (w : Memory.wf m.mem = true)
    (h : wideXent id errs m = .next n) : Memory.wf n.mem = true := wideRow_memW _ _ _ w h

theorem wideSoftmaxBwd_memW {n : Mach} (id : CmdId) (errs : List ReadErr) (m : Mach) (w : Memory.wf m.mem = true)
    (h : wideSoftmaxBwd id errs m = .next n) : Memory.wf n.mem = true := wideRow_memW _ _ _ w h

theorem wideNormBwd_memW {n : Mach} (id : CmdId) (errs : List ReadErr) (m : Mach) (w : Memory.wf m.mem = true)
    (h : wideNormBwd id errs m = .next n) : Memory.wf n.mem = true := wideRow_memW _ _ _ w h

theorem wideActBwd_memW {n : Mach} (id : CmdId) (errs : List ReadErr) (m : Mach) (w : Memory.wf m.mem = true)
    (h : wideActBwd id errs m = .next n) : Memory.wf n.mem = true := wideRow_memW _ _ _ w h

theorem wideMatmul_memW {n : Mach} (id : CmdId) (errs : List ReadErr) (m : Mach) (w : Memory.wf m.mem = true)
    (h : wideMatmul id errs m = .next n) : Memory.wf n.mem = true := wideRow_memW _ _ _ w h

theorem wideReduceCols_memW {n : Mach} (id : CmdId) (errs : List ReadErr) (m : Mach) (w : Memory.wf m.mem = true)
    (h : wideReduceCols id errs m = .next n) : Memory.wf n.mem = true := wideRow_memW _ _ _ w h

@[simp] theorem Act.poisonOutputs_memW (a0 : Act) (m : Mach) (a2 : Nat) (h : Memory.wf m.mem = true) :
    Memory.wf (Act.poisonOutputs a0 m a2).mem = true := by
  unfold Act.poisonOutputs
  split <;> simp [h]

@[simp] theorem Mach.finish_memW (m a1) (h : Memory.wf m.mem = true) :
    Memory.wf (Mach.finish m a1).mem = true := by
  unfold Mach.finish
  split <;> simp [h]

@[simp] theorem itemEffect_memW (m : Mach) (a1 : Act) (a2 a3 : Nat) (h : Memory.wf m.mem = true) :
    Memory.wf (itemEffect m a1 a2 a3).1.mem = true := by
  unfold itemEffect
  split <;> simp [h]

@[simp] theorem Mach.endItem_memW (m a1 a2 a3 a4) (h : Memory.wf m.mem = true) :
    Memory.wf (Mach.endItem m a1 a2 a3 a4).mem = true := by
  unfold Mach.endItem
  repeat' first
    | with_reducible exact h
    | (with_reducible refine foldl_memW _ _ (fun m x h => ?_) _ ?_)
    | (with_reducible refine foldl_memW_fst _ _ (fun m x h => ?_) _ ?_)
    | (simp (maxDischargeDepth := 99) [h]; done)
    | split
    | dsimp only
  all_goals (simp_all; done)

theorem workItemEnd_memW {n : Mach} (a0 : Nat) (a1 : Spent) (a2 : List ReadErr) (m : Mach) (w :
    Memory.wf m.mem = true) (h : workItemEnd a0 a1 a2 m = .next n) :
    Memory.wf n.mem = true := by
  unfold workItemEnd at h
  repeat' split at h
  all_goals first | (simp_all; done) | (simp only [Host.Outcome.next.injEq] at h; simp [← h, w])

@[simp] theorem Mach.dropWork_mem (m : Mach) (a1 : Cmd) : (Mach.dropWork m a1).mem = m.mem := by
  unfold Mach.dropWork
  exact foldl_mem _ _ (fun m x => by simp) _

@[simp] theorem Act.poisonAll_memW (a : Act) (m : Mach) (h : Memory.wf m.mem = true) :
    Memory.wf (a.poisonAll m).mem = true := by
  unfold Act.poisonAll
  extract_lets c at_ m1 m2 m3
  have h1 : Memory.wf m1.mem = true := foldl_memW _ _ (fun s i h => Act.poisonOutputs_memW _ _ _ h) _ h
  have h2 : Memory.wf m2.mem = true := by simp only [m2]; split <;> simp [h1]
  have h3 : Memory.wf m3.mem = true := by simp only [m3]; split <;> simp [h2]
  split <;> simp [h3]

@[simp] theorem Mach.keepHost_memW (m n : Mach) (h : Memory.wf m.mem = true) (hn : Memory.wf n.mem = true) :
    Memory.wf (m.keepHost n).mem = true := Mach.memOk_keepHost h hn

@[simp] theorem Mach.failHost_memW (m : Mach) (a : Act) (o : Nat) (h : Memory.wf m.mem = true) :
    Memory.wf (m.failHost a o).mem = true := by
  unfold Mach.failHost
  extract_lets c m1 m2 f
  have h1 : Memory.wf m1.mem = true := by
    simp only [m1, Mach.dropWork_mem]
    exact Mach.keepHost_memW _ _ h (Act.poisonAll_memW _ _ h)
  have h2 : Memory.wf m2.mem = true := by
    simp only [m2]
    repeat' first | exact h1 | (simp [h1]; done) | split
  simp [h2]

@[simp] theorem Mach.failStarted_memW (m : Mach) (a1 : CmdId) (h : Memory.wf m.mem = true) :
    Memory.wf (Mach.failStarted m a1).mem = true := by
  unfold Mach.failStarted
  repeat' first | (simp [h]; done) | split

theorem hostChecked_memW {row : CmdId → List ReadErr → Mach → Res} {id : CmdId} {errs : List ReadErr} {m n : Mach}
    (hr : ∀ n, row id errs m = .next n → Memory.wf n.mem = true) (h : hostChecked row id errs m = .next n) :
    Memory.wf n.mem = true := by
  unfold hostChecked at h
  split at h
  · simp only [Host.Outcome.next.injEq] at h
    subst h
    exact Mach.failStarted_memW _ _ (hr _ ‹_›)
  · exact hr _ h

@[simp] theorem Mach.loseItem_memW (m : Mach) (a1 : CmdId) (a2 a3 : Nat) (h : Memory.wf m.mem = true) :
    Memory.wf (Mach.loseItem m a1 a2 a3).mem = true := by
  unfold Mach.loseItem
  split <;> simp [h]

@[simp] theorem Mach.finishFreed_memW (m) (h : Memory.wf m.mem = true) :
    Memory.wf (Mach.finishFreed m).mem = true := by
  unfold Mach.finishFreed
  repeat' first
    | with_reducible exact h
    | (with_reducible refine foldl_memW _ _ (fun m x h => ?_) _ ?_)
    | (with_reducible refine foldl_memW_fst _ _ (fun m x h => ?_) _ ?_)
    | (simp (maxDischargeDepth := 99) [h]; done)
    | split
    | dsimp only
  all_goals (simp_all; done)

@[simp] theorem Mach.loseCluster_memW (m : Mach) (a1 : Nat) (h : Memory.wf m.mem = true) :
    Memory.wf (Mach.loseCluster m a1).mem = true := by
  unfold Mach.loseCluster
  repeat' first
    | with_reducible exact h
    | (with_reducible refine foldl_memW _ _ (fun m x h => ?_) _ ?_)
    | (simp (maxDischargeDepth := 99) [h]; done)
    | split
    | dsimp only
  all_goals (simp_all; done)

theorem counterBind_memW {n : Mach} (id : CmdId) (cluster : Nat) (m : Mach) (w : Memory.wf m.mem = true)
    (h : counterBind id cluster m = .next n) : Memory.wf n.mem = true := by
  unfold counterBind at h
  split at h
  · simp only [Host.Outcome.next.injEq] at h
    subst h
    have hb := bindCounter_mem _ _ _ ‹_›
    exact Mach.finishFreed_memW _ (Mach.loseCluster_memW _ _ (hb ▸ w))
  · rename_i hx
    exact (hx _ h).elim

end Sys2Proof.Machine
end

