-- ==== Sys2Proof/Laws/FrameCopy.lean ====
section
/-! SUPPORT. Memory frames of bounce buffers, reductions, Update units, copies and memory protection: `X_mem` says that X leaves memory as it is, `X_memW` that X keeps
memory in its canonical form. -/

namespace Sys2Proof.Machine

open Sys2Proof

@[simp] theorem Mach.wrPieces_memW (m : Mach) (g f a : Nat) (x : Marked) (h : Memory.wf m.mem = true) :
    Memory.wf (m.wrPieces g f a x).mem = true := by
  induction f generalizing m a x with
  | zero => exact h
  | succ f ih =>
    unfold Mach.wrPieces
    split
    · exact h
    · exact ih _ _ _ (Mach.wr_memW _ _ _ _ h)

@[simp] theorem Mach.wrMarked_memW (m : Mach) (a1 : Nat) (a2 : Marked) (h : Memory.wf m.mem = true) :
    Memory.wf (Mach.wrMarked m a1 a2).mem = true := by
  simp [Mach.wrMarked, h]

@[simp] theorem Mach.countPoisonIn_mem (m : Mach) (a1 : Marked) : (Mach.countPoisonIn m a1).mem = m.mem := by
  simp [Mach.countPoisonIn]

@[simp] theorem Mach.countPoisonOut_mem (m : Mach) (a1 : Marked) : (Mach.countPoisonOut m a1).mem = m.mem := by
  simp [Mach.countPoisonOut]

@[simp] theorem Mach.readFrame_mem (m : Mach) (p k b i : Nat) : (m.readFrame p k b i).2.mem = m.mem := by
  unfold Mach.readFrame
  extract_lets a bad m1
  have h1 : m1.mem = m.mem := by simp only [m1]; split <;> simp
  split <;> simp [h1]

@[simp] theorem Mach.readFrames_mem (m : Mach) (p khm base k n : Nat) : (m.readFrames p khm base k n).2.mem = m.mem := by
  induction n generalizing m k with
  | zero => rfl
  | succ n ih => simp [Mach.readFrames, ih]

@[simp] theorem Mach.writeFrames_memW (m : Mach) (p kmh base k n : Nat) (x : Marked) (h : Memory.wf m.mem = true) :
    Memory.wf (m.writeFrames p kmh base k n x).mem = true := by
  induction n generalizing m k x with
  | zero => exact h
  | succ n ih =>
    unfold Mach.writeFrames
    dsimp only
    refine ih _ _ _ ?_
    split <;> simp [h]

@[simp] theorem Mach.hostRead_mem (m : Mach) (p b o l : Nat) : (m.hostRead p b o l).2.mem = m.mem := by
  unfold Mach.hostRead
  split
  · simp
  · split <;> simp

@[simp] theorem Mach.hostWrite_memW (m : Mach) (p b o : Nat) (x : Marked) (h : Memory.wf m.mem = true) :
    Memory.wf (m.hostWrite p b o x).mem = true := by
  unfold Mach.hostWrite
  split
  · exact h
  · split <;> simp [h]

theorem reduceRow_memW {n : Mach} (id : CmdId) (errs : List ReadErr) (m : Mach) (w : Memory.wf m.mem = true)
    (h : reduceRow id errs m = .next n) : Memory.wf n.mem = true :=
  descRow_memW (fun _ _ _ w h => by rw [Mach.startOr_mem _ _ h]; exact w) w h

@[simp] theorem Mach.sendBlock_mem (m : Mach) (a : Act) (w : ReduceWork) (bay q b : Nat) (inc : Option Block)
    (hits : List BitHit) : (m.sendBlock a w bay q b inc hits).mem = m.mem := by
  unfold Mach.sendBlock
  extract_lets c e m1 m2 links bad w1 last x0 w2 m3 r m4 m5 flg w3 m6
  have h2 : m2.mem = m.mem := by simp [m2, m1]
  have h3 : m3.mem = m.mem := by simp only [m3]; split <;> simp [h2]
  have h4 : m4.mem = m.mem := (foldl_mem _ _ (fun s l => by simp) _).trans h2
  have h6 : m6.mem = m.mem := by simp only [m6, m5]; split <;> simp [h4]
  split
  · simp [h3]
  · simp [h6]

theorem reduceBayBlock_memW {m n : Mach} (a0 a1 a2 a3) (w : Memory.wf m.mem = true) (h : reduceBayBlock a0 a1 a2 a3 m = .next n) :
    Memory.wf n.mem = true := by
  unfold reduceBayBlock at h
  try dsimp only at h
  repeat' split at h
  all_goals first
    | (simp only [cannot_next, reduceCtorEq] at h; done)
    | (simp only [Host.Outcome.next.injEq] at h; subst h; first | with_reducible exact w | (simp (maxDischargeDepth := 99) [w]; done))
    | (simp_all; done)

@[simp] theorem Act.writeBlock_memW (a : Act) (m : Mach) (q b : Nat) (blk : Block) (h : Memory.wf m.mem = true) :
    Memory.wf (a.writeBlock m q b blk).1.mem = true := by
  unfold Act.writeBlock
  extract_lets c out base f ff key x y m1 e
  have h1 : Memory.wf m1.mem = true := foldl_memW _ _ (fun s p h => by
    cases p
    · exact h
    · exact Mach.wr_memW _ _ _ _ h) _ h
  split
  · simp [h]
  · simp [h1]

@[simp] theorem Act.poisonReduction_memW (a : Act) (m : Mach) (h : Memory.wf m.mem = true) :
    Memory.wf (a.poisonReduction m).mem = true :=
  foldl_memW _ _ (fun _ _ h => foldl_memW _ _ (fun _ _ h => Act.writeBlock_memW _ _ _ _ _ h) _ h) _ h

@[simp] theorem Act.writeTable_memW (a0 : Act) (m : Mach) (h : Memory.wf m.mem = true) :
    Memory.wf (Act.writeTable a0 m).mem = true := by
  simp [Act.writeTable, h]

@[simp] theorem Act.writeReport_memW (a0 : Act) (m : Mach) (a2 a3 : Nat) (a4 : Bool) (h : Memory.wf m.mem = true) :
    Memory.wf (Act.writeReport a0 m a2 a3 a4).mem = true := by
  unfold Act.writeReport
  split <;> simp [h]

@[simp] theorem finishReduce_memW (m : Mach) (a1 : Act) (a2 a3 : Nat) (h : Memory.wf m.mem = true) :
    Memory.wf (finishReduce m a1 a2 a3).mem = true := by
  unfold finishReduce
  repeat' first
    | with_reducible exact h
    | (with_reducible refine foldl_memW _ _ (fun m x h => ?_) _ ?_)
    | (simp (maxDischargeDepth := 99) [h]; done)
    | split
    | dsimp only
  all_goals (simp_all; done)

@[simp] theorem Act.finalBlock_memW (a : Act) (m : Mach) (b : Nat) (blk : Block) (h : Memory.wf m.mem = true) :
    Memory.wf (a.finalBlock m b blk).1.mem = true := by
  unfold Act.finalBlock
  extract_lets c x m1 a1 w f s bk
  have h1 : Memory.wf m1.mem = true := foldl_memW_fst _ _ (fun s q h => Act.writeBlock_memW _ _ _ _ _ h) _ h
  split
  · exact h1
  · simp [bk, h1]

theorem importBlocks_memW (is : List (Image × Marked)) (n b : Nat) (x y : Mach × Act) (h : Memory.wf x.1.mem = true)
    (e : importBlocks is n b x = some y) : Memory.wf y.1.mem = true := by
  induction n generalizing b x with
  | zero => simp only [importBlocks, Option.some.injEq] at e; exact e ▸ h
  | succ n ih =>
    unfold importBlocks at e
    split at e
    · cases e
    · exact ih _ _ (Act.finalBlock_memW _ _ _ _ (by simp [h])) e

@[simp] theorem Mach.distribute_memW (m : Mach) (a : Act) (w : ReduceWork) (b : Nat) (blk : Block)
    (h : Memory.wf m.mem = true) : Memory.wf (m.distribute a w b blk).mem = true := by
  unfold Mach.distribute
  extract_lets q a1 x m1
  have h1 : Memory.wf m1.mem = true := by simp [m1, x, h]
  split
  · simp [h1]
  · exact h1

theorem reduceResultBlock_memW {n : Mach} (a0 : CmdId) (m : Mach) (w : Memory.wf m.mem = true)
    (h : reduceResultBlock a0 m = .next n) :
    Memory.wf n.mem = true := by
  unfold reduceResultBlock at h
  try dsimp only at h
  repeat' split at h
  all_goals first
    | (simp only [cannot_next, reduceCtorEq] at h; done)
    | (simp only [Host.Outcome.next.injEq] at h; subst h; first | with_reducible exact w | (simp (maxDischargeDepth := 99) [w]; done))
    | (simp_all; done)

@[simp] theorem finishExport_mem (m : Mach) (a1 : Act) (a2 : Bool) (a3 : Nat) :
    (finishExport m a1 a2 a3).mem = m.mem := by
  simp [finishExport]

theorem exportWith_memW {k : Act → Mach → Res} {errs : List ReadErr} {c : Cmd} {m n : Mach}
    (hk : ∀ a m n, Memory.wf m.mem = true → k a m = .next n → Memory.wf n.mem = true) (w : Memory.wf m.mem = true)
    (h : exportWith k errs c m = .next n) : Memory.wf n.mem = true := by
  unfold exportWith at h
  dsimp only at h
  repeat' split at h
  all_goals first
    | exact hk _ _ _ (Mach.touch_memW _ _ _ w) h
    | (simp only [Host.Outcome.next.injEq] at h; subst h; first | (simp [w]; done) | (split <;> simp [w]))

@[simp] theorem Mach.endBlocks_mem (m a1 a2 a3) : (Mach.endBlocks m a1 a2 a3).mem = m.mem := by
  simp [Mach.endBlocks]

@[simp] theorem Mach.makeDense_memW (m : Mach) (a1 : Act) (h : Memory.wf m.mem = true) :
    Memory.wf (Mach.makeDense m a1).mem = true := by
  simp [Mach.makeDense, h]

theorem exportDense_memW {n : Mach} (id : CmdId) (errs : List ReadErr) (m : Mach) (w : Memory.wf m.mem = true)
    (h : exportDense id errs m = .next n) : Memory.wf n.mem = true :=
  descRow_memW (fun _ _ _ w h => exportWith_memW (fun a m n w h => by
    simp only [Host.Outcome.next.injEq] at h; subst h; simp [w]) w h) w h

@[simp] theorem Mach.makeTopk_memW (m : Mach) (a1 : Act) (h : Memory.wf m.mem = true) :
    Memory.wf (Mach.makeTopk m a1).mem = true := by
  simp [Mach.makeTopk, h]

theorem exportTopk_memW {n : Mach} (id : CmdId) (errs : List ReadErr) (m : Mach) (w : Memory.wf m.mem = true)
    (h : exportTopk id errs m = .next n) : Memory.wf n.mem = true :=
  descRow_memW (fun _ _ _ w h => exportWith_memW (fun a m n w h => by
    simp only [Host.Outcome.next.injEq] at h; subst h; simp [w]) w h) w h

@[simp] theorem Mach.readImages_mem (m : Mach) (p : Nat) (is : List Image) : (m.readImages p is).1.mem = m.mem :=
  foldl_mem_fst _ _ (fun x i => by simp) _

@[simp] theorem Mach.makeImport_memW (m : Mach) (c : Cmd) (a : Act) (is : List Image) (h : Memory.wf m.mem = true) :
    Memory.wf (m.makeImport c a is).mem = true := by
  unfold Mach.makeImport
  extract_lets rd m1 terms
  have h1 : Memory.wf m1.mem = true := by simp [m1, rd, h]
  split
  · simp [h1]
  · split
    · simp [h1]
    · have := importBlocks_memW _ _ _ _ _ h1 ‹_›
      simp [this]

theorem importRow_memW {n : Mach} (id : CmdId) (errs : List ReadErr) (m : Mach) (w : Memory.wf m.mem = true)
    (h : importRow id errs m = .next n) : Memory.wf n.mem = true :=
  descRow_memW (fun c m n w h => by
    repeat' split at h
    all_goals (simp only [Host.Outcome.next.injEq] at h; subst h; simp [w])) w h

@[simp] theorem Mach.bookUpd_mem (m : Mach) (a : Act) (q : Nat) (r : Raised) : (m.bookUpd a q r).1.mem = m.mem := by
  simp [Mach.bookUpd]

@[simp] theorem updateBlock_memW (a0 a1 a2 a3 a4 x a6) (h : Memory.wf x.1.mem = true) :
    Memory.wf (updateBlock a0 a1 a2 a3 a4 x a6).1.mem = true := by
  unfold updateBlock
  repeat' first
    | with_reducible exact h
    | (with_reducible refine foldl_memW _ _ (fun m x h => ?_) _ ?_)
    | (with_reducible refine foldl_memW_fst _ _ (fun m x h => ?_) _ ?_)
    | (simp (maxDischargeDepth := 99) [h]; done)
    | split
    | dsimp only
  all_goals (simp_all; done)

@[simp] theorem UpdEntry.writeRecord_memW (a0 : UpdEntry) (m : Mach) (a2 a3 a4 : Nat) (a5 : Bool)
    (h : Memory.wf m.mem = true) : Memory.wf (UpdEntry.writeRecord a0 m a2 a3 a4 a5).mem = true := by
  unfold UpdEntry.writeRecord
  exact Mach.wr_memW _ _ _ _ h

@[simp] theorem applyShard_memW (e : UpdEntry) (stamp clip n q : Nat) (x : Mach × Act × Shard)
    (h : Memory.wf x.1.mem = true) : Memory.wf (applyShard e stamp clip n q x).1.mem = true := by
  unfold applyShard
  extract_lets first bay eng y m1
  have hy : Memory.wf y.1.mem = true := foldl_memW_fst _ _ (fun _ _ h => updateBlock_memW _ _ _ _ _ _ _ h) _ (by simp [h])
  simp [m1, hy]

@[simp] theorem runShard_memW (b : Bool) (x : Mach × Act × List Shard) (s : Shard) (h : Memory.wf x.1.mem = true) :
    Memory.wf (runShard b x s).1.mem = true := by
  unfold runShard
  dsimp only
  split <;> simp [h]

@[simp] theorem passOne_mem (x : Mach × Act × List Shard) (s : Shard) : (passOne x s).1.mem = x.1.mem := by
  unfold passOne
  extract_lets a w n e j s1 first count eng step y m1
  have hy : y.1.mem = x.1.mem := by
    refine (foldl_mem_fst _ _ (fun z i => ?_) _).trans ?_
    · simp only [step]
      repeat' first | rfl | (simp; done) | split
    · dsimp only
      split <;> simp
  simp only [m1]
  split <;> simp [hy]

@[simp] theorem layerEntry_memW (a0 a1 : Nat) (m : Mach) (a3 : Nat) (a4 : Nat × Nat × Nat) (h :
    Memory.wf m.mem = true) :
    Memory.wf (layerEntry a0 a1 m a3 a4).1.mem = true := by
  unfold layerEntry
  repeat' first
    | with_reducible exact h
    | (with_reducible refine foldl_memW _ _ (fun m x h => ?_) _ ?_)
    | (simp (maxDischargeDepth := 99) [h]; done)
    | split
    | dsimp only
  all_goals (simp_all; done)

@[simp] theorem finishUpdate_memW (m : Mach) (a : Act) (reason detail : Nat) (v : Bool) (h : Memory.wf m.mem = true) :
    Memory.wf (finishUpdate m a reason detail v).mem = true := by
  unfold finishUpdate
  extract_lets c w p e0 n sums bk sumOf skews nonf frz faulted rep m1 lt x m2 m3 m4 m5 m6 m7 every flg
  have h1 : Memory.wf m1.mem = true := by simp only [m1]; split <;> simp [bk, h]
  have hx : Memory.wf x.1.mem = true := by
    simp only [x]
    split
    · exact h1
    · refine foldl_memW_fst _ _ (fun z i h => ?_) _ h1
      simp [h]
  have h2 : Memory.wf m2.mem = true := by simp [m2, hx]
  have h3 : Memory.wf m3.mem = true := by simp only [m3]; split <;> simp [h2]
  have h4 : Memory.wf m4.mem = true := by simp only [m4]; split <;> simp [h3]
  have h5 : Memory.wf m5.mem = true := by simp only [m5]; split <;> simp [h4]
  have h6 : Memory.wf m6.mem = true := by simp only [m6]; split <;> simp [h5]
  have h7 : Memory.wf m7.mem = true := foldl_memW _ _ (fun _ _ h => by simp [h]) _ h6
  simp [h7]

@[simp] theorem runOnePass_memW (m : Mach) (a : Act) (h : Memory.wf m.mem = true) :
    Memory.wf (runOnePass m a).mem = true := by
  unfold runOnePass
  extract_lets w m0 x used s1 m1 s2 a1 r
  have hx : Memory.wf x.1.mem = true := foldl_memW_fst _ _ (fun _ _ h => runShard_memW _ _ _ h) _ (by simp [m0, h])
  simp [m1, s1, hx]

@[simp] theorem runPassOne_memW (m : Mach) (a : Act) (h : Memory.wf m.mem = true) :
    Memory.wf (runPassOne m a).mem = true := by
  unfold runPassOne
  extract_lets w m1 x
  have hx : x.1.mem = m1.mem := foldl_mem_fst _ _ (fun _ _ => passOne_mem _ _) _
  simp [hx, m1, h]

theorem Mach.startUpdate_memW {n : Mach} (m : Mach) (i : Nat) (w : Memory.wf m.mem = true)
    (h : m.startUpdate i = some n) : Memory.wf n.mem = true := by
  unfold Mach.startUpdate at h
  split at h
  · cases h
  · extract_lets r at h
    have hr : Memory.wf r.mem = true := by simp only [r]; split <;> simp [w]
    split at h
    · cases h
    · simp only [Option.some.injEq] at h
      exact h ▸ hr

@[simp] theorem Mach.startUpdates_memW (m : Mach) (h : Memory.wf m.mem = true) :
    Memory.wf m.startUpdates.mem = true := by
  unfold Mach.startUpdates
  extract_lets m1
  have h1 : Memory.wf m1.mem = true := by
    refine foldl_memW _ _ (fun s _ h => ?_) _ h
    split
    · obtain ⟨i, _, hi⟩ := List.exists_of_findSome?_eq_some ‹_›
      exact Mach.startUpdate_memW _ _ h hi
    · exact h
  split <;> simp [h1]

theorem startUpdate_memW {n : Mach} (a0 : Cmd) (m : Mach) (w : Memory.wf m.mem = true)
    (h : startUpdate a0 m = .next n) :
    Memory.wf n.mem = true := by
  unfold startUpdate at h
  repeat' split at h
  all_goals first | (simp_all; done) | (simp only [Host.Outcome.next.injEq] at h; simp [← h, w])

theorem onePassRow_memW {n : Mach} (id : CmdId) (errs : List ReadErr) (m : Mach) (w : Memory.wf m.mem = true)
    (h : onePassRow id errs m = .next n) : Memory.wf n.mem = true :=
  descRow_memW (fun _ _ _ w h => startUpdate_memW _ _ w h) w h

theorem twoPassRow_memW {n : Mach} (id : CmdId) (errs : List ReadErr) (m : Mach) (w : Memory.wf m.mem = true)
    (h : twoPassRow id errs m = .next n) : Memory.wf n.mem = true :=
  descRow_memW (fun _ _ _ w h => startUpdate_memW _ _ w h) w h

@[simp] theorem Mach.endAgreed_memW (m : Mach) (a1 : Act) (a2 : UpdateWork) (a3 a4 : Nat) (h : Memory.wf m.mem = true) :
    Memory.wf (Mach.endAgreed m a1 a2 a3 a4).mem = true := by
  simp [Mach.endAgreed, h]

@[simp] theorem Mach.beginPassTwo_mem (m : Mach) (a1 : Act) (a2 : UpdateWork) :
    (Mach.beginPassTwo m a1 a2).mem = m.mem := by
  simp [Mach.beginPassTwo]

theorem updateAgreement_memW {n : Mach} (a0 : CmdId) (m : Mach) (w : Memory.wf m.mem = true)
    (h : updateAgreement a0 m = .next n) :
    Memory.wf n.mem = true := by
  unfold updateAgreement at h
  repeat' split at h
  all_goals first | (simp_all; done) | (simp only [Host.Outcome.next.injEq] at h; simp [← h, w])

@[simp] theorem Mach.closePassTwo_memW (m : Mach) (a : Act) (h : Memory.wf m.mem = true) :
    Memory.wf (m.closePassTwo a).mem = true := by
  unfold Mach.closePassTwo
  dsimp only
  split <;> simp [h]

@[simp] theorem Mach.passTwo_memW (m : Mach) (a : Act) (w : UpdateWork) (q : Nat) (h : Memory.wf m.mem = true) :
    Memory.wf (m.passTwo a w q).mem = true := by
  unfold Mach.passTwo
  extract_lets n x
  have hx : Memory.wf x.1.mem = true := by
    refine foldl_memW_fst _ _ (fun z s h => ?_) _ h
    dsimp only
    split <;> simp [h]
  simp [hx]

theorem updatePass2_memW {n : Mach} (a0 : CmdId) (a1 : Nat) (a2 : List ReadErr) (m : Mach) (w : Memory.wf m.mem = true)
    (h : updatePass2 a0 a1 a2 m = .next n) :
    Memory.wf n.mem = true := by
  unfold updatePass2 at h
  repeat' split at h
  all_goals first | (simp_all; done) | (simp only [Host.Outcome.next.injEq] at h; simp [← h, w])

@[simp] theorem Mach.resetUnit_memW (m a1) (h : Memory.wf m.mem = true) :
    Memory.wf (Mach.resetUnit m a1).mem = true := by
  unfold Mach.resetUnit
  repeat' first
    | with_reducible exact h
    | (with_reducible refine foldl_memW _ _ (fun m x h => ?_) _ ?_)
    | (with_reducible refine foldl_memW_fst _ _ (fun m x h => ?_) _ ?_)
    | (simp (maxDischargeDepth := 99) [h]; done)
    | split
    | dsimp only
  all_goals (simp_all; done)

theorem lentBind_mem {n : Mach} (a0 : Nat) (m : Mach) (h : lentBind a0 m = .next n) : n.mem = m.mem := by
  unfold lentBind at h
  repeat' split at h
  all_goals first | (simp_all; done) | (simp only [Host.Outcome.next.injEq] at h; simp [← h])

@[simp] theorem Mach.revokePiece_memW (m : Mach) (l : Lent) (h : Memory.wf m.mem = true) :
    Memory.wf (m.revokePiece l).mem = true := by
  unfold Mach.revokePiece
  extract_lets m1 lines m2
  have h2 : Memory.wf m2.mem = true := foldl_memW _ _ (fun s i h => by
    dsimp only
    split
    · simp [h]
    · with_reducible refine foldl_memW _ _ (fun _ _ h => ?_) _ h
      simp [h]) _ h
  simp [h2]

@[simp] theorem Mach.revokeWhere_memW (m : Mach) (f : Lent → Bool) (h : Memory.wf m.mem = true) :
    Memory.wf (m.revokeWhere f).mem = true := foldl_memW _ _ (fun _ _ h => Mach.revokePiece_memW _ _ h) _ h

theorem lentRevoke_memW {n : Mach} (a0 : Nat) (a1 : List ReadErr) (m : Mach) (w : Memory.wf m.mem = true)
    (h : lentRevoke a0 a1 m = .next n) :
    Memory.wf n.mem = true := by
  unfold lentRevoke at h
  repeat' split at h
  all_goals first | (simp_all; done) | (simp only [Host.Outcome.next.injEq] at h; simp [← h, w])

@[simp] theorem Mach.countThrottle_mem (m : Mach) (p : Nat) : (m.countThrottle p).mem = m.mem := by
  unfold Mach.countThrottle
  repeat' first | (simp; done) | split | dsimp only

@[simp] theorem Mach.endCopy_mem (m : Mach) (a : Act) (a2 a3 a4 : Nat) : (m.endCopy a a2 a3 a4).mem = m.mem := by
  unfold Mach.endCopy
  extract_lets mine m1 e m2 m3
  have h2 : m2.mem = m.mem := by simp only [m2, m1]; split <;> simp
  have h3 : m3.mem = m.mem := by simp only [m3]; split <;> simp [h2]
  simp [h3]

theorem foldl_wrPoison_memW (m : Mach) (g : Nat → Nat) (l : List Nat) (k : Nat) (h : Memory.wf m.mem = true) :
    Memory.wf (l.foldl (fun s t => s.wrPoison (g t) k) m).mem = true :=
  foldl_memW _ _ (fun _ _ h => Mach.wrPoison_memW _ _ _ h) _ h

@[simp] theorem Mach.failCopy_memW (m : Mach) (a : Act) (w : CopyWork) (h : Memory.wf m.mem = true) :
    Memory.wf (m.failCopy a w).mem = true := by
  unfold Mach.failCopy
  extract_lets out m1
  rw [Mach.endCopy_mem]
  simp only [m1]
  split
  · exact h
  · split
    · exact foldl_wrPoison_memW m (fun t => w.memberAddr t 0) _ _ h
    · simp [h]

@[simp] theorem Mach.launchCopy_memW (m : Mach) (a : Act) (h : Memory.wf m.mem = true) :
    Memory.wf (m.launchCopy a).mem = true := by
  unfold Mach.launchCopy
  dsimp only
  repeat' first | (simp [h]; done) | split

theorem startCopy_memW {n : Mach} (c : Cmd) (m : Mach) (w : Memory.wf m.mem = true) (h : startCopy c m = .next n) :
    Memory.wf n.mem = true := by
  unfold startCopy at h
  split at h
  · simp only [Host.Outcome.next.injEq] at h; subst h; simp [w]
  · simp only [Host.Outcome.next.injEq] at h; subst h
    split <;> exact Mach.launchCopy_memW _ _ w

theorem copyRow_memW {n : Mach} (id : CmdId) (errs : List ReadErr) (m : Mach) (w : Memory.wf m.mem = true) (h : copyRow id errs m = .next n) :
    Memory.wf n.mem = true := descRow_memW (fun _ _ _ w h => startCopy_memW _ _ w h) w h

theorem multicastRow_memW {n : Mach} (id : CmdId) (errs : List ReadErr) (m : Mach) (w : Memory.wf m.mem = true)
    (h : multicastRow id errs m = .next n) : Memory.wf n.mem = true :=
  descRow_memW (fun _ _ _ w h => startCopy_memW _ _ w h) w h

@[simp] theorem Mach.settleBucket_mem (m : Mach) (a1 a2 a3 : Nat) : (Mach.settleBucket m a1 a2 a3).mem = m.mem := by
  simp [Mach.settleBucket]

@[simp] theorem Mach.setCopy_mem (m : Mach) (a1 : Act) (a2 : CopyWork) : (Mach.setCopy m a1 a2).mem = m.mem := by
  simp [Mach.setCopy]

@[simp] theorem Mach.ageQueue_mem (m a1 a2 a3) : (Mach.ageQueue m a1 a2 a3).mem = m.mem := by
  simp [Mach.ageQueue]

@[simp] theorem Mach.issueTransfer_mem (m : Mach) (a1 : Nat) (a2 : Queue) (a3 : Act) (a4 : CopyWork) (a5 a6 : Nat) (a7 : Option Nat) :
    (Mach.issueTransfer m a1 a2 a3 a4 a5 a6 a7).mem = m.mem := by
  simp [Mach.issueTransfer]

theorem transferIssue_mem {n : Mach} (a0 : Nat) (m : Mach) (h : transferIssue a0 m = .next n) : n.mem = m.mem := by
  unfold transferIssue at h
  try dsimp only at h
  repeat' split at h
  all_goals first
    | (simp only [cannot_next, reduceCtorEq] at h; done)
    | (simp only [Host.Outcome.next.injEq] at h; subst h; first | with_reducible rfl | (simp; done))
    | (simp_all; done)

theorem dryTimeAging_mem {n : Mach} (a0 : Nat) (a1 : CmdId) (m : Mach) (h : dryTimeAging a0 a1 m = .next n) :
    n.mem = m.mem := by
  unfold dryTimeAging at h
  repeat' split at h
  all_goals first | (simp_all; done) | (simp only [Host.Outcome.next.injEq] at h; simp [← h])

@[simp] theorem Mach.fetchBytes_mem (m : Mach) (a1 : Nat) (a2 : CopyWork) (a3 a4 : Nat) :
    (Mach.fetchBytes m a1 a2 a3 a4).2.mem = m.mem := by
  unfold Mach.fetchBytes
  split <;> simp

@[simp] theorem Mach.putBytes_memW (m : Mach) (a1 : Nat) (a2 : CopyWork) (a3 : Option Nat) (a4 : Nat) (a5 : Marked) (h :
    Memory.wf m.mem = true) :
    Memory.wf (Mach.putBytes m a1 a2 a3 a4 a5).mem = true := by
  unfold Mach.putBytes
  repeat' first
    | with_reducible exact h
    | (with_reducible refine foldl_memW _ _ (fun m x h => ?_) _ ?_)
    | (simp (maxDischargeDepth := 99) [h]; done)
    | split
    | dsimp only
  all_goals (simp_all; done)

@[simp] theorem finishCopy_memW (m : Mach) (a1 : Act) (a2 : CopyWork) (h : Memory.wf m.mem = true) :
    Memory.wf (finishCopy m a1 a2).mem = true := by
  unfold finishCopy
  split <;> simp [h]

@[simp] theorem Mach.tryFinishCopy_memW (m : Mach) (a1 : CmdId) (h : Memory.wf m.mem = true) :
    Memory.wf (Mach.tryFinishCopy m a1).mem = true := by
  unfold Mach.tryFinishCopy
  repeat' first | (simp [h]; done) | split

@[simp] theorem Mach.startListed_memW (m a1 a2) (h : Memory.wf m.mem = true) :
    Memory.wf (Mach.startListed m a1 a2).mem = true := by
  unfold Mach.startListed
  repeat' first
    | with_reducible exact h
    | (with_reducible refine foldl_memW _ _ (fun m x h => ?_) _ ?_)
    | (with_reducible refine foldl_memW_fst _ _ (fun m x h => ?_) _ ?_)
    | (simp (maxDischargeDepth := 99) [h]; done)
    | split
    | dsimp only
  all_goals (simp_all; done)

@[simp] theorem Mach.switchToList_memW (m a1 a2) (h : Memory.wf m.mem = true) :
    Memory.wf (Mach.switchToList m a1 a2).mem = true := by
  unfold Mach.switchToList
  repeat' first
    | with_reducible exact h
    | (with_reducible refine foldl_memW _ _ (fun m x h => ?_) _ ?_)
    | (with_reducible refine foldl_memW_fst _ _ (fun m x h => ?_) _ ?_)
    | (simp (maxDischargeDepth := 99) [h]; done)
    | split
    | dsimp only
  all_goals (simp_all; done)

theorem recomputeSwitch_memW {n : Mach} (a0 : CmdId) (m : Mach) (w : Memory.wf m.mem = true)
    (h : recomputeSwitch a0 m = .next n) :
    Memory.wf n.mem = true := by
  unfold recomputeSwitch at h
  repeat' split at h
  all_goals first | (simp_all; done) | (simp only [Host.Outcome.next.injEq] at h; simp [← h, w])

theorem recomputeNext_memW {n : Mach} (a0 : CmdId) (m : Mach) (w : Memory.wf m.mem = true)
    (h : recomputeNext a0 m = .next n) :
    Memory.wf n.mem = true := by
  unfold recomputeNext at h
  repeat' split at h
  all_goals first | (simp_all; done) | (simp only [Host.Outcome.next.injEq] at h; simp [← h, w])

@[simp] theorem Mach.landTransfer_memW (m : Mach) (a1 : Transfer) (a2 : Act) (a3 : CopyWork) (h :
    Memory.wf m.mem = true) :
    Memory.wf (Mach.landTransfer m a1 a2 a3).mem = true := by
  unfold Mach.landTransfer
  split <;> simp [h]

theorem transferDone_memW {n : Mach} (a0 a1 : Nat) (a2 : List ReadErr) (m : Mach) (w : Memory.wf m.mem = true)
    (h : transferDone a0 a1 a2 m = .next n) :
    Memory.wf n.mem = true := by
  unfold transferDone at h
  repeat' split at h
  all_goals first | (simp_all; done) | (simp only [Host.Outcome.next.injEq] at h; simp [← h, w])

theorem multicastDrop_mem {n : Mach} (a0 : CmdId) (a1 : Nat) (m : Mach) (h : multicastDrop a0 a1 m = .next n) :
    n.mem = m.mem := by
  unfold multicastDrop at h
  repeat' split at h
  all_goals first | (simp_all; done) | (simp only [Host.Outcome.next.injEq] at h; simp [← h])

@[simp] theorem Mach.copiesLose_memW (m : Mach) (a1 : Nat) (h : Memory.wf m.mem = true) :
    Memory.wf (Mach.copiesLose m a1).mem = true := by
  unfold Mach.copiesLose
  exact foldl_memW _ _ (fun m x h => by simp [h]) _ h

@[simp] theorem Mach.writeDump_memW (m : Mach) (c : Cmd) (sa base : Nat) (hd data : Marked) (h :
    Memory.wf m.mem = true) :
    Memory.wf (m.writeDump c sa base hd data).mem = true := by
  unfold Mach.writeDump
  split
  · simp [h]
  · exact Mach.hostWrite_memW _ _ _ _ _ (foldl_memW _ _ (fun _ _ h => Mach.hostWrite_memW _ _ _ _ _ h) _ h)

@[simp] theorem Mach.makeDump_memW (m : Mach) (a1 : Cmd) (a2 : Act) (h : Memory.wf m.mem = true) :
    Memory.wf (Mach.makeDump m a1 a2).mem = true := by
  simp [Mach.makeDump, h]

theorem dumpRow_memW {n : Mach} (id : CmdId) (errs : List ReadErr) (m : Mach) (w : Memory.wf m.mem = true)
    (h : dumpRow id errs m = .next n) : Memory.wf n.mem = true :=
  descRow_memW (fun c m n w h => by
    dsimp only at h
    repeat' split at h
    all_goals (simp only [Host.Outcome.next.injEq] at h; subst h; simp [w])) w h

@[simp] theorem Mach.pruneDirty_mem (m) : (Mach.pruneDirty m).mem = m.mem := by
  simp [Mach.pruneDirty]

@[simp] theorem Mach.unplace_mem (m : Mach) (a1 : Placed) : (Mach.unplace m a1).mem = m.mem := by
  simp [Mach.unplace]

@[simp] theorem Mach.writeEntry_memW (m : Mach) (a1 a2 a3 a4 a5 : Nat) (h : Memory.wf m.mem = true) :
    Memory.wf (Mach.writeEntry m a1 a2 a3 a4 a5).mem = true := by
  simp [Mach.writeEntry, h]

@[simp] theorem Mach.placeEntry_memW (m : Mach) (p v : Nat) (h : Memory.wf m.mem = true) :
    Memory.wf (m.placeEntry p v).1.mem = true := by
  unfold Mach.placeEntry
  extract_lets ad e old keep every hint tiers
  clear_value old
  have hk : ∀ s r, Memory.wf (keep s r).mem = true := fun s r => Mach.wr_memW _ _ _ _ h
  clear_value keep
  repeat' first
    | exact h
    | exact hk _ _
    | (simp (maxDischargeDepth := 99) [h]; done)
    | split
    | dsimp only

@[simp] theorem Mach.advanceScrub_mem (m : Mach) (a1 : Nat) : (Mach.advanceScrub m a1).mem = m.mem := by
  simp [Mach.advanceScrub]

theorem scrubLine_mem {n : Mach} (a0 : Nat) (a1 : LineObs) (m : Mach) (h : scrubLine a0 a1 m = .next n) :
    n.mem = m.mem := by
  unfold scrubLine at h
  repeat' split at h
  all_goals first | (simp_all; done) | (simp only [Host.Outcome.next.injEq] at h; simp [← h])

theorem lineWriteBack_memW {n : Mach} (l : Nat) (m : Mach) (w : Memory.wf m.mem = true)
    (h : lineWriteBack l m = .next n) : Memory.wf n.mem = true := by
  unfold lineWriteBack at h
  generalize zerosB 256 = z at h
  split at h
  · simp only [Host.Outcome.next.injEq] at h; subst h; exact w
  · split at h <;> (simp only [Host.Outcome.next.injEq] at h; subst h)
    · exact w
    · exact Memory.wf_setAll _ _ w
    · exact Memory.wf_setAll _ _ w

theorem sramWriteBack_mem {m n : Mach} (a0) (h : sramWriteBack a0 m = .next n) : n.mem = m.mem := by
  unfold sramWriteBack at h
  repeat' split at h
  all_goals first | (simp_all; done) | (simp only [Host.Outcome.next.injEq] at h; simp [← h])

@[simp] theorem Mach.retireDie_mem (m : Mach) (a1 a2 : Nat) : (Mach.retireDie m a1 a2).1.mem = m.mem := by
  unfold Mach.retireDie
  repeat' first
    | with_reducible rfl
    | (with_reducible refine (foldl_mem _ _ (fun m x => ?_) _).trans ?_)
    | (simp; done)
    | split
    | dsimp only
  all_goals (simp_all; done)

@[simp] theorem Mach.clearCounts_mem (m : Mach) : (Mach.clearCounts m).mem = m.mem := by
  simp [Mach.clearCounts]

@[simp] theorem Mach.mailboxAnswer_memW (m a1 a2 a3) (h : Memory.wf m.mem = true) :
    Memory.wf (Mach.mailboxAnswer m a1 a2 a3).mem = true := by
  unfold Mach.mailboxAnswer
  repeat' first
    | with_reducible exact h
    | (with_reducible refine foldl_memW _ _ (fun m x h => ?_) _ ?_)
    | (with_reducible refine foldl_memW_fst _ _ (fun m x h => ?_) _ ?_)
    | (simp (maxDischargeDepth := 99) [h]; done)
    | split
    | dsimp only
  all_goals (simp_all; done)

@[simp] theorem Mach.umporAnswer_mem (m a1 a2 a3 a4) : (Mach.umporAnswer m a1 a2 a3 a4).mem = m.mem := by
  simp [Mach.umporAnswer]

@[simp] theorem Mach.deliver_memW (m a1 a2 a3) (h : Memory.wf m.mem = true) :
    Memory.wf (Mach.deliver m a1 a2 a3).mem = true := by
  unfold Mach.deliver
  split <;> simp [h]

@[simp] theorem Mach.answerOwed_memW (m a1 a2 a3 a4) (h : Memory.wf m.mem = true) :
    Memory.wf (Mach.answerOwed m a1 a2 a3 a4).mem = true := by
  simp [Mach.answerOwed, h]

end Sys2Proof.Machine
end

