-- ==== Sys2Proof/Laws/FramePartition.lean ====
section
/-! SUPPORT. Memory frames of partitions, fencing, the pair and the host link: `X_mem` says that X leaves memory as it is, `X_memW` that X keeps
memory in its canonical form. -/

namespace Sys2Proof.Machine

open Sys2Proof

@[simp] theorem Mach.defaultPart_mem (m : Mach) (a1 : Nat) : (Mach.defaultPart m a1).mem = m.mem := by
  unfold Mach.defaultPart
  exact foldl_mem _ _ (fun m x => by simp) _

@[simp] theorem Mach.finishSession_mem (m : Mach) (a1 : Nat) : (Mach.finishSession m a1).mem = m.mem := by
  simp [Mach.finishSession]

@[simp] theorem Mach.setEpoch_mem (m : Mach) (a1 a2 : Nat) : (Mach.setEpoch m a1 a2).mem = m.mem := by
  simp [Mach.setEpoch]

@[simp] theorem Mach.beginSession_mem (m : Mach) (p : Nat) : (m.beginSession p).mem = m.mem := by
  unfold Mach.beginSession
  extract_lets bs wraps m1
  have h1 : m1.mem = m.mem := foldl_mem _ _ (fun s b => by simp) _
  split
  · rfl
  · split <;> simp [h1]

@[simp] theorem Mach.answerCreator_memW (m : Mach) (a1 : Nat) (h : Memory.wf m.mem = true) :
    Memory.wf (Mach.answerCreator m a1).mem = true := by
  unfold Mach.answerCreator
  split <;> simp [h]

theorem packageBlankRewrite_memW {n : Mach} (b : Nat) (m : Mach) (w : Memory.wf m.mem = true)
    (h : packageBlankRewrite b m = .next n) : Memory.wf n.mem = true := by
  unfold packageBlankRewrite at h
  split at h
  · simp only [cannot_next] at h
  · extract_lets lo m1 left s m2 at h
    have h1 : Memory.wf m1.mem = true := by
      simp only [m1, Mach.setEpoch_mem]
      exact Memory.wf_filter _ w
    have h2 : Memory.wf m2.mem = true := by simp [m2, h1]
    split at h <;> (simp only [Host.Outcome.next.injEq] at h; subst h; simp [h2])

@[simp] theorem Mach.dropCommands_mem (m : Mach) (a1 : Nat) : (Mach.dropCommands m a1).mem = m.mem := by
  simp [Mach.dropCommands]

@[simp] theorem Mach.clearEngines_mem (m : Mach) (a1 : Nat) : (Mach.clearEngines m a1).mem = m.mem := by
  simp [Mach.clearEngines]

@[simp] theorem Mach.clearStores_memW (m : Mach) (bs : List Nat) (h : Memory.wf m.mem = true) :
    Memory.wf (m.clearStores bs).mem = true := by
  unfold Mach.clearStores
  extract_lets m1 s
  have h1 : Memory.wf m1.mem = true := by
    simp only [m1]
    split
    · exact foldl_memW _ _ (fun _ _ h => by simp [h]) _ h
    · exact h
  have hs : Memory.wf s.mem = true := Mach.invalidate_memW _ _ h1
  exact hs

@[simp] theorem Mach.resetPart_memW (m : Mach) (p cause : Nat) (h : Memory.wf m.mem = true) :
    Memory.wf (m.resetPart p cause).mem = true := by
  unfold Mach.resetPart
  extract_lets bs m1 m2 m3 m4 m5 m6 m7 s m8
  have h1 : Memory.wf m1.mem = true := by simp [m1, h]
  have h2 : Memory.wf m2.mem = true := foldl_memW _ _ (fun s j h => by split <;> simp [h]) _ h1
  have h3 : Memory.wf m3.mem = true := foldl_memW _ _ (fun s o h => by simp [h]) _ h2
  have h4 : Memory.wf m4.mem = true := by simp only [m4]; split <;> simp [h3]
  have h5 : Memory.wf m5.mem = true := by simp [m5, h4]
  have h6 : Memory.wf m6.mem = true :=
    Mach.clearStores_memW _ _ (foldl_memW _ _ (fun s b h => by simp [h]) _ h5)
  simp [m8, m7, h6]

@[simp] theorem Mach.partitionReset_memW (m : Mach) (p cause : Nat) (h : Memory.wf m.mem = true) :
    Memory.wf (m.partitionReset p cause).mem = true := by
  unfold Mach.partitionReset
  split
  · exact h
  · dsimp only
    split <;> simp [h]

@[simp] theorem Mach.createPart_memW (m : Mach) (o : Owed) (h : Memory.wf m.mem = true) :
    Memory.wf (m.createPart o).mem = true := by
  unfold Mach.createPart
  extract_lets p bs conf s m1 m2 m3 m4 m5
  have h2 : Memory.wf m2.mem = true := by simp only [m2, m1]; split <;> simp [h]
  have h3 : Memory.wf m3.mem = true := by simp [m3, h2]
  have h4 : Memory.wf m4.mem = true := by simp only [m4]; split <;> simp [h3]
  have h5 : Memory.wf m5.mem = true := by simp [m5, h4]
  split <;> simp [h5]

@[simp] theorem Mach.releasePart_memW (m : Mach) (p : Nat) (h : Memory.wf m.mem = true) :
    Memory.wf (m.releasePart p).mem = true := by
  unfold Mach.releasePart
  extract_lets m1 m2
  have h1 : Memory.wf m1.mem = true := foldl_memW _ _ (fun s j h => by split <;> simp [h]) _ h
  simp [m2, h1]

@[simp] theorem Mach.attest_memW (m a1 a2) (h : Memory.wf m.mem = true) :
    Memory.wf (Mach.attest m a1 a2).1.mem = true := by
  unfold Mach.attest
  repeat' first
    | with_reducible exact h
    | (with_reducible refine foldl_memW _ _ (fun m x h => ?_) _ ?_)
    | (with_reducible refine foldl_memW_fst _ _ (fun m x h => ?_) _ ?_)
    | (simp (maxDischargeDepth := 99) [h]; done)
    | split
    | dsimp only
  all_goals (simp_all; done)

@[simp] theorem Mach.setSlotByte_mem (m : Mach) (c k v : Nat) : (m.setSlotByte c k v).mem = m.mem := by
  simp [Mach.setSlotByte]

@[simp] theorem Mach.markCluster_mem (m : Mach) (c : Nat) : (m.markCluster c).mem = m.mem := by
  unfold Mach.markCluster
  dsimp only
  exact foldl_mem _ _ (fun s k => Mach.setSlotByte_mem s _ _ _) _

@[simp] theorem Mach.markBay_mem (m : Mach) (b : Nat) : (m.markBay b).mem = m.mem := by
  unfold Mach.markBay
  exact (foldl_mem _ _ (fun s k => Mach.markCluster_mem s _) _).trans rfl

@[simp] theorem Mach.failBay_memW (m : Mach) (b cause : Nat) (h : Memory.wf m.mem = true) :
    Memory.wf (m.failBay b cause).mem = true := by
  unfold Mach.failBay
  dsimp only
  rw [Mach.moduleEvent_mem, Mach.alert_mem, Mach.setObj_mem, Mach.markBay_mem, Mach.setBay_mem]
  split
  · simp [h]
  · split <;> simp (maxDischargeDepth := 99) [h]

theorem bayWatchdogRestart_mem {n : Mach} (a0 : Nat) (m : Mach) (h : bayWatchdogRestart a0 m = .next n) :
    n.mem = m.mem := by
  unfold bayWatchdogRestart at h
  repeat' split at h
  all_goals first | (simp_all; done) | (simp only [Host.Outcome.next.injEq] at h; simp [← h])

theorem bayWatchdogExpiry_memW {n : Mach} (a0 : Nat) (m : Mach) (w : Memory.wf m.mem = true)
    (h : bayWatchdogExpiry a0 m = .next n) :
    Memory.wf n.mem = true := by
  unfold bayWatchdogExpiry at h
  repeat' split at h
  all_goals first | (simp_all; done) | (simp only [Host.Outcome.next.injEq] at h; simp [← h, w])

theorem bayStoreUncorrectable_memW {m n : Mach} (a0 a1) (w : Memory.wf m.mem = true) (h : bayStoreUncorrectable a0 a1 m = .next n) :
    Memory.wf n.mem = true := by
  unfold bayStoreUncorrectable at h
  repeat' split at h
  all_goals first | (simp_all; done) | (simp only [Host.Outcome.next.injEq] at h; simp [← h, w])

theorem trngFail_mem {n : Mach} (m : Mach) (h : trngFail m = .next n) : n.mem = m.mem := by
  unfold trngFail at h
  repeat' split at h
  all_goals first | (simp_all; done) | (simp only [Host.Outcome.next.injEq] at h; simp [← h])

@[simp] theorem Mach.addHole_mem (m : Mach) (a1 : Nat) : (Mach.addHole m a1).mem = m.mem := by
  unfold Mach.addHole
  repeat' first
    | with_reducible rfl
    | (with_reducible refine (foldl_mem _ _ (fun m x => ?_) _).trans ?_)
    | (simp; done)
    | split
    | dsimp only
  all_goals (simp_all; done)

@[simp] theorem Mach.loseLent_memW (m : Mach) (a1 : Lent) (h : Memory.wf m.mem = true) :
    Memory.wf (Mach.loseLent m a1).mem = true := by
  unfold Mach.loseLent
  exact foldl_memW _ _ (fun m x h => by simp [h]) _ h

@[simp] theorem Mach.stopRuns_mem (m : Mach) (a1 : Nat) : (Mach.stopRuns m a1).mem = m.mem := by
  unfold Mach.stopRuns
  repeat' first
    | with_reducible rfl
    | (with_reducible refine (foldl_mem _ _ (fun m x => ?_) _).trans ?_)
    | (simp; done)
    | split
    | dsimp only
  all_goals (simp_all; done)

@[simp] theorem Mach.fence_memW (m : Mach) (tile cause : Nat) (h : Memory.wf m.mem = true) :
    Memory.wf (m.fence tile cause).mem = true := by
  unfold Mach.fence
  split
  · exact h
  · extract_lets cl lost m1 m2 m3 m4 m5 m6 prior s7 m7 waiting m8 m9 m10 m11 rings
    have h3 : Memory.wf m3.mem = true := by simp [m3, m2, m1, h]
    have h5 : Memory.wf m5.mem = true := foldl_memW _ _ (fun s l h => Mach.loseLent_memW _ _ h) _ h3
    have h8 : Memory.wf m8.mem = true := by simp [m8, m7, m6, h5]
    have h9 : Memory.wf m9.mem = true := foldl_memW _ _ (fun s r h => Mach.loseItem_memW _ _ _ _ h) _ h8
    have h10 : Memory.wf m10.mem = true := foldl_memW _ _ (fun s r h => Mach.loseItem_memW _ _ _ _ h) _ h9
    have h11 : Memory.wf m11.mem = true := Mach.finishFreed_memW _ (Mach.copiesLose_memW _ _ (Mach.loseCluster_memW _ _ h10))
    simp [h11]

theorem tileWatchdogRestart_mem {n : Mach} (a0 : Nat) (m : Mach) (h : tileWatchdogRestart a0 m = .next n) :
    n.mem = m.mem := by
  unfold tileWatchdogRestart at h
  repeat' split at h
  all_goals first | (simp_all; done) | (simp only [Host.Outcome.next.injEq] at h; simp [← h])

theorem tileWatchdogExpiry_memW {n : Mach} (a0 : Nat) (m : Mach) (w : Memory.wf m.mem = true)
    (h : tileWatchdogExpiry a0 m = .next n) :
    Memory.wf n.mem = true := by
  unfold tileWatchdogExpiry at h
  try dsimp only at h
  repeat' split at h
  all_goals first
    | (simp only [cannot_next, reduceCtorEq] at h; done)
    | (simp only [Host.Outcome.next.injEq] at h; subst h; first | with_reducible exact w | (simp (maxDischargeDepth := 99) [w]; done))
    | (simp_all; done)

theorem tileSequencerStoreFault_memW {m n : Mach} (a0 a1) (w : Memory.wf m.mem = true) (h : tileSequencerStoreFault a0 a1 m = .next n) :
    Memory.wf n.mem = true := by
  unfold tileSequencerStoreFault at h
  repeat' split at h
  all_goals first | (simp_all; done) | (simp only [Host.Outcome.next.injEq] at h; simp [← h, w])

theorem sramScrub_memW {m n : Mach} (a0 a1) (w : Memory.wf m.mem = true) (h : sramScrub a0 a1 m = .next n) :
    Memory.wf n.mem = true := by
  unfold sramScrub at h
  repeat' split at h
  all_goals first | (simp_all; done) | (simp only [Host.Outcome.next.injEq] at h; simp [← h, w])

@[simp] theorem Mach.peerWrite_memW (m : Mach) (a1 : Nat) (a2 : Bytes) (h : Memory.wf m.mem = true) :
    Memory.wf (Mach.peerWrite m a1 a2).mem = true := by
  simp [Mach.peerWrite, h]

@[simp] theorem Mach.resumeWrites_memW (m) (h : Memory.wf m.mem = true) :
    Memory.wf (Mach.resumeWrites m).mem = true := by
  simp [Mach.resumeWrites, h]

@[simp] theorem Mach.psState_mem (m : Mach) (a1 : PairState) (a2 : Nat) : (Mach.psState m a1 a2).mem = m.mem := by
  simp [Mach.psState]

@[simp] theorem Mach.dropSeals_mem (m : Mach) : (Mach.dropSeals m).mem = m.mem := by
  unfold Mach.dropSeals
  exact foldl_mem _ _ (fun m x => by simp) _

@[simp] theorem Mach.psBreak_memW (m a1) (h : Memory.wf m.mem = true) :
    Memory.wf (Mach.psBreak m a1).mem = true := by
  simp [Mach.psBreak, h]

@[simp] theorem Mach.psUnpair_memW (m a1) (h : Memory.wf m.mem = true) :
    Memory.wf (Mach.psUnpair m a1).mem = true := by
  simp [Mach.psUnpair, h]

@[simp] theorem Mach.putFragment_memW (m : Mach) (b : Bytes) (h : Memory.wf m.mem = true) :
    Memory.wf (m.putFragment b).mem = true := by
  unfold Mach.putFragment
  generalize 0x21000 = o
  exact Mach.peerWrite_memW _ _ _ (by simp [h])

@[simp] theorem Mach.pumpFragments_memW (m : Mach) (h : Memory.wf m.mem = true) :
    Memory.wf (Mach.pumpFragments m).mem = true := by
  unfold Mach.pumpFragments
  split <;> simp [h]

@[simp] theorem Mach.sendFragments_memW (m : Mach) (a1 : List Bytes) (h : Memory.wf m.mem = true) :
    Memory.wf (Mach.sendFragments m a1).mem = true := by
  simp [Mach.sendFragments, h]

@[simp] theorem Mach.sendClose_memW (m : Mach) (h : Memory.wf m.mem = true) :
    Memory.wf (Mach.sendClose m).mem = true := by
  simp [Mach.sendClose, h]

@[simp] theorem Mach.psFail_memW (m : Mach) (a1 a2 a3 : Nat) (h : Memory.wf m.mem = true) :
    Memory.wf (Mach.psFail m a1 a2 a3).mem = true := by
  unfold Mach.psFail
  repeat' first
    | with_reducible exact h
    | (with_reducible refine foldl_memW _ _ (fun m x h => ?_) _ ?_)
    | (simp (maxDischargeDepth := 99) [h]; done)
    | split
    | dsimp only
  all_goals (simp_all; done)

@[simp] theorem Mach.psFailClose_memW (m : Mach) (a1 a2 : Nat) (h : Memory.wf m.mem = true) :
    Memory.wf (Mach.psFailClose m a1 a2).mem = true := by
  simp [Mach.psFailClose, h]

@[simp] theorem Mach.psBegin_memW (m : Mach) (a1 : Owed) (h : Memory.wf m.mem = true) :
    Memory.wf (Mach.psBegin m a1).mem = true := by
  simp [Mach.psBegin, h]

@[simp] theorem Mach.putRecord_memW (m : Mach) (a1 a2 a3 a4 a5 : Nat) (a6 : Bytes) (a7 : Option Nat) (h :
    Memory.wf m.mem = true) :
    Memory.wf (Mach.putRecord m a1 a2 a3 a4 a5 a6 a7).mem = true := by
  unfold Mach.putRecord
  split <;> simp [h]

@[simp] theorem Mach.trySeal_memW (m : Mach) (id : CmdId) (h : Memory.wf m.mem = true) :
    Memory.wf (m.trySeal id).mem = true := by
  unfold Mach.trySeal
  split
  · exact h
  · split
    · split
      · exact h
      · extract_lets bs x
        have hx : Memory.wf x.1.mem = true := foldl_memW_fst _ _ (fun s b h => by simp [h]) _ h
        split
        · simp [hx]
        · simp [hx]
    · exact h

@[simp] theorem Mach.trySeals_memW (m : Mach) (h : Memory.wf m.mem = true) : Memory.wf m.trySeals.mem = true :=
  foldl_memW _ _ (fun _ _ h => Mach.trySeal_memW _ _ h) _ h

theorem waitSeal_memW {n : Mach} (id : CmdId) (m : Mach) (w : Memory.wf m.mem = true) (h : waitSeal id m = .next n) :
    Memory.wf n.mem = true :=
  descRow_memW (fun c m n w h => by
    split at h <;> (simp only [Host.Outcome.next.injEq] at h; subst h; simp [w])) w h

@[simp] theorem Mach.sealSent_mem (m : Mach) (a1 a2 a3 : Nat) : (Mach.sealSent m a1 a2 a3).mem = m.mem := by
  simp [Mach.sealSent]

@[simp] theorem Mach.trySweep_memW (m : Mach) (h : Memory.wf m.mem = true) :
    Memory.wf (Mach.trySweep m).mem = true := by
  unfold Mach.trySweep
  split <;> simp [h]

@[simp] theorem Mach.psResync_memW (m : Mach) (h : Memory.wf m.mem = true) :
    Memory.wf (Mach.psResync m).mem = true := by
  unfold Mach.psResync
  repeat' first
    | with_reducible exact h
    | (with_reducible refine foldl_memW _ _ (fun m x h => ?_) _ ?_)
    | (simp (maxDischargeDepth := 99) [h]; done)
    | split
    | dsimp only
  all_goals (simp_all; done)

@[simp] theorem Mach.sendLine_memW (m a1 a2) (h : Memory.wf m.mem = true) :
    Memory.wf (Mach.sendLine m a1 a2).mem = true := by
  simp [Mach.sendLine, h]

theorem psSendLine_memW {m n : Mach} (a0 a1) (w : Memory.wf m.mem = true) (h : psSendLine a0 a1 m = .next n) :
    Memory.wf n.mem = true := by
  unfold psSendLine at h
  try dsimp only at h
  repeat' split at h
  all_goals first
    | (simp only [cannot_next, reduceCtorEq] at h; done)
    | (simp only [Host.Outcome.next.injEq] at h; subst h; first | with_reducible exact w | (simp (maxDischargeDepth := 99) [w]; done))
    | (simp_all; done)

theorem acked_memW {m n : Mach} (a0 a1) (w : Memory.wf m.mem = true) (h : acked a0 a1 m = .next n) :
    Memory.wf n.mem = true := by
  unfold acked at h
  try dsimp only at h
  repeat' split at h
  all_goals first
    | (simp only [cannot_next, reduceCtorEq] at h; done)
    | (simp only [Host.Outcome.next.injEq] at h; subst h; first | with_reducible exact w | (simp (maxDischargeDepth := 99) [w]; done))
    | (simp_all; done)

@[simp] theorem Mach.sendAcked_memW (m : Mach) (a1 : Nat) (h : Memory.wf m.mem = true) :
    Memory.wf (Mach.sendAcked m a1).mem = true := by
  simp [Mach.sendAcked, h]

@[simp] theorem Mach.mirrorLine_memW (m : Mach) (a1 : Nat) (a2 : Bytes) (a3 : Bool) (h : Memory.wf m.mem = true) :
    Memory.wf (Mach.mirrorLine m a1 a2 a3).mem = true := by
  unfold Mach.mirrorLine
  split <;> simp [h]

@[simp] theorem Mach.applyRecord_memW (m : Mach) (a1 : Nat) (a2 a3 : Bytes) (h : Memory.wf m.mem = true) :
    Memory.wf (Mach.applyRecord m a1 a2 a3).mem = true := by
  simp [Mach.applyRecord, h]

theorem psApplyRecord_memW {n : Mach} (a0 : Nat) (a1 : Bytes) (m : Mach) (w : Memory.wf m.mem = true)
    (h : psApplyRecord a0 a1 m = .next n) :
    Memory.wf n.mem = true := by
  unfold psApplyRecord at h
  try dsimp only at h
  repeat' split at h
  all_goals first
    | (simp only [cannot_next, reduceCtorEq] at h; done)
    | (simp only [Host.Outcome.next.injEq] at h; subst h; first | with_reducible exact w | (simp (maxDischargeDepth := 99) [w]; done))
    | (simp_all; done)

theorem psAckTimer_memW {n : Mach} (a0 : Nat) (m : Mach) (w : Memory.wf m.mem = true) (h : psAckTimer a0 m = .next n) :
    Memory.wf n.mem = true := by
  unfold psAckTimer at h
  repeat' split at h
  all_goals first | (simp_all; done) | (simp only [Host.Outcome.next.injEq] at h; simp [← h, w])

theorem heartbeat_memW {n : Mach} (m : Mach) (w : Memory.wf m.mem = true) (h : heartbeat m = .next n) :
    Memory.wf n.mem = true := by
  unfold heartbeat at h
  repeat' split at h
  all_goals first | (simp_all; done) | (simp only [Host.Outcome.next.injEq] at h; simp [← h, w])

theorem peerHeartbeat_mem {n : Mach} (a0 : Nat) (m : Mach) (h : peerHeartbeat a0 m = .next n) : n.mem = m.mem := by
  unfold peerHeartbeat at h
  repeat' split at h
  all_goals first | (simp_all; done) | (simp only [Host.Outcome.next.injEq] at h; simp [← h])

theorem psPeerTimeout_memW {m n : Mach} (w : Memory.wf m.mem = true) (h : psPeerTimeout m = .next n) :
    Memory.wf n.mem = true := by
  unfold psPeerTimeout at h
  repeat' split at h
  all_goals first | (simp_all; done) | (simp only [Host.Outcome.next.injEq] at h; simp [← h, w])

theorem psHandshakeTimeout_memW {n : Mach} (m : Mach) (w : Memory.wf m.mem = true)
    (h : psHandshakeTimeout m = .next n) : Memory.wf n.mem = true := by
  unfold psHandshakeTimeout at h
  split at h <;> simp only [Host.Outcome.next.injEq] at h <;> subst h
  · exact w
  · simp only [Mach.psFail_memW, Mach.upTo_mem, w]

@[simp] theorem Mach.psReset_memW (m : Mach) (h : Memory.wf m.mem = true) :
    Memory.wf (Mach.psReset m).mem = true := by
  unfold Mach.psReset
  repeat' first
    | with_reducible exact h
    | (with_reducible refine foldl_memW _ _ (fun m x h => ?_) _ ?_)
    | (simp (maxDischargeDepth := 99) [h]; done)
    | split
    | dsimp only
  all_goals (simp_all; done)

@[simp] theorem Mach.psDisable_memW (m) (h : Memory.wf m.mem = true) :
    Memory.wf (Mach.psDisable m).mem = true := by
  unfold Mach.psDisable
  split <;> simp [h]

theorem psMessage_memW {kind : Nat} {b : Bytes} {m n : Mach} {k : Bytes → Mach → Mach}
    (hk : ∀ x m, Memory.wf m.mem = true → Memory.wf (k x m).mem = true) (w : Memory.wf m.mem = true)
    (h : psMessage kind b m k = .next n) : Memory.wf n.mem = true := by
  unfold psMessage at h
  try dsimp only at h
  repeat' split at h
  all_goals first
    | (simp only [cannot_next] at h; done)
    | (simp only [Host.Outcome.next.injEq] at h; subst h; simp [w]; done)
    | (simp only [Host.Outcome.next.injEq] at h; subst h; exact hk _ _ (by simp [w]))

@[simp] theorem Mach.sendAck_memW (m : Mach) (a1 : Bytes) (h : Memory.wf m.mem = true) :
    Memory.wf (Mach.sendAck m a1).mem = true := by
  simp [Mach.sendAck, h]

theorem hello_memW {n : Mach} (b : Bytes) (m : Mach) (w : Memory.wf m.mem = true) (h : hello b m = .next n) :
    Memory.wf n.mem = true :=
  psMessage_memW (fun x m h => by
    try dsimp only
    repeat' first | exact h | (simp (maxDischargeDepth := 99) [h]; done) | split) w h

@[simp] theorem Mach.primaryReport_memW (m : Mach) (a1 : Bytes) (h : Memory.wf m.mem = true) :
    Memory.wf (Mach.primaryReport m a1).mem = true := by
  simp [Mach.primaryReport, h]

theorem report_memW {n : Mach} (b : Bytes) (m : Mach) (w : Memory.wf m.mem = true) (h : report b m = .next n) :
    Memory.wf n.mem = true :=
  psMessage_memW (fun x m h => by
    try dsimp only
    repeat' first | exact h | (simp (maxDischargeDepth := 99) [h]; done) | split) w h

theorem encap_memW {n : Mach} (b : Bytes) (m : Mach) (w : Memory.wf m.mem = true) (h : encap b m = .next n) :
    Memory.wf n.mem = true :=
  psMessage_memW (fun x m h => by
    try dsimp only
    repeat' first | exact h | (simp (maxDischargeDepth := 99) [h]; done) | split) w h

theorem confirm_memW {n : Mach} (b : Bytes) (m : Mach) (w : Memory.wf m.mem = true) (h : confirm b m = .next n) :
    Memory.wf n.mem = true :=
  psMessage_memW (fun x m h => by
    try dsimp only
    repeat' first | exact h | (simp (maxDischargeDepth := 99) [h]; done) | split) w h

theorem ack_memW {n : Mach} (b : Bytes) (m : Mach) (w : Memory.wf m.mem = true) (h : ack b m = .next n) :
    Memory.wf n.mem = true :=
  psMessage_memW (fun x m h => by
    try dsimp only
    repeat' first | exact h | (simp (maxDischargeDepth := 99) [h]; done) | split) w h

theorem sweepDone_memW {n : Mach} (b : Bytes) (m : Mach) (w : Memory.wf m.mem = true) (h : sweepDone b m = .next n) :
    Memory.wf n.mem = true :=
  psMessage_memW (fun x m h => by
    try dsimp only
    repeat' first | exact h | (simp (maxDischargeDepth := 99) [h]; done) | split) w h

theorem close_memW {n : Mach} (b : Bytes) (m : Mach) (w : Memory.wf m.mem = true) (h : close b m = .next n) :
    Memory.wf n.mem = true :=
  psMessage_memW (fun x m h => by
    try dsimp only
    repeat' first | exact h | (simp (maxDischargeDepth := 99) [h]; done) | split) w h

@[simp] theorem Mach.setLink_mem (m : Mach) (a1 a2 a3 : Nat) : (Mach.setLink m a1 a2 a3).mem = m.mem := by
  simp [Mach.setLink]

@[simp] theorem Mach.retrain_mem (m : Mach) : (Mach.retrain m).mem = m.mem := by
  simp [Mach.retrain]

@[simp] theorem Mach.tryTrain_mem (m : Mach) : (Mach.tryTrain m).mem = m.mem := by
  simp [Mach.tryTrain]

theorem linkUp_mem {n : Mach} (a0 a1 a2 : Nat) (m : Mach) (h : linkUp a0 a1 a2 m = .next n) : n.mem = m.mem := by
  unfold linkUp at h
  repeat' split at h
  all_goals first | (simp_all; done) | (simp only [Host.Outcome.next.injEq] at h; simp [← h])

@[simp] theorem Mach.loseLink_memW (m : Mach) (h : Memory.wf m.mem = true) : Memory.wf m.loseLink.mem = true := by
  unfold Mach.loseLink
  extract_lets up m1 m2 m3 m4
  have h1 : Memory.wf m1.mem = true := by simp [m1, h]
  have h2 : Memory.wf m2.mem = true := by simp [m2, h1]
  have h3 : Memory.wf m3.mem = true := foldl_memW _ _ (fun s x h => by simp [h]) _ h2
  have h4 : Memory.wf m4.mem = true := foldl_memW _ _ (fun s a h => by
    split
    · exact h
    · simp [h]
    · exact h) _ h3
  split
  · rw [Mach.bump_mem]
    exact foldl_memW _ _ (fun s j h => by simp [h]) _ h4
  · exact h1

theorem linkDown_memW {n : Mach} (m : Mach) (w : Memory.wf m.mem = true) (h : linkDown m = .next n) :
    Memory.wf n.mem = true := by
  simp only [linkDown, Host.Outcome.next.injEq] at h
  simp [← h, w]

@[simp] theorem Mach.resetFunction_mem (m : Mach) (a1 : Nat) : (Mach.resetFunction m a1).mem = m.mem := by
  simp [Mach.resetFunction]

@[simp] theorem Mach.resetFunctions_mem (m) : (Mach.resetFunctions m).mem = m.mem := by
  unfold Mach.resetFunctions
  repeat' first
    | with_reducible rfl
    | (with_reducible refine (foldl_mem _ _ (fun m x => ?_) _).trans ?_)
    | (with_reducible refine (foldl_mem_fst _ _ (fun m x => ?_) _).trans ?_)
    | (simp; done)
    | split
    | dsimp only
  all_goals (simp_all; done)

@[simp] theorem Mach.resetPf0_memW (m : Mach) (cause : Nat) (h : Memory.wf m.mem = true) :
    Memory.wf (m.resetPf0 cause).mem = true := by
  unfold Mach.resetPf0
  extract_lets m1 m2
  have h1 : Memory.wf m1.mem = true := foldl_memW _ _ (fun s j h => by simp [h]) _ h
  have h2 : Memory.wf m2.mem = true := foldl_memW _ _ (fun s j h => by simp [h]) _ h1
  rw [Mach.setObj_mem]
  simp [h2]

theorem vfFlr_memW {n : Mach} (vf : Nat) (m : Mach) (w : Memory.wf m.mem = true) (h : vfFlr vf m = .next n) :
    Memory.wf n.mem = true := by
  unfold vfFlr at h
  split at h <;> (simp only [Host.Outcome.next.injEq] at h; subst h)
  · rw [Mach.resetFunction_mem]; exact w
  · exact Mach.partitionReset_memW _ _ _ (by rw [Mach.resetFunction_mem]; exact w)

theorem pf0Flr_memW {n : Mach} (m : Mach) (w : Memory.wf m.mem = true) (h : pf0Flr m = .next n) :
    Memory.wf n.mem = true := by
  unfold pf0Flr at h
  repeat' split at h
  all_goals first | (simp_all; done) | (simp only [Host.Outcome.next.injEq] at h; simp [← h, w])

theorem perstAssert_memW {n : Mach} (m : Mach) (w : Memory.wf m.mem = true) (h : perstAssert m = .next n) :
    Memory.wf n.mem = true := by
  unfold perstAssert at h
  simp only [Host.Outcome.next.injEq] at h
  subst h
  refine Mach.loseLink_memW _ ?_
  split
  · exact Mach.resetPf0_memW _ _ w
  · exact w

theorem perstRelease_mem {n : Mach} (m : Mach) (h : perstRelease m = .next n) : n.mem = m.mem := by
  simp [perstRelease] at h
  simp [← h]

theorem hostReadTimeout_memW {n : Mach} (a0 : CmdId) (m : Mach) (w : Memory.wf m.mem = true)
    (h : hostReadTimeout a0 m = .next n) :
    Memory.wf n.mem = true := by
  unfold hostReadTimeout at h
  repeat' split at h
  all_goals first | (simp_all; done) | (simp only [Host.Outcome.next.injEq] at h; simp [← h, w])

@[simp] theorem Mach.commitHdm_mem (m a1 a2) : (Mach.commitHdm m a1 a2).mem = m.mem := by
  simp [Mach.commitHdm]

theorem hdmCommit_mem {n : Mach} (a0 a1 : Nat) (m : Mach) (h : hdmCommit a0 a1 m = .next n) : n.mem = m.mem := by
  unfold hdmCommit at h
  repeat' split at h
  all_goals first | (simp_all; done) | (simp only [Host.Outcome.next.injEq] at h; simp [← h])

theorem hdmRead_memW {m n : Mach} (a0 a1 a2) (w : Memory.wf m.mem = true) (h : hdmRead a0 a1 a2 m = .next n) :
    Memory.wf n.mem = true := by
  unfold hdmRead at h
  repeat' split at h
  all_goals first | (simp_all; done) | (simp only [Host.Outcome.next.injEq] at h; simp [← h, w])

theorem hdmWrite_memW {n : Mach} (a0 : Nat) (a1 : Bytes) (a2 : Bool) (a3 : List ReadErr) (m : Mach)
    (w : Memory.wf m.mem = true) (h : hdmWrite a0 a1 a2 a3 m = .next n) :
    Memory.wf n.mem = true := by
  unfold hdmWrite at h
  repeat' split at h
  all_goals first | (simp_all; done) | (simp only [Host.Outcome.next.injEq] at h; simp [← h, w])

@[simp] theorem Mach.readComponent_mem (m a1) : (Mach.readComponent m a1).2.mem = m.mem := by
  unfold Mach.readComponent
  repeat' first
    | with_reducible rfl
    | (with_reducible refine (foldl_mem _ _ (fun m x => ?_) _).trans ?_)
    | (with_reducible refine (foldl_mem_fst _ _ (fun m x => ?_) _).trans ?_)
    | (simp; done)
    | split
    | dsimp only
  all_goals (simp_all; done)

@[simp] theorem Mach.writeComponent_mem (m a1 a2) : (Mach.writeComponent m a1 a2).mem = m.mem := by
  simp [Mach.writeComponent]

theorem handshakeRow_memW {m n : Mach} (w : Memory.wf m.mem = true) (h : handshakeRow m = .next n) :
    Memory.wf n.mem = true := by
  unfold handshakeRow at h
  dsimp only at h
  split at h
  · exact hello_memW _ _ w h
  · exact report_memW _ _ w h
  · exact encap_memW _ _ w h
  · exact confirm_memW _ _ w h
  · exact sweepDone_memW _ _ w h
  · exact close_memW _ _ w h
  · exact ack_memW _ _ w h
  · simp only [Host.Outcome.next.injEq] at h
    exact h ▸ w

theorem writeWindowReg_memW {m n : Mach} (off : Nat) (b : Bytes) (w : Memory.wf m.mem = true)
    (h : writeWindowReg off b m = .next n) : Memory.wf n.mem = true := by
  unfold writeWindowReg at h
  dsimp only at h
  repeat' split at h
  · simp only [Host.Outcome.next.injEq] at h
    exact h ▸ w
  · exact acked_memW _ _ (by simp [w]) h
  · rw [peerHeartbeat_mem _ _ h]
    simp [w]
  · exact handshakeRow_memW (by simp [w]) h
  · simp only [Host.Outcome.next.injEq] at h
    subst h
    simp [w]

end Sys2Proof.Machine
end

