-- ==== Sys2Proof/Laws/FramePlinth.lean ====
section
/-! SUPPORT. Memory frames of power and start-up, the field interface and the register window: `X_mem` says that X leaves memory as it is, `X_memW` that X keeps
memory in its canonical form. -/

namespace Sys2Proof.Machine

open Sys2Proof

@[simp] theorem Mach.powerDown_memW (m : Mach) (h : Memory.wf m.mem = true) : Memory.wf m.powerDown.mem = true := by
  unfold Mach.powerDown
  exact Memory.wf_filter _ h

@[simp] theorem Mach.toOff_memW (m : Mach) (cause : Nat) (h : Memory.wf m.mem = true) :
    Memory.wf (m.toOff cause).mem = true := by
  unfold Mach.toOff
  extract_lets m1 m2
  have h1 : Memory.wf m1.mem = true := by simp only [m1]; split <;> simp [h]
  have h2 : Memory.wf m2.mem = true := by
    simp only [m2]; rw [Mach.setObj_mem, Mach.setObj_mem, Mach.setLink_mem]; exact Mach.powerDown_memW _ h1
  split
  · exact h2
  · rw [Mach.bump_mem, Mach.alert_mem]; exact h2

@[simp] theorem Mach.moduleStart_memW (m : Mach) (h : Memory.wf m.mem = true) : Memory.wf m.moduleStart.mem = true := by
  unfold Mach.moduleStart
  rw [Mach.bump_mem]
  exact Mach.powerDown_memW _ h

@[simp] theorem Mach.beginStage_mem (m : Mach) (a1 : Nat) : (Mach.beginStage m a1).mem = m.mem := by
  simp [Mach.beginStage]

@[simp] theorem Mach.beginS1_mem (m : Mach) : (Mach.beginS1 m).mem = m.mem := by
  simp [Mach.beginS1]

@[simp] theorem Mach.follow_memW (m : Mach) (h : Memory.wf m.mem = true) : Memory.wf m.follow.mem = true := by
  unfold Mach.follow
  repeat' first | exact h | (simp [h]; done) | split

@[simp] theorem Mach.filterIn_mem (m : Mach) (a1 a2 : Nat) : (Mach.filterIn m a1 a2).mem = m.mem := by
  simp [Mach.filterIn]

@[simp] theorem Mach.median_mem (m : Mach) (a1 : List Nat) : (Mach.median m a1).2.mem = m.mem := by
  unfold Mach.median
  split <;> simp

@[simp] theorem Mach.sampleInput_mem (m : Mach) (a1 a2 : Nat) : (Mach.sampleInput m a1 a2).1.mem = m.mem := by
  unfold Mach.sampleInput
  split <;> simp

@[simp] theorem Mach.sampleInputs_mem (m : Mach) (smp : Sample) : (m.sampleInputs smp).1.mem = m.mem := by
  unfold Mach.sampleInputs
  refine foldl_mem_fst _ _ (fun s e => ?_) _
  dsimp only
  split
  · simp
  · rfl

@[simp] theorem Mach.setInput_mem (m : Mach) (a1 a2 : Nat) : (Mach.setInput m a1 a2).mem = m.mem := by
  simp [Mach.setInput]

@[simp] theorem Mach.deriveInputs_mem (m : Mach) (smp : Sample) : (m.deriveInputs smp).mem = m.mem := by
  unfold Mach.deriveInputs
  extract_lets m1 m2 m3 recent s4 m4
  have h1 : m1.mem = m.mem := by simp only [m1]; split <;> simp
  have h2 : m2.mem = m.mem := by simp only [m2]; split <;> simp [h1]
  have h3 : m3.mem = m.mem := (foldl_mem _ _ (fun s c => by split <;> simp) _).trans h2
  simp [m4, h3]

@[simp] theorem Mach.samplePins_mem (m : Mach) (a1 : Sample) : (Mach.samplePins m a1).mem = m.mem := by
  simp [Mach.samplePins]

@[simp] theorem Mach.storeReadings_mem (m : Mach) : (Mach.storeReadings m).mem = m.mem := by
  unfold Mach.storeReadings
  repeat' first
    | with_reducible rfl
    | (with_reducible refine (foldl_mem _ _ (fun m x => ?_) _).trans ?_)
    | (simp; done)
    | split
    | dsimp only
  all_goals (simp_all; done)

@[simp] theorem Mach.addEnergy_mem (m : Mach) : (Mach.addEnergy m).mem = m.mem := by
  simp [Mach.addEnergy]

@[simp] theorem Mach.gatherWindow_mem (m : Mach) : (Mach.gatherWindow m).mem = m.mem := by
  simp [Mach.gatherWindow]

@[simp] theorem Mach.calibrate_mem (m : Mach) (a1 : Sample) : (Mach.calibrate m a1).mem = m.mem := by
  simp [Mach.calibrate]

@[simp] theorem Mach.loadRules_mem (m : Mach) : (Mach.loadRules m).mem = m.mem := by
  simp [Mach.loadRules]

@[simp] theorem Mach.setRuleRun_mem (m : Mach) (a1 : Nat) (a2 : RuleRun) : (Mach.setRuleRun m a1 a2).mem = m.mem := by
  simp [Mach.setRuleRun]

@[simp] theorem Mach.stepRule_mem (m : Mach) (a1 : List Nat) (a2 : Nat) : (Mach.stepRule m a1 a2).1.mem = m.mem := by
  unfold Mach.stepRule
  repeat' first
    | with_reducible rfl
    | (with_reducible refine (foldl_mem _ _ (fun m x => ?_) _).trans ?_)
    | (simp; done)
    | split
    | dsimp only
  all_goals (simp_all; done)

@[simp] theorem Mach.stepRules_mem (m : Mach) (l : List Nat) : (m.stepRules l).1.mem = m.mem :=
  foldl_mem_fst _ _ (fun s n => by simp) _

@[simp] theorem Mach.applyRules_memW (m : Mach) (l : List Nat) (h : Memory.wf m.mem = true) :
    Memory.wf (m.applyRules l).mem = true := by
  unfold Mach.applyRules
  split
  · exact Mach.toOff_memW _ _ h
  · extract_lets acts m1 pl m2 m3
    have h1 : Memory.wf m1.mem = true := by simp only [m1]; split <;> simp [h]
    have h2 : Memory.wf m2.mem = true := by simp only [m2]; split <;> simp [h1]
    have h3 : Memory.wf m3.mem = true := foldl_memW _ _ (fun s b h => by simp [h]) _ h2
    exact Mach.follow_memW _ (foldl_memW _ _ (fun s b h => by simp [h]) _ h3)

theorem plinthSample_memW {n : Mach} (smp : Sample) (m : Mach) (w : Memory.wf m.mem = true)
    (h : plinthSample smp m = .next n) : Memory.wf n.mem = true := by
  unfold plinthSample at h
  split at h <;> (simp only [Host.Outcome.next.injEq] at h; subst h)
  · exact w
  · exact Mach.applyRules_memW _ _ (by simp [w])

theorem inputRemoved_memW {n : Mach} (m : Mach) (w : Memory.wf m.mem = true) (h : inputRemoved m = .next n) :
    Memory.wf n.mem = true := by
  unfold inputRemoved at h
  simp only [Host.Outcome.next.injEq] at h
  subst h
  exact Memory.wf_filter _ w

theorem modEnHigh_memW {n : Mach} (m : Mach) (w : Memory.wf m.mem = true) (h : modEnHigh m = .next n) :
    Memory.wf n.mem = true := by
  simp only [modEnHigh, Host.Outcome.next.injEq] at h
  simp [← h, w]

theorem efuseTrip_memW {n : Mach} (m : Mach) (w : Memory.wf m.mem = true) (h : efuseTrip m = .next n) :
    Memory.wf n.mem = true := by
  simp only [efuseTrip, Host.Outcome.next.injEq] at h
  simp [← h, w]

theorem droopDetect_mem {n : Mach} (a0 : Nat) (m : Mach) (h : droopDetect a0 m = .next n) : n.mem = m.mem := by
  unfold droopDetect at h
  try dsimp only at h
  repeat' split at h
  all_goals first
    | (simp only [cannot_next, reduceCtorEq] at h; done)
    | (simp only [Host.Outcome.next.injEq] at h; subst h; first | with_reducible rfl | (simp; done))
    | (simp_all; done)

theorem droopRelease_mem {n : Mach} (a0 : Nat) (m : Mach) (h : droopRelease a0 m = .next n) : n.mem = m.mem := by
  unfold droopRelease at h
  try dsimp only at h
  repeat' split at h
  all_goals first
    | (simp only [cannot_next, reduceCtorEq] at h; done)
    | (simp only [Host.Outcome.next.injEq] at h; subst h; first | with_reducible rfl | (simp; done))
    | (simp_all; done)

@[simp] theorem Mach.setLevel_memW (m a1 a2) (h : Memory.wf m.mem = true) :
    Memory.wf (Mach.setLevel m a1 a2).mem = true := by
  unfold Mach.setLevel
  repeat' first
    | with_reducible exact h
    | (with_reducible refine foldl_memW _ _ (fun m x h => ?_) _ ?_)
    | (with_reducible refine foldl_memW_fst _ _ (fun m x h => ?_) _ ?_)
    | (simp (maxDischargeDepth := 99) [h]; done)
    | split
    | dsimp only
  all_goals (simp_all; done)

theorem governorInterval_memW {m n : Mach} (a0) (w : Memory.wf m.mem = true) (h : governorInterval a0 m = .next n) :
    Memory.wf n.mem = true := by
  unfold governorInterval at h
  repeat' split at h
  all_goals first | (simp_all; done) | (simp only [Host.Outcome.next.injEq] at h; simp [← h, w])

theorem pllUnlock_mem {n : Mach} (a0 : Nat) (m : Mach) (h : pllUnlock a0 m = .next n) : n.mem = m.mem := by
  unfold pllUnlock at h
  try dsimp only at h
  repeat' split at h
  all_goals first
    | (simp only [cannot_next, reduceCtorEq] at h; done)
    | (simp only [Host.Outcome.next.injEq] at h; subst h; first | with_reducible rfl | (simp; done))
    | (simp_all; done)

theorem pllRelock_memW {n : Mach} (a0 : Nat) (m : Mach) (w : Memory.wf m.mem = true) (h : pllRelock a0 m = .next n) :
    Memory.wf n.mem = true := by
  unfold pllRelock at h
  repeat' split at h
  all_goals first | (simp_all; done) | (simp only [Host.Outcome.next.injEq] at h; simp [← h, w])

theorem pllLockTimeout_memW {n : Mach} (a0 : Nat) (m : Mach) (w : Memory.wf m.mem = true)
    (h : pllLockTimeout a0 m = .next n) :
    Memory.wf n.mem = true := by
  unfold pllLockTimeout at h
  repeat' split at h
  all_goals first | (simp_all; done) | (simp only [Host.Outcome.next.injEq] at h; simp [← h, w])

theorem bSleep_mem {n : Mach} (a0 : Nat) (m : Mach) (h : bSleep a0 m = .next n) : n.mem = m.mem := by
  unfold bSleep at h
  repeat' split at h
  all_goals first | (simp_all; done) | (simp only [Host.Outcome.next.injEq] at h; simp [← h])

theorem bOff_memW {m n : Mach} (a0) (w : Memory.wf m.mem = true) (h : bOff a0 m = .next n) :
    Memory.wf n.mem = true := by
  unfold bOff at h
  try dsimp only at h
  repeat' split at h
  all_goals first
    | (simp only [cannot_next, reduceCtorEq] at h; done)
    | (simp only [Host.Outcome.next.injEq] at h; subst h; first | with_reducible exact w | (simp (maxDischargeDepth := 99) [w]; done))
    | (simp_all; done)

theorem bayWakeStart_mem {n : Mach} (a0 : Nat) (m : Mach) (h : bayWakeStart a0 m = .next n) : n.mem = m.mem := by
  unfold bayWakeStart at h
  repeat' split at h
  all_goals first | (simp_all; done) | (simp only [Host.Outcome.next.injEq] at h; simp [← h])

theorem bayWakeDone_memW {n : Mach} (a0 : Nat) (m : Mach) (w : Memory.wf m.mem = true)
    (h : bayWakeDone a0 m = .next n) :
    Memory.wf n.mem = true := by
  unfold bayWakeDone at h
  try dsimp only at h
  repeat' split at h
  all_goals first
    | (simp only [cannot_next, reduceCtorEq] at h; done)
    | (simp only [Host.Outcome.next.injEq] at h; subst h; first | with_reducible exact w | (simp (maxDischargeDepth := 99) [w]; done))
    | (simp_all; done)

theorem standbyDrainTimeout_memW {n : Mach} (m : Mach) (w : Memory.wf m.mem = true)
    (h : standbyDrainTimeout m = .next n) : Memory.wf n.mem = true := by
  unfold standbyDrainTimeout at h
  split at h <;> (simp only [Host.Outcome.next.injEq] at h; subst h)
  · exact w
  · exact foldl_memW _ _ (fun s p h => by split <;> simp [h]) _ w

theorem standbyEntry_memW {n : Mach} (m : Mach) (w : Memory.wf m.mem = true) (h : standbyEntry m = .next n) :
    Memory.wf n.mem = true := by
  unfold standbyEntry at h
  split at h <;> (simp only [Host.Outcome.next.injEq] at h; subst h)
  · exact w
  · rw [Mach.setObj_mem, Mach.setLink_mem, Mach.setPlinth_mem]
    exact Mach.loseLink_memW _ (Mach.revokeWhere_memW _ _ w)

@[simp] theorem Mach.wakeUp_memW (m : Mach) (h : Memory.wf m.mem = true) : Memory.wf m.wakeUp.mem = true := by
  unfold Mach.wakeUp
  extract_lets m1 pl m2
  have h1 : Memory.wf m1.mem = true := by
    simp only [m1]; rw [Mach.setObj_mem]; exact Mach.clearStores_memW _ _ h
  have h2 : Memory.wf m2.mem = true := h1
  rw [Mach.settle_mem, Mach.tryTrain_mem]
  exact foldl_memW _ _ (fun s b h => by split <;> simp [h]) _ h2

theorem standbyWakeDone_memW {n : Mach} (a0 : Bool) (m : Mach) (w : Memory.wf m.mem = true)
    (h : standbyWakeDone a0 m = .next n) :
    Memory.wf n.mem = true := by
  unfold standbyWakeDone at h
  repeat' split at h
  all_goals first | (simp_all; done) | (simp only [Host.Outcome.next.injEq] at h; simp [← h, w])

theorem inputApplied_mem {n : Mach} (m : Mach) (h : inputApplied m = .next n) : n.mem = m.mem := by
  unfold inputApplied at h
  repeat' split at h
  all_goals first | (simp_all; done) | (simp only [Host.Outcome.next.injEq] at h; simp [← h])

@[simp] theorem Mach.probeAddress_mem (m : Mach) : (Mach.probeAddress m).mem = m.mem := by
  simp [Mach.probeAddress]

theorem icmpv6Echo_mem {n : Mach} (a0 : Frame) (m : Mach) (h : icmpv6Echo a0 m = .next n) : n.mem = m.mem := by
  unfold icmpv6Echo at h
  repeat' split at h
  all_goals first | (simp_all; done) | (simp only [Host.Outcome.next.injEq] at h; simp [← h])

theorem neighbourDiscovery_mem {n : Mach} (a0 : NdMessage) (m : Mach) (h : neighbourDiscovery a0 m = .next n) :
    n.mem = m.mem := by
  unfold neighbourDiscovery at h
  repeat' split at h
  all_goals first | (simp_all; done) | (simp only [Host.Outcome.next.injEq] at h; simp [← h])

@[simp] theorem Mach.countRx_mem (m a1) : (Mach.countRx m a1).mem = m.mem := by
  simp [Mach.countRx]

@[simp] theorem Mach.takeRequest_mem (m a1) : (Mach.takeRequest m a1).mem = m.mem := by
  unfold Mach.takeRequest
  repeat' first
    | with_reducible rfl
    | (with_reducible refine (foldl_mem _ _ (fun m x => ?_) _).trans ?_)
    | (with_reducible refine (foldl_mem_fst _ _ (fun m x => ?_) _).trans ?_)
    | (simp; done)
    | split
    | dsimp only
  all_goals (simp_all; done)

@[simp] theorem Mach.takeAck_mem (m a1) : (Mach.takeAck m a1).mem = m.mem := by
  simp [Mach.takeAck]

@[simp] theorem Mach.receive_mem (m : Mach) (a1 : Frame) : (Mach.receive m a1).mem = m.mem := by
  simp [Mach.receive]

theorem request_mem {n : Mach} (a0 : Frame) (m : Mach) (h : request a0 m = .next n) : n.mem = m.mem := by
  simp [request] at h
  simp [← h]

theorem noticeAck_mem {n : Mach} (a0 : Frame) (m : Mach) (h : noticeAck a0 m = .next n) : n.mem = m.mem := by
  simp [noticeAck] at h
  simp [← h]

theorem noticeResend_mem {n : Mach} (a0 : Nat) (m : Mach) (h : noticeResend a0 m = .next n) : n.mem = m.mem := by
  unfold noticeResend at h
  repeat' split at h
  all_goals first | (simp_all; done) | (simp only [Host.Outcome.next.injEq] at h; simp [← h])

@[simp] theorem Mach.sendFrame_mem (m : Mach) (a1 : OutFrame) : (Mach.sendFrame m a1).mem = m.mem := by
  simp [Mach.sendFrame]

theorem transmitOpportunity_mem {n : Mach} (m : Mach) (h : transmitOpportunity m = .next n) : n.mem = m.mem := by
  unfold transmitOpportunity at h
  repeat' split at h
  all_goals first | (simp_all; done) | (simp only [Host.Outcome.next.injEq] at h; simp [← h])

theorem plcaBeacon_mem {n : Mach} (a0 : Nat) (m : Mach) (h : plcaBeacon a0 m = .next n) : n.mem = m.mem := by
  unfold plcaBeacon at h
  repeat' split at h
  all_goals first | (simp_all; done) | (simp only [Host.Outcome.next.injEq] at h; simp [← h])

@[simp] theorem Mach.fieldStop_mem (m : Mach) : (Mach.fieldStop m).mem = m.mem := by
  simp [Mach.fieldStop]

@[simp] theorem Mach.fieldReset_mem (m : Mach) : (Mach.fieldReset m).mem = m.mem := by
  simp [Mach.fieldReset]

@[simp] theorem Mach.stageReport_mem (m : Mach) (a1 a2 : Nat) (a3 : Bytes) :
    (Mach.stageReport m a1 a2 a3).mem = m.mem := by
  simp [Mach.stageReport]

@[simp] theorem Mach.haltStart_mem (m : Mach) : (Mach.haltStart m).mem = m.mem := by
  simp [Mach.haltStart]

@[simp] theorem Mach.endStage_mem (m : Mach) (a1 : Nat) (a2 a3 : Bool) (a4 : Bytes) :
    (Mach.endStage m a1 a2 a3 a4).mem = m.mem := by
  simp [Mach.endStage]

theorem stageRow_memW {k : Nat} {e : StageEnd} {body : Mach → Mach} {m n : Mach}
    (hb : ∀ m, Memory.wf m.mem = true → Memory.wf (body m).mem = true) (w : Memory.wf m.mem = true)
    (h : stageRow k e body m = .next n) : Memory.wf n.mem = true := by
  unfold stageRow at h
  split at h
  · simp only [cannot_next] at h
  · simp only [Host.Outcome.next.injEq] at h; subst h; exact hb _ w

@[simp] theorem Mach.dropParts_mem (m : Mach) (a1 a2 : List Nat) : (Mach.dropParts m a1 a2).mem = m.mem := by
  unfold Mach.dropParts
  exact foldl_mem _ _ (fun m x => by simp) _

@[simp] theorem Mach.dropMapped_mem (m : Mach) (c b : List Nat) : (m.dropMapped c b).mem = m.mem := by
  unfold Mach.dropMapped
  with_reducible refine (foldl_mem _ _ (fun s k => ?_) _).trans ?_
  · simp
  · simp

@[simp] theorem Mach.failLink_mem (m : Mach) (l : LinkKind) : (m.failLink l).mem = m.mem := by
  cases l <;> simp only [Mach.failLink]
  · split <;> simp
  · simp
  · simp

theorem s0Plinth_memW {n : Mach} (e : StageEnd) (k : Nat) (m : Mach) (w : Memory.wf m.mem = true)
    (h : s0Plinth e k m = .next n) : Memory.wf n.mem = true :=
  stageRow_memW (fun m h => by
    dsimp only
    split
    · simp [h]
    · exact Mach.follow_memW _ (by simp [h])) w h

theorem s1Rails_memW {n : Mach} (e : StageEnd) (m : Mach) (w : Memory.wf m.mem = true) (h : s1Rails e m = .next n) :
    Memory.wf n.mem = true :=
  stageRow_memW (fun m h => by
    dsimp only
    rw [Mach.endStage_mem]
    split <;> simp [h]) w h

theorem s2Fuses_memW {n : Mach} (e : StageEnd) (f : Fuses) (m : Mach) (w : Memory.wf m.mem = true)
    (h : s2Fuses e f m = .next n) : Memory.wf n.mem = true :=
  stageRow_memW (fun m h => by
    dsimp only
    rw [Mach.endStage_mem, Mach.setFigures_mem, Mach.probeAddress_mem]
    exact h) w h

theorem s3Sram_memW {n : Mach} (e : StageEnd) (b : BadParts) (m : Mach) (w : Memory.wf m.mem = true)
    (h : s3Sram e b m = .next n) : Memory.wf n.mem = true :=
  stageRow_memW (fun m h => by
    dsimp only
    rw [Mach.endStage_mem, Mach.setFigures_mem, Mach.dropParts_mem]
    exact Mach.invalidate_memW _ _ h) w h

@[simp] theorem Mach.mapSlots_mem (m : Mach) : (Mach.mapSlots m).mem = m.mem := by
  unfold Mach.mapSlots
  exact foldl_mem _ _ (fun m x => by simp) _

theorem s4Tiles_memW {n : Mach} (e : StageEnd) (b : BadParts) (m : Mach) (w : Memory.wf m.mem = true)
    (h : s4Tiles e b m = .next n) : Memory.wf n.mem = true :=
  stageRow_memW (fun m h => by
    dsimp only
    rw [Mach.endStage_mem, Mach.setFigures_mem, Mach.mapSlots_mem, Mach.dropParts_mem]
    exact h) w h

theorem s5Armature_memW {n : Mach} (e : StageEnd) (l : List (LinkKind × Nat)) (m : Mach) (w : Memory.wf m.mem = true)
    (h : s5Armature e l m = .next n) : Memory.wf n.mem = true :=
  stageRow_memW (fun m h => by
    dsimp only
    rw [Mach.endStage_mem, Mach.setFigures_mem]
    exact foldl_memW _ _ (fun s x h => by simp [h]) _ h) w h

@[simp] theorem Mach.retireAtStart_mem (m : Mach) (a1 a2 : Nat) : (Mach.retireAtStart m a1 a2).mem = m.mem := by
  simp [Mach.retireAtStart]

@[simp] theorem Mach.retireOne_mem (m a1 a2) : (Mach.retireOne m a1 a2).mem = m.mem := by
  unfold Mach.retireOne
  repeat' first
    | with_reducible rfl
    | (with_reducible refine (foldl_mem _ _ (fun m x => ?_) _).trans ?_)
    | (with_reducible refine (foldl_mem_fst _ _ (fun m x => ?_) _).trans ?_)
    | (simp; done)
    | split
    | dsimp only
  all_goals (simp_all; done)

theorem s6Memory_memW {n : Mach} (e : StageEnd) (x : List (Nat × Nat)) (m : Mach) (w : Memory.wf m.mem = true)
    (h : s6Memory e x m = .next n) : Memory.wf n.mem = true :=
  stageRow_memW (fun m h => by
    extract_lets failed of m1 m2 m3 m4 m5
    have h1 : Memory.wf m1.mem = true := foldl_memW _ _ (fun s b h => by simp [h]) _ h
    have h2 : Memory.wf m2.mem = true := by simp [m2, h1]
    have h4 : Memory.wf m4.mem = true := foldl_memW _ _ (fun s b h => by simp [h]) _ (Memory.wf_filter _ h2)
    rw [Mach.endStage_mem]
    simp only [m5, Mach.setFigures_mem, h4]) w h

theorem s7Host_memW {n : Mach} (e : StageEnd) (m : Mach) (w : Memory.wf m.mem = true) (h : s7Host e m = .next n) :
    Memory.wf n.mem = true := by
  unfold s7Host at h
  split at h
  · simp only [Host.Outcome.next.injEq] at h; subst h; exact w
  · exact stageRow_memW (fun m h => by rw [Mach.endStage_mem]; exact h) w h

theorem s9Ready_memW {n : Mach} (e : StageEnd) (m : Mach) (w : Memory.wf m.mem = true) (h : s9Ready e m = .next n) :
    Memory.wf n.mem = true :=
  stageRow_memW (fun m h => by
    extract_lets loss result bays m1 m2 s3 m3
    refine Mach.follow_memW _ ?_
    rw [Mach.settle_mem]
    refine foldl_memW _ _ (fun s b h => by simp [h]) _ ?_
    simp [m3, m2, m1, h]) w h

@[simp] theorem Mach.recordRefusal_mem (m a1 a2) : (Mach.recordRefusal m a1 a2).mem = m.mem := by
  simp [Mach.recordRefusal]

@[simp] theorem Mach.loadFirmware_mem (m : Mach) (f : FwFetch) : (m.loadFirmware f).1.mem = m.mem := by
  unfold Mach.loadFirmware
  extract_lets waiting s m1
  have h1 : m1.mem = m.mem := by simp only [m1]; split <;> rfl
  split
  · dsimp only
    repeat' first | (simp [h1]; done) | split
  · dsimp only
    rw [Mach.endStage_mem, Mach.dropMapped_mem]
    with_reducible refine (foldl_mem _ _ (fun s t => ?_) _).trans ?_
    · simp
    · simp only [h1]

@[simp] theorem Mach.setMsix_memW (m : Mach) (a1 a2 : Nat) (a3 : MsixEntry) (h : Memory.wf m.mem = true) :
    Memory.wf (Mach.setMsix m a1 a2 a3).mem = true := by
  simp [Mach.setMsix, h]

@[simp] theorem Mach.writeReg_memW (m : Mach) (a1 a2 a3 : Nat) (h : Memory.wf m.mem = true) :
    Memory.wf (Mach.writeReg m a1 a2 a3).mem = true := by
  unfold Mach.writeReg
  repeat' first | (simp [h]; done) | split

end Sys2Proof.Machine
end

