-- ==== Sys2Proof/Laws/FrameDictionary.lean ====
section
/-! SUPPORT. Memory frames of the dictionary's writes and requests: `X_mem` says that X leaves memory as it is, `X_memW` that X keeps
memory in its canonical form. -/

namespace Sys2Proof.Machine

open Sys2Proof

@[simp] theorem accept_mem (m : Mach) : (accept m).1.mem = m.mem := by
  simp [accept]

@[simp] theorem decline_mem (m : Mach) (a1 : Nat) : (decline m a1).1.mem = m.mem := by
  simp [decline]

@[simp] theorem plain_mem (x) : (plain x).1.mem = x.1.mem := by
  simp [plain]

theorem check_memW (m : Mach) (c : List Cond) {init : Mach → Mach}
    (hi : ∀ m, Memory.wf m.mem = true → Memory.wf (init m).mem = true) (h : Memory.wf m.mem = true) :
    Memory.wf (check m c init).1.mem = true := by
  unfold check
  split
  · exact h
  · exact hi _ h

theorem enableWrite_memW (m : Mach) (o i v : Nat) {on off : Mach → Applied}
    (hn : ∀ m, Memory.wf m.mem = true → Memory.wf (on m).1.mem = true)
    (hf : ∀ m, Memory.wf m.mem = true → Memory.wf (off m).1.mem = true) (h : Memory.wf m.mem = true) :
    Memory.wf (enableWrite m o i v on off).1.mem = true := by
  unfold enableWrite
  split
  · exact h
  · split
    · exact hn _ h
    · exact hf _ h

@[simp] theorem Mach.writeScaleEnable_memW (m : Mach) (p v : Nat) (h : Memory.wf m.mem = true) :
    Memory.wf (m.writeScaleEnable p v).1.mem = true := by
  unfold Mach.writeScaleEnable
  extract_lets a n
  refine enableWrite_memW _ _ _ _ (fun m h => check_memW _ _ (fun m h => ?_) h) (fun m h => ?_) h
  · rw [Mach.setObj_mem]; exact Mach.wr_memW _ _ _ _ h
  · split
    · exact h
    · simp [h]

@[simp] theorem Mach.writePlaceEnable_memW (m : Mach) (p v : Nat) (h : Memory.wf m.mem = true) :
    Memory.wf (m.writePlaceEnable p v).1.mem = true := by
  unfold Mach.writePlaceEnable
  extract_lets a n
  refine enableWrite_memW _ _ _ _ (fun m h => check_memW _ _ (fun m h => ?_) h) (fun m h => ?_) h
  · rw [Mach.setObj_mem]; exact foldl_memW _ _ (fun s k h => Mach.wr_memW _ _ _ _ h) _ h
  · split
    · exact h
    · extract_lets os m1
      have h1 : Memory.wf m1.mem = true := foldl_memW _ _ (fun s o h => by simp [h]) _ h
      simp [h1]

@[simp] theorem Mach.startJournal_memW (m : Mach) (a1 : Nat) (h : Memory.wf m.mem = true) :
    Memory.wf (Mach.startJournal m a1).mem = true := by
  simp [Mach.startJournal, h]

@[simp] theorem Mach.writeJEnable_memW (m : Mach) (j v : Nat) (h : Memory.wf m.mem = true) :
    Memory.wf (m.writeJEnable j v).1.mem = true := by
  unfold Mach.writeJEnable
  extract_lets size p r owner taken
  refine enableWrite_memW _ _ _ _ (fun m h => check_memW _ _ (fun m h => ?_) h) (fun m h => ?_) h
  · exact Mach.startJournal_memW _ _ h
  · extract_lets m1 x
    have h1 : Memory.wf m1.mem = true := by simp [m1, h]
    split <;> simp [h1]

@[simp] theorem Mach.startRing_mem (m a1) : (Mach.startRing m a1).mem = m.mem := by
  simp [Mach.startRing]

@[simp] theorem Mach.writeCEnable_memW (m : Mach) (r v : Nat) (h : Memory.wf m.mem = true) :
    Memory.wf (m.writeCEnable r v).1.mem = true := by
  unfold Mach.writeCEnable
  extract_lets size p vec taken
  refine enableWrite_memW _ _ _ _ (fun m h => check_memW _ _ (fun m h => ?_) h) (fun m h => ?_) h
  · simp [h]
  · split <;> simp [h]

@[simp] theorem Mach.writeScrubEnable_memW (m : Mach) (v : Nat) (h : Memory.wf m.mem = true) :
    Memory.wf (m.writeScrubEnable v).1.mem = true := by
  unfold Mach.writeScrubEnable
  refine enableWrite_memW _ _ _ _ (fun m h => ?_) (fun m h => ?_) h
  · rw [accept_mem, Mach.setObj_mem]; exact foldl_memW _ _ (fun s k h => by simp [h]) _ h
  · simp [h]

@[simp] theorem Mach.writeFldEnable_memW (m : Mach) (v : Nat) (h : Memory.wf m.mem = true) :
    Memory.wf (m.writeFldEnable v).1.mem = true := by
  unfold Mach.writeFldEnable
  extract_lets peer
  refine enableWrite_memW _ _ _ _ (fun m h => check_memW _ _ (fun m h => ?_) h) (fun m h => ?_) h <;> simp [h]

@[simp] theorem Mach.writeHdmEnable_memW (m : Mach) (v : Nat) (h : Memory.wf m.mem = true) :
    Memory.wf (m.writeHdmEnable v).1.mem = true := by
  unfold Mach.writeHdmEnable
  extract_lets p a n
  refine enableWrite_memW _ _ _ _ (fun m h => check_memW _ _ (fun m h => ?_) h) (fun m h => ?_) h <;> simp [h]

@[simp] theorem Mach.writePsEnable_memW (m : Mach) (v : Nat) (w : Owed) (h : Memory.wf m.mem = true) :
    Memory.wf (m.writePsEnable v w).1.mem = true := by
  unfold Mach.writePsEnable
  extract_lets role
  refine enableWrite_memW _ _ _ _ (fun m h => ?_) (fun m h => ?_) h
  · split <;> simp [h]
  · simp [h]

theorem Mach.bounceCheck_mem {m n : Mach} (p : Nat) (h : m.bounceCheck p = .ok n) : n.mem = m.mem := by
  unfold Mach.bounceCheck at h
  split at h
  · simp at h
  · dsimp only at h
    split at h
    · simp at h
    · split at h
      · simp at h
      · simp only [Except.ok.injEq] at h
        subst h
        simp

@[simp] theorem Mach.writeBounceEnable_memW (m : Mach) (p v : Nat) (h : Memory.wf m.mem = true) :
    Memory.wf (m.writeBounceEnable p v).1.mem = true := by
  unfold Mach.writeBounceEnable
  refine enableWrite_memW _ _ _ _ (fun m h => ?_) (fun m h => ?_) h
  · split
    · exact h
    · rename_i hb
      simp [Mach.bounceCheck_mem p hb, h]
  · split <;> simp [h]

@[simp] theorem Mach.stopTrace_mem (m : Mach) : m.stopTrace.mem = m.mem := by
  unfold Mach.stopTrace
  extract_lets count m1
  rw [Mach.setObj_mem]
  exact foldl_mem _ _ (fun s b => by simp) _

@[simp] theorem Mach.writeTraceEnable_memW (m : Mach) (v : Nat) (h : Memory.wf m.mem = true) :
    Memory.wf (m.writeTraceEnable v).1.mem = true := by
  unfold Mach.writeTraceEnable
  refine enableWrite_memW _ _ _ _ (fun m h => check_memW _ _ (fun m h => ?_) h) (fun m h => ?_) h <;> simp [h]

@[simp] theorem Mach.traceReset_mem (m : Mach) : (Mach.traceReset m).mem = m.mem := by
  simp [Mach.traceReset]

@[simp] theorem Mach.deletePart_memW (m : Mach) (h : Memory.wf m.mem = true) : Memory.wf m.deletePart.1.mem = true := by
  unfold Mach.deletePart
  extract_lets p m1 m2 m3
  split
  · exact h
  · have h1 : Memory.wf m1.mem = true := by simp [m1, h]
    have h2 : Memory.wf m2.mem = true := foldl_memW _ _ (fun s b h => by split <;> simp [h]) _ h1
    have h3 : Memory.wf m3.mem = true := by
      simp only [m3]
      split <;> simp [h2]
    rw [accept_mem]
    simp [h3]

@[simp] theorem Mach.writeCreate_memW (m : Mach) (a1 : Owed) (h : Memory.wf m.mem = true) :
    Memory.wf (Mach.writeCreate m a1).1.mem = true := by
  unfold Mach.writeCreate
  repeat' first
    | with_reducible exact h
    | (with_reducible refine foldl_memW _ _ (fun m x h => ?_) _ ?_)
    | (simp (maxDischargeDepth := 99) [h]; done)
    | split
    | dsimp only
  all_goals (simp_all; done)

@[simp] theorem Mach.clearFlags_mem (m a1 a2 a3) : (Mach.clearFlags m a1 a2 a3).mem = m.mem := by
  simp [Mach.clearFlags]

@[simp] theorem Mach.clearCause_mem (m a1 a2 a3) : (Mach.clearCause m a1 a2 a3).mem = m.mem := by
  simp [Mach.clearCause]

@[simp] theorem Mach.finishCapture_mem (m : Mach) : (Mach.finishCapture m).mem = m.mem := by
  simp [Mach.finishCapture]

@[simp] theorem Mach.restartCapture_mem (m : Mach) : (Mach.restartCapture m).1.mem = m.mem := by
  unfold Mach.restartCapture
  split <;> simp

@[simp] theorem Mach.writeFence_memW (m : Mach) (a1 : Path) (a2 : Nat) (h : Memory.wf m.mem = true) :
    Memory.wf (Mach.writeFence m a1 a2).1.mem = true := by
  unfold Mach.writeFence
  split <;> simp [h]

@[simp] theorem Mach.writeWindow_mem (m : Mach) (a1 a2 a3 : Nat) : (Mach.writeWindow m a1 a2 a3).1.mem = m.mem := by
  unfold Mach.writeWindow
  repeat' first
    | with_reducible rfl
    | (with_reducible refine (foldl_mem _ _ (fun m x => ?_) _).trans ?_)
    | (simp; done)
    | split
    | dsimp only
  all_goals (simp_all; done)

@[simp] theorem Mach.writeRegulator_mem (m : Mach) (o p v : Nat) : (m.writeRegulator o p v).mem = m.mem := by
  unfold Mach.writeRegulator
  rw [Mach.setObj_mem]
  exact foldl_mem _ _ (fun s b => by simp) _

theorem Applied.memW_ite {c : Prop} [Decidable c] {a b : Applied} (ha : Memory.wf a.1.mem = true)
    (hb : Memory.wf b.1.mem = true) : Memory.wf (if c then a else b).1.mem = true := by
  split <;> assumption

@[simp] theorem plain_fst (x : Mach × Nat) : (plain x).1 = x.1 := rfl

@[simp] theorem Mach.applyObj_memW (m : Mach) (p : Path) (o i v : Nat) (f : Option FwFetch) (w : Owed)
    (h : Memory.wf m.mem = true) : Memory.wf (m.applyObj p o i v f w).1.mem = true := by
  unfold Mach.applyObj
  repeat' with_reducible refine Applied.memW_ite ?_ ?_
  all_goals first
    | (simp (maxDischargeDepth := 20) [h]; done)
    | (split <;> simp [h]; done)

@[simp] theorem Mach.refuseRequest_memW (m : Mach) (a1 : Path) (a2 : Bytes) (a3 : Nat) (h : Memory.wf m.mem = true) :
    Memory.wf (Mach.refuseRequest m a1 a2 a3).mem = true := by
  simp [Mach.refuseRequest, h]

@[simp] theorem Mach.arrive_memW (m : Mach) (a1 : Path) (a2 : Bytes) (a3 : Option FwFetch) (h :
    Memory.wf m.mem = true) :
    Memory.wf (Mach.arrive m a1 a2 a3).mem = true := by
  unfold Mach.arrive
  repeat' first
    | with_reducible exact h
    | (with_reducible refine foldl_memW _ _ (fun m x h => ?_) _ ?_)
    | (simp (maxDischargeDepth := 99) [h]; done)
    | split
    | dsimp only
  all_goals (simp_all; done)

@[simp] theorem Mach.applyWrite_memW (m a1) (h : Memory.wf m.mem = true) :
    Memory.wf (Mach.applyWrite m a1).1.mem = true := by
  simp [Mach.applyWrite, h]

@[simp] theorem Mach.answerFirst_mem (m : Mach) (a1 : SlotWrite) : (Mach.answerFirst m a1).mem = m.mem := by
  unfold Mach.answerFirst
  split <;> simp

@[simp] theorem Mach.applyGroup_memW (m : Mach) (ws : List SlotWrite) (h : Memory.wf m.mem = true) :
    Memory.wf (m.applyGroup ws).1.mem = true := by
  unfold Mach.applyGroup
  extract_lets a m1 each done
  have h1 : Memory.wf m1.mem = true := foldl_memW _ _ (fun s w h => by simp [h]) _ h
  change Memory.wf done.1.mem = true
  simp only [done]
  split
  · exact h1
  · split
    · refine foldl_memW_fst _ _ (fun x w h => ?_) _ h1
      exact Mach.applyWrite_memW _ _ h
    · exact Mach.applyWrite_memW _ _ h1

@[simp] theorem Mach.closeSlot_memW (m) (h : Memory.wf m.mem = true) :
    Memory.wf (Mach.closeSlot m).mem = true := by
  unfold Mach.closeSlot
  repeat' first
    | with_reducible exact h
    | (with_reducible refine foldl_memW _ _ (fun m x h => ?_) _ ?_)
    | (with_reducible refine foldl_memW_fst _ _ (fun m x h => ?_) _ ?_)
    | (simp (maxDischargeDepth := 99) [h]; done)
    | split
    | dsimp only
  all_goals (simp_all; done)

@[simp] theorem Mach.admitRequest_memW (m : Mach) (a1 : Option FwFetch) (h : Memory.wf m.mem = true) :
    Memory.wf (Mach.admitRequest m a1).mem = true := by
  unfold Mach.admitRequest
  repeat' first | (simp [h]; done) | split

@[simp] theorem Mach.endSlot_memW (m : Mach) (f : Option FwFetch) (h : Memory.wf m.mem = true) :
    Memory.wf (m.endSlot f).mem = true := by
  unfold Mach.endSlot
  extract_lets m1 t
  have h1 : Memory.wf m1.mem = true := by
    simp only [m1]
    split <;> simp [h]
  exact Mach.closeSlot_memW _ h1

@[simp] theorem Mach.pastSlot_memW (m : Mach) (h : Memory.wf m.mem = true) : Memory.wf m.pastSlot.mem = true := by
  unfold Mach.pastSlot
  split <;> simp [h]

theorem arbitrationSlotEnd_memW {n : Mach} (m : Mach) (w : Memory.wf m.mem = true)
    (h : arbitrationSlotEnd m = .next n) :
    Memory.wf n.mem = true := by
  unfold arbitrationSlotEnd at h
  split at h <;> simp only [Host.Outcome.next.injEq] at h <;> subst h
  · exact w
  · exact Mach.endSlot_memW _ _ w

@[simp] theorem Mach.go_memW (m : Mach) (p : Path) (f : Option FwFetch) (h : Memory.wf m.mem = true) :
    Memory.wf (m.go p f).mem = true := by
  unfold Mach.go
  extract_lets x b
  split
  · exact h
  · refine Mach.arrive_memW _ _ _ _ ?_
    simp [h]

@[simp] theorem Mach.mailboxRequest_memW (m : Mach) (a1 : Path) (a2 : Bytes) (a3 : Option FwFetch) (h :
    Memory.wf m.mem = true) :
    Memory.wf (Mach.mailboxRequest m a1 a2 a3).mem = true := by
  simp [Mach.mailboxRequest, h]

@[simp] theorem Mach.submit_memW (m : Mach) (p : Path) (b : Bytes) (f : Option FwFetch) (h : Memory.wf m.mem = true) :
    Memory.wf (m.submit p b f).mem = true := by
  unfold Mach.submit
  split
  · split
    · exact h
    · extract_lets m1 alone m2
      have h2 : Memory.wf m2.mem = true := by simp [m2, m1, h]
      split <;> simp [h2]
  · split <;> simp [h]

@[simp] theorem Mach.readBar_mem (m : Mach) (p : Path) (bar off : Nat) : (m.readBar p bar off).2.mem = m.mem := by
  unfold Mach.readBar
  repeat' first | (simp; done) | split

@[simp] theorem Mach.regReads_mem (m : Mach) (p : Path) (bar n off : Nat) : (m.regReads p bar n off).2.mem = m.mem := by
  induction n generalizing m off with
  | zero => rfl
  | succ n ih => simp [Mach.regReads, ih]

theorem dictRead_memW {n : Mach} (p : Path) (t : Target) (m : Mach) (w : Memory.wf m.mem = true)
    (h : dictRead p t m = .next n) : Memory.wf n.mem = true := by
  unfold dictRead at h
  split at h
  · simp only [Host.Outcome.next.injEq] at h; subst h; simp [w]
  · split at h <;> simp only [Host.Outcome.next.injEq] at h <;> subst h <;> simp [w]

@[simp] theorem Mach.regWrites_memW (m : Mach) (p : Path) (n off : Nat) (b : Bytes) (h : Memory.wf m.mem = true) :
    Memory.wf (m.regWrites p n off b).mem = true := by
  induction n generalizing m off b with
  | zero => exact h
  | succ n ih =>
    unfold Mach.regWrites
    extract_lets v m1 m2
    have h2 : Memory.wf m2.mem = true := by
      simp only [m2]
      split <;> simp [m1, h]
    exact ih _ _ _ h2

@[simp] theorem Mach.componentWrites_memW (m : Mach) (n off : Nat) (b : Bytes) (h : Memory.wf m.mem = true) :
    Memory.wf (m.componentWrites n off b).mem = true := by
  induction n generalizing m off b with
  | zero => exact h
  | succ n ih => exact ih _ _ _ (by simp [h])

theorem dictWrite_memW {n : Mach} (p : Path) (t : Target) (v : Bytes) (m : Mach) (w : Memory.wf m.mem = true)
    (h : dictWrite p t v m = .next n) : Memory.wf n.mem = true := by
  unfold dictWrite at h
  split at h
  · simp only [Host.Outcome.next.injEq] at h; subst h; simp [w]
  · split at h
    · simp only [Host.Outcome.next.injEq] at h; exact h ▸ w
    · split at h
      · simp only [Host.Outcome.next.injEq] at h; subst h; simp [w]
      · split at h
        · simp only [Host.Outcome.next.injEq] at h; subst h; simp [w]
        · exact writeWindowReg_memW _ _ w h

theorem dictDescribe_memW {n : Mach} (a0 : Path) (a1 a2 : Nat) (m : Mach) (w : Memory.wf m.mem = true)
    (h : dictDescribe a0 a1 a2 m = .next n) :
    Memory.wf n.mem = true := by
  simp only [dictDescribe, Host.Outcome.next.injEq] at h
  simp [← h, w]

theorem ownWrite_memW {n : Mach} (p : Path) (o i : Nat) (v : Bytes) (f : Option FwFetch) (m : Mach)
    (w : Memory.wf m.mem = true) (h : ownWrite p o i v f m = .next n) : Memory.wf n.mem = true := by
  unfold ownWrite at h
  dsimp only at h
  split at h <;> simp only [Host.Outcome.next.injEq] at h <;> subst h
  · exact w
  · simp [w]

end Sys2Proof.Machine
end

