-- ==== Sys2Proof/Laws/Secded.lean ====
section
/-! SUPPORT. The columns of the SEC-DED code satisfy what R285 states of them, whichever they are, and what that makes
of a word whose check bits alone are in error (R286). -/

namespace Sys2Proof.Machine

open Sys2Proof

theorem mem_of_pickColumns {n i c : Nat} {l : List Nat} (hn : n ≤ l.length) (h : c ∈ pickColumns n i l) : c ∈ l := by
  induction n generalizing i l with
  | zero => cases h
  | succ n ih =>
    have hk : Config.secdedPick i % l.length < l.length := Nat.mod_lt _ (by omega)
    simp only [pickColumns, List.mem_cons] at h
    rcases h with rfl | h
    · simp [List.getD_eq_getElem?_getD, hk]
    · exact List.mem_of_mem_eraseIdx (ih (by rw [List.length_eraseIdx_of_lt hk]; omega) h)

/-- Every data column has odd weight and is no check column. -/
theorem dataColumns_odd {c : Nat} (h : c ∈ dataColumns) : columnWeight c % 2 = 1 ∧ 1 < columnWeight c := by
  have := mem_of_pickColumns (by decide +kernel) h
  simp only [List.mem_filter, Bool.and_eq_true, beq_iff_eq, decide_eq_true_eq] at this
  exact this.2

theorem columnSum_zero (cols : List Nat) : columnSum cols 0 = 0 := by
  simp [columnSum, List.filter_eq_nil_iff.mpr]

/-- A word of zeros under a hash of zero whose check bits alone are in error has their pattern as its syndrome. -/
theorem syndrome_check (x : Nat) : syndrome 0 0 ⟨x * 2 ^ 64, 0⟩ = x := by
  simp [syndrome, checkBits, columnSum_zero]

/-- One check bit in error is a one-bit error; two are an uncorrectable one, which no read corrects. -/
theorem seqWordClass_oneCheck : seqWordClass ⟨1 * 2 ^ 64, 0⟩ = .oneBit := by
  rw [seqWordClass, wordClass, syndrome_check, classify, if_neg (by decide), if_pos]
  simp [checkColumns]

theorem seqWordClass_twoChecks : seqWordClass ⟨3 * 2 ^ 64, 0⟩ = .evenWeight := by
  have h : dataColumns.contains 3 = false := by
    rw [← Bool.not_eq_true, List.contains_iff_mem]
    intro h
    have := (dataColumns_odd h).1
    revert this
    decide
  rw [seqWordClass, wordClass, syndrome_check, classify, if_neg (by decide), h]
  decide

end Sys2Proof.Machine
end

