-- ==== Sys2Proof/Tests/Slice0.lean ====
section
/-! SUPPORT. Tests of the model on small states. `test_` theorems compare one effect with the spec's figures;
`witness_` theorems show states and operands that meet the hypotheses of a statement's clauses together. Expected
values are taken from the rules the comments name. -/

set_option maxRecDepth 100000

section

set_option Elab.async false

open Sys2Proof Sys2Proof.Machine

/-! ### The bench -/

namespace Sys2Proof.Tests

/-- A module with no command waiting. -/
def at_ (m : Mach) : State := { m with pending := [] }

/-- Objects set one after another. -/
def sets (m : Mach) (l : List (Nat × Nat × Nat)) : Mach := l.foldl (fun m x => m.setObj x.1 x.2.1 x.2.2) m

/-- A module in RUN with its link up: partition 0 is ACTIVE over bays 0 and 1, journal 0 is its own. -/
def bench : Mach :=
  sets { Mach.reset with
    modState := .run
    start := { Start.reset with stage := none }
    plinth := { Plinth.reset with inputOn := true, seated := true, modEn := true, perst := true, prsnt := false }
    parts := [(0, { Partition.reset with state := .active, bays := [0, 1], keys := some 0 })]
    bays := [(0, { Bay.reset with power := .run, epoch := 1 }), (1, { Bay.reset with power := .run, epoch := 1 })] }
    [(O.LINK_STATE, 0, 1), (O.FLD_LINK, 0, 2), (O.J_PARTITION, 0, 0), (O.C_PARTITION, 0, 0), (O.HANDLE_ENTRIES, 0, 16),
     (O.HOST_WIN0_LEN, 0, 2 ^ 40), (O.SCALE_TABLE, 0, 0x80000), (O.SCALE_ENTRIES, 0, 8)]

/-- Fields put into a descriptor: offset, length, value. -/
def desc (l : List (Nat × Nat × Nat)) : Bytes :=
  l.foldl (fun b x => patch b x.1 (leBytes x.2.1 x.2.2)) (zerosB 64)

/-- The first command of journal 0, with its sequencer in bay 0. -/
def cmd (d : Bytes) : Cmd := ⟨⟨0, 5, 0⟩, 0, d, 0, 0, 0⟩

/-- A path through the field network. -/
def mgmt : Path := .umpor 0x80FE 7000 42

end Sys2Proof.Tests
namespace Sys2Proof.Tests

/-- A handle entry (R236): tensor, format, base, bytes and scale. -/
def handle (tensor fmt base bytes scale : Nat) : Bytes :=
  leBytes 4 tensor ++ leBytes 1 fmt ++ zerosB 3 ++ leBytes 8 base ++ leBytes 8 bytes ++ zerosB 16 ++ leBytes 8 scale ++
    zerosB 16

/-- Handles 1 to 11: FP32 and BF16 buffers, four-bit pages of F4 and G4, a BX32 block, a table, host memory, and the
tile store of cluster 0; and an F4 page of the second axis. -/
def handles : Bytes :=
  zerosB 64 ++ handle 1 9 0x10000 1024 0 ++ handle 2 7 0x11000 1024 0 ++ handle 3 9 0x12000 1024 0 ++
    handle 4 9 0x13000 1024 0 ++ handle 5 0 0x20000 1024 0 ++ handle 6 3 0x21000 1024 0 ++ handle 7 10 0x14000 320 0 ++
    handle 8 9 0x15000 1024 0 ++ handle 9 9 (hostBase + 0x10000) 2048 0 ++ handle 10 9 (2 * 2 ^ 56) 1024 0 ++
    handle 11 0 0x22000 1024 0

/-- Bytes as memory cells from an address; a zero is not listed. -/
def cells (a : Nat) (b : Bytes) : List Host.Cell := ((b.zipIdx a).filter (·.1 ≠ 0)).map fun x => (x.2, x.1)

/-- The bench with its handle table, and the tags of the pages that do not begin with zeros. -/
def table : Mach := { bench with
  mem := cells 0 handles ++ cells 0x2101F [0xC0] ++ cells 0x2201F [0x04]
  lines := [(0, ⟨1, 0, 0⟩), (1, ⟨1, 0, 0⟩), (2, ⟨1, 0, 0⟩), (0x210, ⟨1, 0, 0⟩), (0x220, ⟨1, 0, 0⟩)] }

/-- The state in which the command of a descriptor is with its sequencer. -/
def given (l : List (Nat × Nat × Nat)) : State := at_ { table with received := [cmd (desc l)] }

/-- A descriptor's fields common to work that runs as items: opcode, flags, rows, columns, span of cluster 0, and areas. -/
def items (opcode flags rows cols : Nat) : List (Nat × Nat × Nat) :=
  [(0, 1, opcode), (2, 2, flags), (20, 3, rows), (23, 3, cols), (29, 1, 0), (30, 1, 1), (56, 2, 6144), (60, 2, 60000)]

/-- A command of the wide units over a row of eight. -/
def wide (op : Nat) (l : List (Nat × Nat × Nat)) : List (Nat × Nat × Nat) :=
  [(0, 1, 6), (20, 3, 1), (23, 3, 8), (29, 1, 0), (30, 1, 1), (31, 1, op), (60, 2, 60000)] ++ l

/-- One descriptor for each row of `computeRows`, in its order. -/
def computeFields : List (List (Nat × Nat × Nat)) :=
  [items 1 64 1 8 ++ [(26, 3, 1), (32, 4, 5), (36, 4, 11), (40, 4, 1)],
   items 2 65 1 8 ++ [(26, 3, 1), (32, 4, 6), (36, 4, 5), (40, 4, 1)],
   items 3 65 1 8 ++ [(26, 3, 1), (32, 4, 5), (36, 4, 6), (40, 4, 1)],
   items 4 64 1 8 ++ [(32, 4, 1), (36, 4, 2)],
   items 5 72 16 16 ++ [(32, 4, 1), (36, 4, 3)],
   wide 1 [(32, 4, 1), (36, 4, 1), (40, 4, 3)],
   wide 2 [(32, 4, 1), (36, 4, 1), (40, 4, 3)],
   wide 3 [(32, 4, 1), (36, 4, 1), (40, 4, 3)],
   wide 4 [(32, 4, 1), (36, 4, 1), (40, 4, 3), (48, 4, 4)],
   wide 5 [(32, 4, 1), (36, 4, 1), (40, 4, 3), (44, 4, 1), (48, 4, 4)],
   wide 6 [(32, 4, 1), (40, 4, 3)],
   wide 7 [(32, 4, 1), (40, 4, 3), (44, 4, 4), (48, 4, 8)],
   wide 8 [(32, 4, 1), (36, 4, 1), (40, 4, 3)],
   wide 9 [(32, 4, 1), (36, 4, 1), (40, 4, 3), (44, 4, 4), (48, 4, 8)],
   wide 10 [(32, 4, 1), (36, 4, 1), (40, 4, 3)],
   wide 11 [(32, 4, 2), (36, 4, 2), (40, 4, 3), (26, 3, 1)],
   wide 12 [(32, 4, 1), (40, 4, 3)]]

def passes {α : Type} (x : Chk α) : Bool := match x with | .ok _ => true | .error _ => false

theorem passes_ok {α : Type} {x : Chk α} (h : passes x = true) : ∃ a, x = .ok a := by
  cases x with
  | ok a => exact ⟨a, rfl⟩
  | error e => cases h

/-- The module when the command of a descriptor has had its handles read, without an error. -/
def read_ (l : List (Nat × Nat × Nat)) : Mach := (given l).reads (cmd (desc l)) []

/-- Each row has a descriptor whose command its sequencer takes and whose validation passes; and a product with a freeze
map of four bytes has stores that stay valid. -/
theorem witness_ComputeCommandsStart :
    (∀ x ∈ computeRows.zip computeFields,
      ∃ a, ([] : List ReadErr).all ReadErr.ok = true ∧ (given x.2).mirrorsOn ∧
        (given x.2).takes x.1.kind (cmd (desc x.2)) ∧ x.1.validate (read_ x.2) (cmd (desc x.2)) = .ok a ∧
        (read_ x.2).reaches (cmd (desc x.2)) a) ∧
    let m : Mach := { bench with valid := [sectorOf (2 ^ 56)] }
    m.memOk ∧ smem m.valid (sectorOf (2 ^ 56)) = true := by
  refine ⟨?_, by decide +kernel⟩
  have h : ((computeRows.zip computeFields).all fun x => decide ((given x.2).takes x.1.kind (cmd (desc x.2))) &&
      passes (x.1.validate (read_ x.2) (cmd (desc x.2))) && (read_ x.2).linkUp && !(given x.2).psLagging) = true := by
    decide +kernel
  intro x hx
  have := List.all_eq_true.mp h x hx
  simp only [Bool.and_eq_true, decide_eq_true_eq, Bool.not_eq_true'] at this
  obtain ⟨⟨⟨h1, h2⟩, h3⟩, h4⟩ := this
  obtain ⟨a, ha⟩ := passes_ok h2
  exact ⟨a, rfl, h4, h1, ha, .inl h3⟩

end Sys2Proof.Tests

namespace Sys2Proof.Tests

/-! ### Commands that do not run as items -/

def okAnd {α : Type} (x : Chk α) (p : α → Bool) : Bool := match x with | .ok a => p a | .error _ => false

theorem okAnd_ok {α : Type} {x : Chk α} {p : α → Bool} (h : okAnd x p = true) : ∃ a, x = .ok a ∧ p a = true := by
  cases x with
  | ok a => exact ⟨a, rfl, h⟩
  | error e => cases h

def reduceFields : List (Nat × Nat × Nat) :=
  [(0, 1, 7), (20, 3, 1), (23, 3, 8), (29, 2, 1), (31, 1, 1), (32, 4, 1), (36, 4, 3), (40, 4, 8), (8, 6, 1)]

/-- An UPDATE of one SGD entry of eight elements, in pass mode `mode`. -/
def updateFields (mode : Nat) : List (Nat × Nat × Nat) :=
  [(0, 1, 8), (20, 3, 1), (29, 2, 1), (31, 1, mode), (32, 8, 0x20000)]

/-- Its list entry at 20000h and its optimiser record, of kind SGD, at 20100h. -/
def updating : Mach := { table with
  mem := cells 0 handles ++ cells 0x20000 (leBytes 4 7 ++ leBytes 3 1 ++ zerosB 1 ++ leBytes 3 8 ++ zerosB 5 ++
    leBytes 1 9 ++ zerosB 15 ++ leBytes 8 0x30000 ++ leBytes 8 0x31000 ++ zerosB 8 ++ leBytes 8 0x32000 ++
    leBytes 8 0x33000 ++ zerosB 32 ++ leBytes 8 0x20100) ++ cells 0x20100 [1]
  lines := [(0, ⟨1, 0, 0⟩), (1, ⟨1, 0, 0⟩), (2, ⟨1, 0, 0⟩), (0x200, ⟨1, 0, 0⟩), (0x201, ⟨1, 0, 0⟩)] }

theorem witness_ReductionsAndUpdatesStart :
    (let s := given reduceFields
     let c := cmd (desc reduceFields)
     s.mirrorsOn ∧ s.takes (7, 0) c ∧ passes (validateReduce (s.reads c []) c) = true) ∧
    ∀ mode ∈ [1, 2],
      let c := cmd (desc (updateFields mode))
      let s := at_ { updating with received := [c] }
      s.mirrorsOn ∧ s.takes (8, mode) c ∧ passes (validateUpdate (s.reads c []) c) = true := by decide +kernel

end Sys2Proof.Tests

namespace Sys2Proof.Tests

def workOf (x : Chk (Act × List Act)) (p : Act → CopyWork → Bool) : Bool :=
  okAnd x fun a => match a.1.work with | .copying w => p a.1 w | _ => false

theorem workOf_ok {x : Chk (Act × List Act)} {p : Act → CopyWork → Bool} (h : workOf x p = true) :
    ∃ a l w, x = .ok (a, l) ∧ a.work = .copying w ∧ p a w = true := by
  obtain ⟨a, ha, hp⟩ := okAnd_ok h
  rcases a with ⟨a, l⟩
  cases hw : a.work <;> simp only [hw] at hp
  all_goals first | exact ⟨a, l, _, ha, hw, hp⟩ | cases hp

def copyFields : List (Nat × Nat × Nat) :=
  [(0, 1, 9), (32, 4, 1), (36, 4, 3), (52, 6, 64), (60, 1, 0xFF)]
def multicastFields : List (Nat × Nat × Nat) :=
  [(0, 1, 9), (2, 2, 32), (32, 4, 1), (36, 4, 10), (52, 6, 64), (58, 1, 0), (59, 1, 1), (60, 1, 0xFF)]

theorem witness_CopiesStart : ∀ x ∈ [((9, 0), copyFields), ((9, 1), multicastFields)],
    let s := given x.2
    let c := cmd (desc x.2)
    ∃ a l w, s.mirrorsOn ∧ validateCopy (s.reads c []) c = .ok (a, l) ∧ a.work = .copying w ∧ a.cmd = c ∧
      (isHost w.src || isHost w.dst) = false ∧ s.takes x.1 c := by
  have h : ([((9, 0), copyFields), ((9, 1), multicastFields)].all fun x =>
      workOf (validateCopy (read_ x.2) (cmd (desc x.2))) fun a w =>
        decide (a.cmd = cmd (desc x.2)) && !(isHost w.src || isHost w.dst) &&
          decide ((given x.2).takes x.1 (cmd (desc x.2))) && !(given x.2).psLagging) = true := by decide +kernel
  intro x hx
  obtain ⟨a, l, w, h1, h2, h3⟩ := workOf_ok (List.all_eq_true.mp h x hx)
  simp only [Bool.and_eq_true, decide_eq_true_eq, Bool.not_eq_true'] at h3
  exact ⟨a, l, w, h3.2, h1, h2, h3.1.1.1, h3.1.1.2, h3.1.2⟩

/-- A copy between module memory and host memory, with the link up. -/
def hostCopyFields : List (Nat × Nat × Nat) :=
  [(0, 1, 9), (32, 4, 1), (36, 4, 9), (52, 6, 64), (60, 1, 0xFF)]

theorem witness_CopiesStart_host :
    let s := given hostCopyFields
    let c := cmd (desc hostCopyFields)
    let m := s.reads c []
    ∃ a l w, validateCopy m c = .ok (a, l) ∧ a.work = .copying w ∧ a.cmd = c ∧
      (isHost w.src || isHost w.dst) = true ∧ m.linkUp = true ∧ (m.part c.part).confidential = false ∧ s.takes (9, 0) c := by
  have h : (workOf (validateCopy (read_ hostCopyFields) (cmd (desc hostCopyFields))) fun a w =>
      decide (a.cmd = cmd (desc hostCopyFields)) && (isHost w.src || isHost w.dst)) = true := by decide +kernel
  obtain ⟨a, l, w, h1, h2, h3⟩ := workOf_ok h
  simp only [Bool.and_eq_true, decide_eq_true_eq] at h3
  exact ⟨a, l, w, h1, h2, h3.1, h3.2, by decide +kernel⟩

end Sys2Proof.Tests

namespace Sys2Proof.Tests

def allEarlierFields : List (Nat × Nat × Nat) := [(0, 1, 10)]
/-- A WAIT for command 0 of a journal. -/
def commandFields (journal : Nat) : List (Nat × Nat × Nat) := [(0, 1, 10), (2, 2, 1), (20, 1, journal)]
def sealFields : List (Nat × Nat × Nat) := [(0, 1, 10), (2, 2, 2)]

/-- A command that runs: command `seq` of journal 0. -/
def runs (seq : Nat) (d : Bytes) (w : Work) : Act := Act.of { cmd d with id := ⟨0, seq, 0⟩ } w

/-- A mirrored object of partition 0 that covers line 256. -/
def mirrored : Mach := { bench.setObj O.PS_PARTITION 0 0 with placed := [⟨0, 0, 4, 0x10000, 4096, false, true⟩], dirty := [256] }

/-- The module with journal 0 at command 6 and a reason remembered for command 0. -/
def behind : Mach := { table with
  journals := [(0, { Journal.reset with state := .running, consumed := 6, reasons := [(0, 4)] })] }

theorem witness_WaitsCompleteWhenTheirConditionHolds :
    (let s := given allEarlierFields
     let c := cmd (desc allEarlierFields)
     s.takes (10, 0) c ∧ ((s.launch (Act.of c (.waiting [] [] []))).inFlight c.id.journal).any
       (fun i => decide (i.seq < c.id.seq)) = false) ∧
    (let c := cmd (desc allEarlierFields)
     let s := at_ { table with received := [c], acts := [runs 4 (desc (items 4 64 1 8)) .items] }
     s.takes (10, 0) c ∧ ((s.launch (Act.of c (.waiting [] [] []))).inFlight c.id.journal).any
       (fun i => decide (i.seq < c.id.seq)) = true) ∧
    (let c := cmd (desc (commandFields 0))
     let s := at_ { behind with received := [c] }
     s.takes (10, 1) c ∧ s.obj O.J_PARTITION (c.f 20 1) = c.part ∧
       (s.launch (Act.of c (.waiting [] [] []))).hasCompleted (c.f 20 1) (c.f 21 6) = true ∧
       mget (s.journal (c.f 20 1)).reasons (c.f 21 6) = some 4) ∧
    (let c := cmd (desc (commandFields 0))
     let s := at_ { behind with received := [c], acts := [runs 0 (desc (items 4 64 1 8)) .items] }
     s.takes (10, 1) c ∧ s.obj O.J_PARTITION (c.f 20 1) = c.part ∧
       (s.launch (Act.of c (.waiting [] [] []))).hasCompleted (c.f 20 1) (c.f 21 6) = false) ∧
    (let c := cmd (desc (commandFields 63))
     let s := at_ { behind with received := [c] }
     s.takes (10, 1) c ∧ s.obj O.J_PARTITION (c.f 20 1) ≠ c.part) ∧
    let c := cmd (desc sealFields)
    let s := at_ { mirrored with received := [c] }
    s.takes (10, 2) c ∧ s.pair.state ≠ .broken ∧ s.act? c.id = none ∧ s.dirty.filter s.psLine ≠ [] := by
  refine ⟨?_, ?_, ?_, ?_, ?_, ?_⟩ <;> decide +kernel

theorem witness_ScaleSeedsWriteTheirEntry : ∀ x ∈ [((11, 0), [(0, 1, 11), (20, 4, 1), (32, 4, 1)], false),
    ((11, 1), [(0, 1, 11), (2, 2, 1), (20, 4, 1)], true)],
    (given x.2.1).mirrorsOn ∧ (given x.2.1).takes x.1 (cmd (desc x.2.1)) ∧
      passes (checkSeed (read_ x.2.1) (cmd (desc x.2.1)) x.2.2) = true := by
  decide +kernel

def dumpFields : List (Nat × Nat × Nat) := [(0, 1, 12), (32, 4, 1), (36, 4, 9)]
def denseFields : List (Nat × Nat × Nat) :=
  [(0, 1, 13), (20, 3, 8), (23, 3, 8), (31, 1, 1), (32, 4, 7), (40, 8, hostBase + 0x10000), (56, 8, 1024)]
def topkFields : List (Nat × Nat × Nat) :=
  [(0, 1, 13), (20, 3, 8), (23, 3, 8), (31, 1, 2), (32, 4, 7), (36, 4, 3), (40, 8, hostBase + 0x10000), (48, 2, 1),
   (56, 8, 1024)]
def importFields : List (Nat × Nat × Nat) :=
  [(0, 1, 14), (8, 6, 1), (20, 3, 1), (23, 3, 8), (29, 2, 1), (31, 1, 1), (36, 4, 3), (40, 4, 8), (48, 8, hostBase + 0x20000)]

/-- Host memory with a list of one DENSE image of one block, of step 1 and participant 0. -/
def imported : Mach := { table with
  mem := cells 0 handles ++ cells (hostBase + 0x20000) (leBytes 8 (hostBase + 0x30000)) ++
    cells (hostBase + 0x30000) (zerosB 4 ++ leBytes 6 1 ++ zerosB 2 ++ [1] ++ zerosB 3 ++ leBytes 4 1 ++ leBytes 4 8 ++
      leBytes 4 1) }

/-- The same with bay 0 asleep. -/
def asleep (m : Mach) : Mach := m.setBay 0 { m.bay 0 with power := .sleep }

/-- What an export finds with a bay awake or asleep. -/
def exportCase (fields : List (Nat × Nat × Nat)) (mode : Nat) (up : Bool) : Bool :=
  let c := cmd (desc fields)
  let s := at_ (if up then { table with received := [c] } else asleep { table with received := [c] })
  let m := s.reads c []
  s.mirrorsOn && m.linkUp && decide (s.takes (13, mode) c) && okAnd (validateExport m c) fun a =>
    m.nodeReady a c.bay == up && decide ((m.touch [] a.exportReads).blockFault (a.handleAt 32).base c.rBlocks = none)

theorem witness_HostImagesAreMade :
    (let s := given dumpFields
     let c := cmd (desc dumpFields)
     let m := s.reads c []
     s.mirrorsOn ∧ m.linkUp = true ∧ s.takes (12, 0) c ∧ m.issues c.bay = true ∧ okAnd (validateDump m c) (fun a =>
       m.endsReady [((a.handleAt 32).at_ c.problem, (a.handleAt 32).bytes)]) = true) ∧
    (let c := cmd (desc [(0, 1, 12), (32, 4, 10), (36, 4, 9)])
     let s := at_ (asleep { table with received := [c] })
     let m := s.reads c []
     m.linkUp = true ∧ s.takes (12, 0) c ∧ okAnd (validateDump m c) (fun a =>
       !m.endsReady [((a.handleAt 32).at_ c.problem, (a.handleAt 32).bytes)]) = true) ∧
    (∀ up : Bool, exportCase denseFields 1 up = true ∧ exportCase topkFields 2 up = true) ∧
    ∀ up : Bool, let c := cmd (desc importFields)
      let s := at_ (if up then { imported with received := [c] } else asleep { imported with received := [c] })
      let m := s.reads c []
      m.linkUp = true ∧ s.takes (14, 0) c ∧ okAnd (validateImport m c) (fun x =>
        let rd := (m.touch [] x.1.importReads).readImages c.part x.2
        (m.nodeReady x.1 (c.chain.getLastD 0) && c.chain.all m.bayReady) == up &&
        !(rd.2.any fun i => i.1.mode == 2 && !i.2.any (·.2) && !entriesOk c (i.2.map (·.1)) i.1) &&
        (importBlocks rd.2 c.rBlocks 0 (rd.1, x.1)).isSome) = true := by
  refine ⟨?_, ?_, ?_, ?_⟩ <;> decide +kernel

end Sys2Proof.Tests

namespace Sys2Proof.Tests

/-! ### Items, scales, lists, journals and rings -/

/-- A running CAST whose items 0 to 4 are dealt to cluster 0, with the counters given. -/
def dealt (l : List WorkCounter) : State :=
  at_ { table with acts := [{ runs 0 (desc (items 4 64 1 8)) .items with toBind := [(0, 0, 4)] }], counters := l }

def counter (n next : Nat) : WorkCounter := ⟨0, n, ⟨0, 0, 0⟩, 2, next, 4, 4⟩

theorem witness_CountersBindLowestFree :
    (∀ l ∈ [[], [counter 0 0], (List.range 7).map (counter · 0)],
      let s := dealt l
      let used := (s.counters.filter fun k => k.cluster == 0).map (·.num)
      (⟨0, 0, 0⟩ : CmdId).ok = true ∧ (s.act? ⟨0, 0, 0⟩).any (fun a => a.toBind.find? (fun x => x.1 == 0) == some (0, 0, 4)) =
        true ∧ (s.liveTiles 0).isEmpty = false ∧ used.contains l.length = false ∧
        (∀ k, k < l.length → used.contains k = true) ∧ (s.lent.any fun l => l.tile / 64 == 0) = false ∧
        s.bayReady 0 = true) ∧
    ∀ k, k < 8 → (((dealt ((List.range 8).map (counter · 0))).counters.filter fun k => k.cluster == 0).map (·.num)).contains k =
      true := by
  refine ⟨?_, ?_⟩ <;> decide +kernel

/-- A resolved handle of one buffer. -/
def plainHandle (tensor fmt base bytes : Nat) : Handle := ⟨tensor, fmt, base, bytes, 0, 0, 0, 0, 0, 0⟩

/-- Engine 2 of the first tile of cluster 0, and the wide unit there. -/
theorem witness_WorkCountersGiveTheNextItem :
    (∃ e, engineOk e = true ∧ engineKind e = 2 ∧ engineCluster e = 0 ∧
      ∀ next ∈ [0, 3, 4], let s := dealt [counter 0 next]
        (s.running.any fun r => r.engine == e) = false ∧ s.bayReady (engineBay e) = true ∧
          s.isHole (engineTile e) = false ∧ (s.act? ⟨0, 0, 0⟩).any (fun a => s.awake a) = true ∧
          (s.counters.find? fun k => k.cluster == engineCluster e && k.kind == engineKind e && decide (k.next < k.stop)) =
            if next < 4 then some (counter 0 next) else none) ∧
    (let a := { runs 0 (desc (items 4 64 1 8)) .items with handles := [(32, plainHandle 10 9 (tileAddr 640 0) 1024)] }
     let m := dealt [counter 0 0]
     let s := at_ { m.toMach.setBay 1 { m.bay 1 with power := .sleep } with acts := [a] }
     s.bayReady 0 = true ∧ s.act? ⟨0, 0, 0⟩ = some a ∧ s.awake a = false) ∧
    ∃ e, engineOk e = true ∧ engineKind e = 4 ∧ let s := dealt []
      (s.addBacks.any fun b => b.cluster == engineCluster e) = false ∧ s.fallbackLeft (engineCluster e) = false :=
  ⟨⟨2, by decide +kernel⟩, by decide +kernel, ⟨wideEngine 0, by decide +kernel⟩⟩

theorem witness_WorkItemsEnd :
    (let s := at_ { (dealt []).toMach with running := [⟨2, ⟨0, 0, 0⟩, 0⟩] }
     s.mirrorsOn ∧ engineOk 2 = true ∧ ([] : List ReadErr).all ReadErr.ok = true ∧
       s.running.find? (fun x => x.engine == 2) = some ⟨2, ⟨0, 0, 0⟩, 0⟩ ∧ (s.act? ⟨0, 0, 0⟩).isSome = true ∧
       s.bayReady (engineBay 2) = true) ∧
    (let b : AddBack := ⟨0, 1, ⟨0, 0, 0⟩, 0, [0], false⟩
     let s := at_ { (dealt []).toMach with addBacks := [b] }
     s.mirrorsOn ∧ s.addBacks.find? (fun x => x.cluster == 0) = some b ∧ (s.act? b.cmd).isSome = true ∧
       (s.running.any fun r => r.engine == wideEngine 0) = false ∧ s.bayReady 0 = true) ∧
    let a := runs 0 (desc (items 1 64 1 8 ++ [(26, 3, 1), (32, 4, 5), (36, 4, 11), (40, 4, 1)])) (.fallback [(0, 0)])
    let s := at_ { table with acts := [a] }
    s.mirrorsOn ∧ s.acts.find? (fun y => y.fallsBackIn 0) = some a ∧ [(0, 0)].find? (fun x => x.1 == 0) = some (0, 0) ∧
      (s.running.any fun r => r.engine == wideEngine 0) = false ∧ (s.addBacks.any fun b => b.cluster == 0) = false ∧
      s.bayReady 0 = true := by
  refine ⟨?_, ?_, ?_⟩ <;> decide +kernel

/-- A CAST of step `step` that waits for its latch, over the scale-table entry `entry` of tensor 2. -/
def latching (step : Nat) (entry : Bytes) : State :=
  at_ { table with
    mem := cells 0 handles ++ cells (0x80000 + 2 * 128) entry
    lines := (0x801, ⟨1, 0, 0⟩) :: table.lines
    acts := [{ runs 0 (desc (items 4 64 1 8 ++ [(8, 6, step), (32, 4, 1), (36, 4, 2)])) .latching with
      handles := [(32, plainHandle 1 9 0x10000 1024), (36, plainHandle 2 7 0x11000 1024)] }] }

/-- An entry bound to a tensor and latched at a step in BF16, with so many CASTs not merged. -/
def latch (tensor flags step runs : Nat) : Bytes :=
  leBytes 4 tensor ++ leBytes 1 flags ++ zerosB 2 ++ leBytes 1 7 ++ leBytes 6 step ++ leBytes 2 runs

def latchCase (s : State) (joins news waits overlaps behind : Bool) : Bool :=
  (s.act? ⟨0, 0, 0⟩).any fun a =>
    let ad := s.scaleEntry a.cmd.part a.dstTensor
    let r := s.toMach.takeReads [] [(ad, 128)]
    let m := if r.rdPoison ad 128 then (r.wr ad (freshEntry a.dstTensor) false).bump O.SCALE_LOST a.cmd.part 1 else r
    let e0 := m.rd ad 128
    let bound := (fld e0 4 1).testBit 0
    let e := if bound then e0 else freshEntry a.dstTensor
    let latched := (fld e 4 1).testBit 1
    let mine := !bound || fld e0 0 4 == a.dstTensor
    decide (a.work = .latching) && s.mirrorsOn &&
      ((mine && latched && fld e 8 6 == a.cmd.step && fld e 7 1 == a.dstFmt.code && decide (fld e 14 2 < 65535)) == joins) &&
      ((mine && (!latched || decide (fld e 8 6 < a.cmd.step ∧ fld e 14 2 = 0)) && (entrySeeded e || !a.cmd.noTwoPass)) == news) &&
      ((mine && latched && decide (fld e 8 6 < a.cmd.step) && decide (0 < fld e 14 2)) == waits) &&
      ((bound && fld e0 0 4 != a.dstTensor) == overlaps) &&
      ((mine && latched && decide (a.cmd.step < fld e 8 6)) == behind)

theorem witness_CastsLatchTheirScale :
    latchCase (latching 5 (latch 2 3 5 1)) true false false false false = true ∧
      latchCase (latching 5 (latch 2 3 5 65534)) true false false false false = true ∧
      latchCase (latching 5 (zerosB 128)) false true false false false = true ∧
      latchCase (latching 5 (latch 2 3 4 0)) false true false false false = true ∧
      latchCase (latching 5 (latch 2 3 4 1)) false false true false false = true ∧
      latchCase (latching 5 (latch 9 3 4 0)) false false false true false = true ∧
      latchCase (latching 5 (latch 2 3 6 0)) false false false false true = true := by
  refine ⟨?_, ?_, ?_, ?_, ?_, ?_, ?_⟩ <;> decide +kernel

/-- A COPY with a recompute list of two, its command `running` under way, and how the last ended. -/
def listCopy (running : Nat) (ended : Option (Nat × Nat)) (lost : Bool) : CopyWork :=
  ⟨0x10000, 0, 0x12000, 0, 64, 0, 0, some 500, 0xFF, none, 0, false, [], [], 2, running, ended, lost⟩

def listed (w : CopyWork) : State := at_ { table with acts := [runs 0 (desc copyFields) (.copying w)] }

theorem witness_RecomputationRunsItsList :
    (∀ w ∈ [listCopy 0 none false, listCopy 1 (some (3, 0)) false, listCopy 1 (some (0, 0)) false,
      listCopy 2 (some (0x82, 0)) false, listCopy 2 (some (0, 0)) true],
      (⟨0, 0, 0⟩ : CmdId).ok = true ∧ (listed w).mirrorsOn ∧
        ((listed w).act? ⟨0, 0, 0⟩).any (fun a => decide (a.work = .copying w)) = true) ∧
    (let w := listCopy 0 none false; w.running = 0 ∧ w.deadline = some 500 ∧ w.count ≠ 0) ∧
    (let w := listCopy 1 (some (3, 0)) false; w.subEnd = some (3, 0) ∧ 1 ≤ 3 ∧ 3 < 0x80) ∧
    (let w := listCopy 1 (some (0, 0)) false; w.subEnd = some (0, 0) ∧ w.running < w.count) ∧
    (let w := listCopy 2 (some (0x82, 0)) false
     w.subEnd = some (0x82, 0) ∧ ¬ (1 ≤ 0x82 ∧ 0x82 < 0x80) ∧ w.count ≤ w.running ∧ w.lost = false) ∧
    (let w := listCopy 2 (some (0, 0)) true; w.subEnd = some (0, 0) ∧ w.count ≤ w.running ∧ w.lost = true) := by
  refine ⟨?_, ?_, ?_, ?_, ?_, ?_⟩ <;> decide +kernel

/-- Journal 0 RUNNING with four entries at CONSUMED 6, its lines in host memory, and ring 0 of four records on. -/
def busy : Mach :=
  sets { behind with rings := [(0, ⟨2, 1, 0⟩)] }
    [(O.J_SIZE, 0, 4), (O.J_CONTROL, 0, 0x40000), (O.J_STATUS, 0, 0x41000), (O.J_ENABLE, 0, 1),
     (O.C_ENABLE, 0, 1), (O.C_SIZE, 0, 4), (O.C_CONSUMER, 0, 0x42000), (O.C_BASE, 0, 0x43000), (O.C_MOD_NS, 0, 100),
     (O.C_MSIX, 0, 1)]

def line (n : Nat) : Bytes := leBytes 8 n ++ zerosB 56

theorem witness_ControlLinesGiveProduce :
    (bench.journal 0).state ≠ .running ∧ (busy.journal 0).state = .running ∧ (∀ n ∈ [6, 10, 5, 11], (line n).length = 64) ∧
      (∀ n ∈ [6, 10], (busy.journal 0).consumed ≤ fld (line n) 0 8 ∧
        fld (line n) 0 8 ≤ (busy.journal 0).consumed + busy.obj O.J_SIZE 0) ∧
      fld (line 5) 0 8 < (busy.journal 0).consumed ∧
      (busy.journal 0).consumed + busy.obj O.J_SIZE 0 < fld (line 11) 0 8 := by decide +kernel

/-- Journal 0 with one entry produced. -/
def producing : Mach := busy.setJournal 0 { busy.journal 0 with produce := 7 }

/-- Whether the entry `d` is taken in turn, held by FENCE, and passes the common checks. -/
def fetchCase (s : Mach) (d : Bytes) : Bool × Bool × Bool :=
  let p := s.obj O.J_PARTITION 0
  let x := s.journal 0
  let n := s.wr (hostAddr (s.obj O.J_BASE 0 + x.consumed % max 1 (s.obj O.J_SIZE 0) * 64)) (bytesAt d 0 64) false
  let c := n.cmdOf ⟨0, x.consumed, 0⟩ p (bytesAt d 0 64)
  let fenced := (c.f 1 1).testBit 0 && !(s.inFlight 0).isEmpty
  let m : Mach := { n.setJournal 0 { x with
    consumed := x.consumed + 1, statusDue := true, held := if fenced then some c else none } with
      turn := mset s.turn p 0 }
  (s.nextJournal p == some 0, fenced, (m.commonCheck c).isNone)

theorem witness_EntriesAreFetchedInTurn :
    fetchCase producing (desc allEarlierFields) = (true, false, true) ∧
      fetchCase producing (desc [(0, 1, 15)]) = (true, false, false) ∧
      (fetchCase { producing with received := [cmd (desc dumpFields)] } (desc [(0, 1, 10), (1, 1, 1)])).1 = true ∧
      (fetchCase { producing with received := [cmd (desc dumpFields)] } (desc [(0, 1, 10), (1, 1, 1)])).2.1 = true ∧
      (fetchCase busy (desc allEarlierFields)).1 = false := by
  refine ⟨?_, ?_, ?_, ?_, ?_⟩ <;> decide +kernel

theorem witness_StatusFenceAndTimeout :
    (let m := busy.setJournal 0 { busy.journal 0 with statusDue := true }
     (m.journal 0).statusDue = true ∧ m.linkUp = true) ∧
    (let c := cmd (desc [(0, 1, 10), (1, 1, 1)])
     let m := busy.setJournal 0 { busy.journal 0 with held := some c }
     (m.journal 0).held = some c ∧ (m.inFlight 0).isEmpty = true ∧ (m.journal 0).state ≠ .disabled) ∧
    let s := at_ { table with acts := [runs 0 (desc [(0, 1, 10), (32, 4, 500)]) (.waiting [] [] [])] }
    (⟨0, 0, 0⟩ : CmdId).whole = true ∧
      (s.act? ⟨0, 0, 0⟩).any (fun a => a.cmd.opcode == 10 && a.cmd.f 32 4 != 0) = true := by
  refine ⟨?_, ?_, ?_⟩ <;> decide +kernel

def rec0 : Rec := ⟨0, zerosB 64, none, false⟩

/-- The consumer line of ring 0 is in the device cache, or is read first and holds 2 as the ring does. -/
theorem witness_RingsTakeRecords :
    (∀ cached : Bool, ∀ w ∈ [5, 6],
      let b : Mach := if cached then busy.cacheLine (consumerSlot 0) (line 2)
        else { busy with mem := cells (hostAddr 0x42000) [2] }
      let s := at_ ({ b with ready := [rec0, rec0] }.setObj O.C_WRITTEN 0 w)
      let m := s.readConsumer 0
      s.ready.find? (fun y => y.ring == 0) = some rec0 ∧ s.ringOn 0 = true ∧ s.linkUp = true ∧
        (mget s.devCache (consumerSlot 0)).isSome = cached ∧
        (if w = 5 then m.obj O.C_WRITTEN 0 < (m.ringOf 0).consumed + m.obj O.C_SIZE 0
          else (m.ringOf 0).consumed + m.obj O.C_SIZE 0 ≤ m.obj O.C_WRITTEN 0)) ∧
    (line 3).length = 64 ∧ busy.ringOn 0 = true ∧ busy.linkUp = true ∧ busy.ringOn 1 = false ∧
      (busy.ringOf 0).unsignalled ≠ 0 ∧ busy.obj O.C_MOD_NS 0 ≠ 0 ∧ busy.obj O.C_MSIX 0 ≠ 0xFFFF := by
  decide +kernel

end Sys2Proof.Tests

namespace Sys2Proof.Tests

/-! ### The dictionary -/

/-- The paths: the physical function, the function of partition 0, and the field network. -/
def paths : List Path := [.pf0, .vf 1, mgmt]

theorem witness_ReadsArrive :
    (∀ p ∈ paths, (at_ bench).alone p ∧ bench.visible p 0x1000 = true ∧ (rowAt 0x1000 1).isSome = true ∧
      bench.serves 0x1000 = true) ∧
    (∀ p ∈ [Path.pf0, .vf 1, .vf 16], p.ok = true ∧ bench.hostReaches = true ∧
      ∀ n ∈ [4, 8], Target.ok p (.reg 0 0 n) = true ∧ Target.ok p (.reg 0 0xFFF8 n) = true) ∧
    ∀ n ∈ [4, 8], Target.ok .pf0 (.reg 2 0x1200 n) = true ∧ Target.ok .pf0 (.reg 4 0x3FFF8 n) = true := by decide +kernel

/-- HEADROOM of partition 0 takes one byte; MODULE_ID takes no write. -/
theorem witness_WritesArrive :
    (∀ p ∈ [Path.pf0, .vf 1], (at_ bench).alone p ∧ (rowAt (oKey O.HEADROOM 0 / 256) (oKey O.HEADROOM 0 % 256)).isSome = true ∧
      bench.visible p (oKey O.HEADROOM 0 / 256) = true ∧
      bench.writeCheck p (oKey O.HEADROOM 0 / 256) (oKey O.HEADROOM 0 % 256) [3] = 0 ∧
      bench.writeCheck p (oKey O.HEADROOM 0 / 256) (oKey O.HEADROOM 0 % 256) [3, 0] ≠ 0) ∧
    (∀ p ∈ [Path.pf0, .vf 1, .vf 16], p.ok = true ∧ ∀ n ∈ [4, 8], Target.ok p (.reg 0 0x1000 n) = true) ∧
      bench.hostReaches = true ∧ (leBytes 4 1).length = 4 ∧ (leBytes 8 1).length = 8 ∧
      ∀ off ∈ [0x20088, 0x22000, 0x3FFF8], Target.ok .pf0 (.reg 4 off 8) = true ∧ windowOffset off = false := by
  decide +kernel

theorem witness_SlotsEnd :
    (let s := at_ { bench with slotReads := [⟨0, .pf0, 1, 0x1000, 1, 0⟩] }
     s.plinthUp = true ∧ s.umpor = [] ∧ s.slotWrites = []) ∧
    let w : SlotWrite := ⟨0, .pf0, oKey O.HEADROOM 0 / 256, oKey O.HEADROOM 0 % 256, 3, none⟩
    let s := at_ { bench with slotWrites := [w] }
    s.plinthUp = true ∧ s.umpor = [] ∧ s.slotReads = [] ∧ w.path.isMgmt = false ∧ w.value ≠ 0 ∧
      (rowAt w.index w.sub).isSome = true ∧
      ((s.upTo (slotStart w.at_ + 10)).applyWrite w).2.isSome = true := by
  refine ⟨?_, ?_⟩ <;> decide +kernel

/-- The same for a write whose answer is owed. -/
theorem witness_SlotsEnd_owed :
    let w : SlotWrite := ⟨0, .pf0, oKey O.PS_ENABLE 0 / 256, oKey O.PS_ENABLE 0 % 256, 1, none⟩
    let s := at_ { sets bench [(O.PS_ROLE, 0, 1), (O.PS_PARTITION, 0, 0)] with slotWrites := [w] }
    s.plinthUp = true ∧ (rowAt w.index w.sub).isSome = true ∧ ((s.upTo (slotStart w.at_ + 10)).applyWrite w).2 = none := by
  decide +kernel

/-- A write of 0 and of 1 to a trigger, one to an ENABLE object, and one whose answer is owed. -/
theorem witness_OwnRowsAreServed :
    (∀ x ∈ [(Instr.pReset .pf0 0 0, O.P_RESET, 0), (.pReset .pf0 0 1, O.P_RESET, 1), (.scaleEnable .pf0 0 0, O.SCALE_ENABLE, 0)],
      decide (x.1.asWrite = some (.pf0, x.2.1, 0, leBytes 1 x.2.2, none)) = true ∧ x.1.wf = true ∧
        (at_ bench).accepts .pf0 x.2.1 0 (leBytes 1 x.2.2) ∧
        (rowAt (oKey x.2.1 0 / 256) (oKey x.2.1 0 % 256)).isSome = true) ∧
    (∀ r ∈ rowAt (oKey O.P_RESET 0 / 256) (oKey O.P_RESET 0 % 256), r.access = .wo ∧ r.type = .bool) ∧
    (let s := at_ bench
     ((s.served .pf0 O.SCALE_ENABLE 0 [0]).applyObj .pf0 O.SCALE_ENABLE 0 0 none (s.owed .pf0 O.SCALE_ENABLE 0)).2.isSome =
       true) ∧
    let s := at_ (sets bench [(O.PS_ROLE, 0, 1), (O.PS_PARTITION, 0, 0)])
    s.accepts .pf0 O.PS_ENABLE 0 [1] ∧
      ((s.served .pf0 O.PS_ENABLE 0 [1]).applyObj .pf0 O.PS_ENABLE 0 1 none (s.owed .pf0 O.PS_ENABLE 0)).2 = none := by
  refine ⟨?_, ?_, ?_, ?_⟩ <;> decide +kernel

/-- The bench with some objects set. -/
def with_ (l : List (Nat × Nat × Nat)) : State := at_ (sets bench l)

theorem witness_TablesAndScrubEnable : ∀ p ∈ [Path.pf0, .vf 1],
    (∀ n ∈ [1, 8, 65536], let s := with_ [(O.SCALE_ENTRIES, 0, n)]
      s.enables p O.SCALE_ENABLE 0 ∧ s.obj O.SCALE_TABLE 0 % 128 = 0 ∧ s.obj O.SCALE_ENTRIES 0 = n ∧
        s.tableIn 0 0x80000 (128 * n) = true ∧ s.tableFits 0 0x80000 (128 * n) = true ∧ (s.part 0).state = .active) ∧
    (let s := with_ [(O.SCALE_ENABLE, 0, 1)]
     s.disables p O.SCALE_ENABLE 0 ∧ s.partRuns 0 (fun c => c.opcode == 4) = false) ∧
    (∀ n ∈ [1, 4096], let s := with_ [(O.PLACE_TABLE, 0, 0x400000), (O.PLACE_ENTRIES, 0, n)]
      s.enables p O.PLACE_ENABLE 0 ∧ s.obj O.PLACE_TABLE 0 % 32 = 0 ∧ s.obj O.PLACE_ENTRIES 0 = n ∧
        s.tableIn 0 0x400000 (32 * n) = true ∧ s.tableFits 0 0x400000 (32 * n) = true) ∧
    (let s := with_ [(O.PLACE_ENABLE, 0, 1)]
     s.disables p O.PLACE_ENABLE 0 ∧ s.partRuns 0 (fun _ => true) = false) ∧
    (with_ [(O.SCRUB_ENABLE, 0, 0)]).enables mgmt O.SCRUB_ENABLE 0 ∧ (with_ [(O.SCRUB_ENABLE, 0, 1)]).disables mgmt O.SCRUB_ENABLE 0 := by
  intro p hp
  simp only [List.mem_cons, List.not_mem_nil, or_false] at hp
  rcases hp with rfl | rfl <;> refine ⟨?_, ?_, ?_, ?_, ?_⟩ <;> decide +kernel

/-- A ring and a journal that may be enabled. -/
def rings : List (Nat × Nat × Nat) :=
  [(O.J_SIZE, 0, 64), (O.J_BASE, 0, 0x40000), (O.J_CONTROL, 0, 0x50000), (O.J_STATUS, 0, 0x50040), (O.C_SIZE, 0, 64),
   (O.C_BASE, 0, 0x60000), (O.C_CONSUMER, 0, 0x70000)]

theorem witness_JournalsAndRingsEnable : ∀ p ∈ [Path.pf0, .vf 1],
    (let s := with_ (rings ++ [(O.C_ENABLE, 0, 1)])
     s.enables p O.J_ENABLE 0 ∧ isPow2 (s.obj O.J_SIZE 0) = true ∧ 64 ≤ s.obj O.J_SIZE 0 ∧ s.obj O.J_SIZE 0 ≤ 65536 ∧
       s.obj O.J_BASE 0 % 4096 = 0 ∧ s.obj O.J_CONTROL 0 % 64 = 0 ∧ s.obj O.J_STATUS 0 % 64 = 0 ∧ s.obj O.J_PARTITION 0 = 0 ∧
       (s.part 0).state = .active ∧ s.obj O.C_PARTITION (s.obj O.J_RING 0) = 0 ∧
       clashes (s.hostRanges 0 64) (hostAddr (s.obj O.J_BASE 0)) (64 * s.obj O.J_SIZE 0) = false ∧
       clashes (s.hostRanges 0 64) (hostAddr (s.obj O.J_CONTROL 0)) 64 = false ∧
       clashes (s.hostRanges 0 64) (hostAddr (s.obj O.J_STATUS 0)) 64 = false ∧ s.linkUp = true ∧
       s.obj O.C_ENABLE (s.obj O.J_RING 0) = 1 ∧ (s.journal 0).state = .disabled ∧
       s.rdPoison (hostAddr (s.obj O.J_CONTROL 0)) 8 = false ∧
       s.rdPoison (hostAddr (s.obj O.C_CONSUMER 0)) 8 = false ∧ mget s.devCache (consumerSlot 0) = none) ∧
    (let s := with_ (rings ++ [(O.J_ENABLE, 0, 1)])
     s.disables p O.J_ENABLE 0 ∧ s.inFlight 0 = [] ∧ (s.journal 0).held = none) ∧
    (let s := at_ { sets bench (rings ++ [(O.J_ENABLE, 0, 1)]) with received := [cmd (desc dumpFields)] }
     s.disables p O.J_ENABLE 0 ∧ s.inFlight 0 ≠ []) ∧
    (let s := with_ rings
     s.enables p O.C_ENABLE 0 ∧ isPow2 (s.obj O.C_SIZE 0) = true ∧ 64 ≤ s.obj O.C_SIZE 0 ∧ s.obj O.C_SIZE 0 ≤ 65536 ∧
       s.obj O.C_BASE 0 % 4096 = 0 ∧ s.obj O.C_CONSUMER 0 % 64 = 0 ∧ s.obj O.C_MSIX 0 = 0xFFFF ∧ s.obj O.C_PARTITION 0 = 0 ∧
       (s.part 0).state = .active ∧ clashes (s.hostRanges 64 0) (hostAddr (s.obj O.C_BASE 0)) (64 * s.obj O.C_SIZE 0) = false ∧
       clashes (s.hostRanges 64 0) (hostAddr (s.obj O.C_CONSUMER 0)) 64 = false) ∧
    (let s := with_ [(O.C_ENABLE, 0, 1)]
     s.disables p O.C_ENABLE 0 ∧ ((List.range 64).any fun k => (s.journal k).state != .disabled && s.obj O.J_RING k == 0) =
       false) ∧
    let s := at_ { sets bench [(O.C_ENABLE, 0, 1)] with journals := [(0, { Journal.reset with state := .running })] }
    s.disables p O.C_ENABLE 0 ∧ ((List.range 64).any fun k => (s.journal k).state != .disabled && s.obj O.J_RING k == 0) =
      true := by
  intro p hp
  simp only [List.mem_cons, List.not_mem_nil, or_false] at hp
  rcases hp with rfl | rfl <;> refine ⟨?_, ?_, ?_, ?_, ?_, ?_⟩ <;> decide +kernel

theorem witness_LinksAndTraceEnable :
    (∀ p ∈ [Path.pf0, .vf 1], (with_ [(O.FLD_ENABLE, 0, 0), (O.MGMT_PEER, 0, allNodes)]).enables p O.FLD_ENABLE 0) ∧
    (isLinkLocal ((with_ [(O.MGMT_PEER, 0, allNodes)]).obj O.MGMT_PEER 0) ||
      (with_ [(O.MGMT_PEER, 0, allNodes)]).obj O.MGMT_PEER 0 == allNodes) = true ∧
    (∀ p ∈ paths, (with_ [(O.FLD_ENABLE, 0, 1)]).disables p O.FLD_ENABLE 0) ∧
    (∀ n ∈ [2 ^ 28, 2 ^ 36],
      let s := at_ { sets bench [(O.HDM_SIZE, 0, n), (O.HDM_PARTITION, 0, 0)] with hdmCommitted := some 0 }
      s.enables .pf0 O.HDM_ENABLE 0 ∧ s.obj O.HDM_SIZE 0 = n ∧ isModule (s.obj O.HDM_DEVICE_BASE 0) = true ∧
        s.obj O.HDM_DEVICE_BASE 0 % 2 ^ 28 = 0 ∧ s.belongs 0 (s.obj O.HDM_DEVICE_BASE 0) n = true ∧
        s.obj O.HDM_DEVICE_BASE 0 % 2 ^ 36 + n ≤ 2 ^ 36 ∧ (s.part 0).confidential = false ∧ (s.part 0).state = .active) ∧
    (with_ [(O.HDM_ENABLE, 0, 1)]).disables .pf0 O.HDM_ENABLE 0 ∧
    (let s := with_ [(O.PS_ROLE, 0, 1), (O.PS_PARTITION, 0, 0)]
     s.enables .pf0 O.PS_ENABLE 0 ∧ s.obj O.PS_PEER_BAR4 0 % 0x40000 = 0 ∧ (s.part s.psPart).exists_ = true) ∧
    (with_ [(O.PS_ENABLE, 0, 1)]).disables .pf0 O.PS_ENABLE 0 ∧
    (let s := with_ []
     s.enables (.vf 1) O.BOUNCE_ENABLE 0 ∧ (s.part 0).keys = some 0 ∧ (s.part 0).state = .active) ∧
    (let s := with_ [(O.BOUNCE_ENABLE, 0, 1)]
     s.disables (.vf 1) O.BOUNCE_ENABLE 0 ∧ s.bounceInUse 0 = false) ∧
    (∀ p ∈ [Path.pf0, mgmt], (with_ []).enables p O.TRACE_ENABLE 0 ∧ (with_ []).placed.any Placed.inTrace = false ∧
      (with_ [(O.TRACE_ENABLE, 0, 1)]).disables p O.TRACE_ENABLE 0) := by
  refine ⟨?_, ?_, ?_, ?_, ?_, ?_, ?_, ?_, ?_, ?_⟩ <;> decide +kernel

theorem witness_ResetsAct : bench.pair.heldSince = none ∧ ∀ p ∈ paths, ∀ o ∈ [O.P_RESET, O.UPD_RESET, O.TRACE_RESET, O.PS_RESET, O.FLD_RESET],
    (with_ []).accepts p o 0 (leBytes 1 1) := by decide +kernel

theorem witness_PartitionsAreMadeAndDeleted :
    (let s := with_ [(O.PT_SELECT, 0, 1), (O.PT_BAYS, 0, 4)]
     s.accepts .pf0 O.PT_CREATE 0 (leBytes 1 1) ∧ s.createRefused = none) ∧
    (let s := with_ [(O.PT_SELECT, 0, 1), (O.PT_BAYS, 0, 1)]
     s.accepts .pf0 O.PT_CREATE 0 (leBytes 1 1) ∧ s.createRefused.isSome = true) ∧
    (∀ q ∈ [0, 1], let s := with_ [(O.PT_SELECT, 0, q)]
      s.accepts .pf0 O.PT_DELETE 0 (leBytes 1 1) ∧ (s.part q).exists_ = (q == 0)) := by
  refine ⟨?_, ?_, ?_⟩ <;> decide +kernel

theorem witness_ReportsAndImages :
    (let s := with_ [(O.ATTEST_DEST, 0, 0x10000)]
     s.accepts (.vf 1) O.ATTEST 0 (leBytes 1 1) ∧ s.obj O.ATTEST_DEST 0 % 64 = 0 ∧
       s.belongs 0 (s.obj O.ATTEST_DEST 0) 12128 = true ∧ (s.part 0).keys = some 0 ∧ (s.part 0).state = .active) ∧
    (∀ a ∈ [0x10020, 2 * 2 ^ 36], let s := with_ [(O.ATTEST_DEST, 0, a)]
     s.accepts (.vf 1) O.ATTEST 0 (leBytes 1 1) ∧ (s.part 0).state = .active ∧ (s.part 0).keys ≠ none ∧
       (if a = 0x10020 then s.obj O.ATTEST_DEST 0 % 64 ≠ 0
        else s.obj O.ATTEST_DEST 0 % 64 = 0 ∧ s.belongs 0 (s.obj O.ATTEST_DEST 0) 12128 = false)) ∧
    (∀ st ∈ [PState.keying, .failed], let s := at_ (bench.setPart 0 { bench.part 0 with state := st })
     s.accepts .pf0 O.ATTEST 0 (leBytes 1 1) ∧ (s.part 0).state ≠ .active) ∧
    (∀ x ∈ [(0x1001, 5325), (0x1000, 5325), (0x1000, 268435456)],
      let s := with_ [(O.FW_SOURCE, 0, x.1), (O.FW_BYTES, 0, x.2)]
      s.accepts .pf0 O.FW_LOAD 0 (leBytes 1 1) ∧ s.start.stage ≠ some 8) ∧
    (FwFetch.image (zerosB 64) [] []).ok = true := by
  refine ⟨?_, ?_, ?_, ?_, ?_⟩ <;> decide +kernel

theorem witness_PlacesAndIntegrityActions :
    (∀ v ∈ [0, 3, 4], (with_ []).accepts .pf0 O.PLACE_COMMIT 0 (leBytes 4 v)) ∧ (with_ []).obj O.PLACE_ENABLE 0 ≠ 1 ∧
      (with_ [(O.PLACE_ENABLE, 0, 1), (O.PLACE_ENTRIES, 0, 4)]).obj O.PLACE_ENABLE 0 = 1 ∧
      (with_ [(O.PLACE_ENABLE, 0, 1), (O.PLACE_ENTRIES, 0, 4)]).obj O.PLACE_ENTRIES 0 ≤ 4 ∧
    (∀ k ∈ [0, 8], (with_ []).accepts mgmt O.DIE_RETIRED 0 (leBytes 2 (2 ^ k))) ∧ (bench.bay 0).retired = [] ∧
    (let s := at_ (bench.setBay 0 { bench.bay 0 with retired := [8] })
     s.accepts mgmt O.DIE_RETIRED 0 (leBytes 2 (2 ^ 8 + 2 ^ 0)) ∧ (s.bay 0).retired = [8]) ∧
    (with_ []).accepts mgmt O.CLEAR_COUNTS 0 (leBytes 1 1) ∧ (with_ []).accepts mgmt O.CLEAR_PRIOR 0 (leBytes 1 1) ∧
    (∀ v ∈ [0, 1279, 1280, 10239], (with_ []).accepts (.vf 1) O.FENCE_TILE 0 (leBytes 2 v) ∧
      (bench.viewBays (.vf 1)).contains (v / 640) = decide (v < 1280)) ∧ bench.modState = .run := by
  refine ⟨?_, ?_, ?_, ?_, ?_, ?_, ?_, ?_, ?_, ?_, ?_⟩ <;> decide +kernel

theorem witness_FlagsAndRulesAreWritten :
    (∀ p ∈ paths, (with_ []).accepts p O.NUM_SUMMARY 0 (leBytes 8 (2 ^ 64 - 1)) ∧
      (with_ []).accepts p O.RULE_FIRED 0 (leBytes 4 (2 ^ 32 - 1))) ∧
    (leBytes 512 fixedRules).length = 512 ∧ (with_ []).accepts mgmt O.RULES 0 (leBytes 512 fixedRules) ∧
    (∀ v, v < 2 → (with_ []).accepts mgmt O.STANDBY 0 (leBytes 1 v)) ∧
    (∀ n ∈ [2 ^ 28, 2 ^ 36], (Instr.hdmCommit 0 n).wf = true) ∧ (with_ []).linkUp = true ∧
      (with_ [(O.LINK_STATE, 0, 3)]).linkUp = false := by
  refine ⟨?_, ?_, ?_, ?_, ?_, ?_⟩ <;> decide +kernel

theorem witness_TraceActions : ∀ p ∈ [Path.pf0, mgmt],
    (let s := at_ { sets bench [(O.TR_MODE, 0, 2)] with trace := { Trace.reset with state := .capturing } }
     s.accepts p O.TR_FIRE 0 (leBytes 1 1) ∧ s.accepts p O.TR_FINISH 0 (leBytes 1 1) ∧ s.obj O.TR_MODE 0 = 2 ∧
       s.captureOn = true ∧ s.trace.state = .capturing) ∧
    ((with_ []).accepts p O.TR_FIRE 0 (leBytes 1 1) ∧ (with_ []).obj O.TR_MODE 0 ≠ 2) ∧
    ((at_ { bench with trace := { Trace.reset with state := .stopped } }).accepts p O.TR_RESTART 0 (leBytes 1 1)) ∧
    ((with_ []).accepts p O.TR_RESTART 0 (leBytes 1 1) ∧ (with_ []).trace.state ≠ .stopped) := by
  decide +kernel

end Sys2Proof.Tests

namespace Sys2Proof.Tests

/-! ### The field network -/

/-- A frame of a kind and TOKEN to the module's port, with the body given. -/
def frame (kind token : Nat) (body : Bytes) : Frame :=
  ⟨0x80FE, 7000, bench.obj O.FLD_PORT 0, 255, true,
    [0x55, 0x4D, 1] ++ leBytes 1 kind ++ leBytes 2 token ++ leBytes 2 body.length ++ zerosB 8 ++ body⟩

def notice (token sends : Nat) : Notice := ⟨token, zerosB 64, sends, 10000000⟩

theorem witness_FramesAreReceived :
    (bench.fieldUp = true ∧ bench.obj O.FLD_LINK 0 ≠ 0) ∧
    (let f := frame 1 42 (zerosB 8)
     f.ok = true ∧ bench.frameOk f = true ∧ fld f.payload 3 1 = 1 ∧ bench.requestHeld f.src 42 = false ∧
       bench.umpor.length < 8) ∧
    (let f := frame 1 42 (zerosB 8)
     let m : Mach := { bench with cache := [⟨0x80FE, 7000, 42, 0, []⟩] }
     m.fieldUp = true ∧ (m.cache.find? fun c => c.src == f.src && c.token == fld f.payload 4 2 &&
       decide (m.now < c.at_ + 1000000000)).isSome = true) ∧
    (let f := frame 1 42 (zerosB 8)
     let m : Mach := { bench with umpor := (List.range 8).map fun k => ⟨0x80FE, 7000, 100 + k, zerosB 8⟩ }
     m.frameOk f = true ∧ m.requestHeld f.src 42 = false ∧ 8 ≤ m.umpor.length) ∧
    (let f := frame 5 7 []
     f.ok = true ∧ bench.frameOk f = true ∧ fld f.payload 3 1 = 5) ∧
    let f := frame 2 7 []
    f.ok = true ∧ bench.frameOk f = false := by
  refine ⟨?_, ?_, ?_, ?_, ?_, ?_⟩ <;> decide +kernel

/-- An answer that waits to be sent to a link-local address. -/
def waitingFrame : OutFrame := ⟨0x80FE, 7000, 255, zerosB 64⟩

theorem witness_FramesAreSent :
    (bench.fieldUp = true ∧ bench.obj O.FLD_LINK 0 ≠ 0 ∧ bench.plinth.seated = true) ∧
    (∀ n ∈ [0, 1, 7, 8], let m : Mach := { bench with notices := [notice 65535 n] }
      m.fieldUp = true ∧ m.notices.find? (fun n => n.token == 65535) = some (notice 65535 n) ∧
        (n = 0 → (m.notices.find? fun x => decide (x.sends = 0)).map (·.token) = some 65535)) ∧
    (let m : Mach := { bench with notices := [notice 8 0, notice 9 0] }
     (m.notices.find? fun x => decide (x.sends = 0)).map (·.token) ≠ some 9 ∧
       m.notices.find? (fun n => n.token == 9) = some (notice 9 0)) ∧
    (∀ l ∈ [[], [0x80FE]], let m : Mach := { bench with outbox := [waitingFrame], neighbours := l }
      m.outbox.find? (fun f => m.reachable f.dst || !smem m.soliciting f.dst) = some waitingFrame ∧
        m.reachable 0x80FE = (l == [0x80FE])) ∧
    (let m : Mach := { bench with outbox := [waitingFrame], soliciting := [0x80FE] }
     m.outbox.find? (fun f => m.reachable f.dst || !smem m.soliciting f.dst) = none) ∧
    (frame 0 0 []).ok = true ∧
    ∀ b : Bool, ∀ t ∈ [bench.ownAddress, 0x80FE],
      (Instr.neighbourDiscovery { solicit := b, target := t, src := 0x80FE, dad := false }).wf = true ∧
        bench.ownAddress ≠ 0x80FE := by
  refine ⟨?_, ?_, ?_, ?_, ?_, ?_, ?_⟩ <;> decide +kernel

/-! ### Copies, loans, stored data, reductions and updates -/

/-- A COPY that runs, as its validation leaves it. -/
def copying (w : CopyWork) : Act := runs 0 (desc copyFields) (.copying w)

def plainCopy (issued done : Nat) (dead : Option Nat) : CopyWork :=
  ⟨0x10000, 0, 0x12000, 0, 512, issued, done, dead, 0xFF, none, 50, false, [], [], 0, 0, none, false⟩

/-- A multicast whose members 1 and 2 have stood at their limit since 50 ns. -/
def group : CopyWork :=
  ⟨0x10000, 0, 0x0, 0, 65536, 16384, 0, none, 0xFF, none, 50, true, [1, 2], [], 0, 0, none, false⟩

def copies (w : CopyWork) (t : List Transfer) : State := at_ { table with acts := [copying w], transfers := t }

theorem witness_TransfersAndLoans :
    (let s := copies (plainCopy 0 0 none) []
     s.issues 0 = true ∧ (s.transfers.filter fun t => t.bay == 0).length < 256 ∧
       ((sortBy Queue.before (s.queues 0)).find? fun q => (s.queueNext q).any fun x => s.mayIssue x).isSome = true ∧
       ((sortBy Queue.before (s.queues 1)).find? fun q => (s.queueNext q).any fun x => s.mayIssue x) = none) ∧
    (∀ d ∈ [none, some 0], let t : Transfer := ⟨0, 5, ⟨0, 0, 0⟩, 0, 256, none⟩
      let s := copies (plainCopy 256 0 d) [t]
      s.mirrorsOn ∧ s.issues 0 = true ∧ s.transfers.find? (fun t => t.bay == 0 && t.ticket == 5) = some t ∧
        (s.act? t.cmd).any (fun a => decide (a.copyWork? = some (plainCopy 256 0 d))) = true ∧ (plainCopy 256 0 d).count = 0) ∧
    (let w := { plainCopy 256 0 (some 10) with count := 2 }
     let s := at_ { (copies w [⟨0, 5, ⟨0, 0, 0⟩, 0, 256, none⟩]).toMach with now := 20 }
     (s.act? ⟨0, 0, 0⟩).any (fun a => decide (a.copyWork? = some w)) = true ∧ w.count ≠ 0 ∧ w.deadline = some 10 ∧ 10 < s.now) ∧
    (let s := copies (plainCopy 0 0 none) []
     ((s.queues 0).find? fun q => (q.copies.head?.map fun x => x.1.cmd.id) == some ⟨0, 0, 0⟩).any (fun q =>
       decide (q.dry = none) && q.turn.isSome && decide (q.copies.head? = some (copying (plainCopy 0 0 none), plainCopy 0 0 none))) =
         true) ∧
    (let s := copies group []
     (s.act? ⟨0, 0, 0⟩).any (fun a => decide (a.copyWork? = some group)) = true ∧ group.members.contains 2 = true ∧
       group.multicast = true ∧ group.issued < group.len ∧ group.held none (group.piece group.issued) = true) ∧
    (let m : Mach := { bench with placed := [⟨0, 0, 3, 0x10000, 65536, false, false⟩] }
     m.lends 0 = true ∧ m.homePieces 0 = (0, 0x10000) :: [(0, 0x18000)] ∧ (m.lendable 0).head? = some 1) ∧
    (bench.tileIdle 10239 = true ∧
      ({ bench with acts := [runs 0 (desc (items 4 64 1 8)) .items] } : Mach).tileIdle 0 = false) := by
  refine ⟨?_, ?_, ?_, ?_, ?_, ?_, ?_⟩ <;> decide +kernel

theorem witness_StoredDataIsKept :
    ((⟨0, 0, true, 0, 0, true, 0⟩ : LineObs).ok = true ∧ (⟨1, 0⟩ : WordObs).ok = true ∧
      (with_ [(O.SCRUB_ENABLE, 0, 1)]).obj O.SCRUB_ENABLE 0 = 1 ∧ bench.sequencerRuns 0 = true ∧
      ({ bench with modState := .standby } : Mach).sequencerRuns 0 = false ∧ bench.tileRuns 10239 = true) ∧
    (let a := 2 ^ 56
     wordOk a = true ∧ smem ({ bench with valid := [sectorOf a] } : Mach).valid (sectorOf a) = true ∧
       smem bench.poison (sectorOf a) = false ∧ bench.sequencerRuns (addrBay a) = true) ∧
    (∀ w ∈ [WriteBack.corrected, .poison, .blank],
      mget ({ bench with writeBacks := [(2 ^ 32 - 1, w)] } : Mach).writeBacks (2 ^ 32 - 1) = some w) ∧
    (∀ l ∈ [[3], [3, 7]], let m := bench.setPart 1 { Partition.reset with state := .keying, bays := [3], blanking := l }
      (List.range 16).find? (fun q => smem (m.part q).blanking 3) = some 1) := by
  refine ⟨?_, ?_, ?_, ?_⟩ <;> decide +kernel

/-- One data column fails, or two; or one and the check column, by its CRC or by a STATE byte that reads 21h. -/
theorem witness_LineReadsCorrectOrPoison :
    let l := 0x200
    (table.bay 0).retired = [] ∧ (∀ k, k < 9 → (table.bay 0).crcPeriod.getD k 0 + 1 < table.obj O.DIE_RETIRE_LIMIT 0) ∧
      (let m : Mach := { table with lines := [(l, ⟨1, 0, 0⟩)] }
       m.lineLive l = true ∧ m.linePoisoned l = false ∧ (m.lineMeta l).state = 0) ∧
      (∀ f ∈ [1, 128], popcount9 f = 1 ∧ f < 256 ∧ (⟨0x20000, f, true, 0, 0, true, 0⟩ : LineObs).ok = true) ∧
      stateBad 0 = false ∧ stateBad 0x21 = true ∧
      2 ≤ popcount9 3 ∧ 2 ≤ popcount9 (1 ||| 256) ∧ (⟨0x20000, 1, false, 0x21, 1, false, 0x21⟩ : LineObs).ok = true ∧
      l = lineOf 0x20000 := by decide +kernel

/-- A REDUCE over bays 0 and 1 of two blocks. -/
def reducing (doneAt : List Nat) (links : List (Nat × Nat × Block)) (written : Nat) : State :=
  at_ { table with acts := [runs 0 (desc [(0, 1, 7), (20, 3, 1), (23, 3, 16), (29, 2, 3), (31, 1, 1)])
    (.reducing { ReduceWork.begin 2 2 with doneAt := doneAt, links := links, written := written })] }

def reducingOf (s : State) : Option (Act × ReduceWork) :=
  match s.act? ⟨0, 0, 0⟩ with
  | some a => match a.work with | .reducing w => some (a, w) | _ => none
  | none => none

/-- An UPDATE in pass `phase` over bay 0. -/
def updated (phase : Nat) (shards : List Shard) (doneAt : List Nat) : State :=
  at_ { updating with acts := [runs 0 (desc (updateFields 2)) (.updating ⟨0, 0, false, [], shards, phase, 0, oneFp32, doneAt, [], 0⟩)] }

theorem witness_BlocksAndPasses :
    ((reducingOf (reducing [0, 0] [] 0)).any (fun x => x.1.cmd.chain.findIdx? (· == 0) == some 0 &&
      decide (x.2.doneAt.getD 0 0 < x.1.cmd.rBlocks) && table.awake x.1) && table.bayReady 0 && !table.psLagging) = true ∧
    ((reducingOf (reducing [1, 0] [(1, 0, ⟨0, [], false⟩)] 0)).any (fun x => x.1.cmd.chain.findIdx? (· == 1) == some 1 &&
      decide (x.2.doneAt.getD 1 0 < x.1.cmd.rBlocks) &&
      (x.2.links.find? fun l => l.1 == 1 && l.2.1 == x.2.doneAt.getD 1 0).isSome) && table.bayReady 1) = true ∧
    ((reducingOf (reducing [2, 2] [(2, 1, ⟨0, [], false⟩)] 1)).any fun x =>
      (x.2.links.find? fun l => l.1 == x.1.cmd.chain.length && l.2.1 == x.2.written).isSome) = true ∧
    (∀ skew : Bool, let s := updated 1 [{ Shard.new 0 0 false with skewed := skew, applied := !skew }] []
      (s.act? ⟨0, 0, 0⟩).any (fun a => match a.work with
        | .updating w => a.cmd.updMode == 2 && w.phase == 1 && (agreed w).isSome == skew
        | _ => false) = true) ∧
    (let s := updated 2 [Shard.new 0 0 false] []
     s.issues 0 && (s.act? ⟨0, 0, 0⟩).any (fun a => match a.work with
      | .updating w => a.cmd.updMode == 2 && a.cmd.chain.findIdx? (· == 0) == some 0 && w.phase == 2 && !w.doneAt.contains 0 &&
          s.awake a
      | _ => false)) = true := by
  refine ⟨?_, ?_, ?_, ?_, ?_⟩ <;> decide +kernel

end Sys2Proof.Tests

namespace Sys2Proof.Tests

/-! ### The pointing stream and the host -/

/-- The mirrored bench as PRIMARY (1) or MIRROR (2) in a state of its stream. -/
def paired (role : Nat) (st : PairState) : Mach :=
  let m := mirrored.setObj O.PS_ROLE 0 role
  { m with pair := { Pair.reset with state := st, key := some 0, queue := [256] } }

/-- A fragment of a handshake with NUMBER 1. -/
def fragmentOf (kind index count : Nat) (b : Bytes) : Bytes :=
  leBytes 1 kind ++ leBytes 1 index ++ leBytes 1 count ++ zerosB 1 ++ leBytes 2 b.length ++ zerosB 2 ++ leBytes 8 1 ++ zerosB 16 ++ b

theorem witness_RecordsAreMirrored : ∀ st ∈ [PairState.resync, .paired],
    (let m := paired 1 st
     m.pair.state = st ∧ m.psPrimary = true ∧ m.linkUp = true ∧ m.issues 0 = true ∧ m.psRoom 0 = true ∧
       m.pair.queue.find? (fun l => l / packageLines == 0 && smem m.dirty l && m.psLine l) = some 256 ∧
       ∀ k ∈ m.storeBays (256 * 256) 256, m.bayUp k = true) ∧
    (let m := paired 2 st
     m.psPrimary = false ∧ (zerosB 304).length = 304 ∧ ¬ (fld (zerosB 304) 0 1 = 1 ∨ fld (zerosB 304) 0 1 = 2)) ∧
    (let m := paired 2 st
     let r := leBytes 1 1 ++ zerosB 303
     r.length = 304 ∧ fld r 0 1 = 1 ∧ fld r 2 1 = 0 ∧ fld r 8 8 = m.psNext 0) ∧
    (mget ({ paired 2 st with pair := { (paired 2 st).pair with ackDue := [(15, 4)] } } : Mach).pair.ackDue 15 = some 4) ∧
    ∀ v ∈ [1, 4], let m : Mach := { paired 1 st with pair := { (paired 1 st).pair with seq := [(0, 4)] } }
      m.psPrimary = true ∧ m.psAcked 0 < v ∧ v ≤ m.psNext 0 := by
  intro st h
  simp only [List.mem_cons, List.not_mem_nil, or_false] at h
  rcases h with rfl | rfl <;> refine ⟨?_, ?_, ?_, ?_, ?_⟩ <;> decide +kernel

/-- A stream that lags: its record has been sent at 0 and is not acknowledged, and a write is held since 3. -/
def lagging : Mach :=
  let m := (paired 1 .paired).setObj O.PS_LAG_BOUND 0 0
  { m with now := 9, pair := { m.pair with unacked := [⟨0, 0, none, 0⟩], heldSince := some 3 } }

theorem witness_RecordsAreMirrored_held :
    lagging.psLagging = true ∧ Instr.isHeld (.lentRevoke 0 []) = true ∧
      (∃ t, exec (.lentRevoke 0 []) (at_ lagging) = .next t) ∧
      (let m : Mach := { lagging with pair := { lagging.pair with unacked := [] } }
       m.pair.heldSince = some 3 ∧ m.psLagging = false) := by
  refine ⟨by decide +kernel, rfl, ?_, by decide +kernel⟩
  have h : (match exec (.lentRevoke 0 []) (at_ lagging) with | .next _ => true | _ => false) = true := by decide +kernel
  cases hx : exec (.lentRevoke 0 []) (at_ lagging) with
  | next t => exact ⟨t, rfl⟩
  | fault f => rw [hx] at h; cases h
  | refused r => rw [hx] at h; cases h

theorem witness_PairsShakeHandsAndPart :
    ((paired 1 .resync).psLive = true ∧ (paired 2 .paired).psLive = true) ∧
    ((paired 1 .handshake).pair.state = .handshake ∧ (paired 1 .handshake).pair.seenNumber = 0) ∧
    bench.plinth.inputOn = true ∧
    (∀ role ∈ [1, 2], ∀ peer ∈ [1, 2], let s := at_ (paired role .handshake)
      let b := fragmentOf 1 0 1 (leBytes 1 peer ++ zerosB 1 ++ leBytes 2 3 ++ zerosB 36)
      s.hears 1 b ∧ fld (payload b) 2 2 = maskOf s.psBays ∧ s.obj O.PS_ROLE 0 = role ∧ fld (payload b) 0 1 = peer) ∧
    (let s := at_ (paired 2 .handshake)
     let b := fragmentOf 1 0 1 (leBytes 1 1 ++ zerosB 1 ++ leBytes 2 7 ++ zerosB 36)
     s.hears 1 b ∧ fld (payload b) 2 2 ≠ maskOf s.psBays) ∧
    (∀ v ∈ [[], zerosB 32], let m := paired 1 .handshake
     let s := at_ { m with pair := { m.pair with confirmValue := v } }
     s.hears 4 (fragmentOf 4 0 1 (zerosB 32)) ∧ s.psPrimary = true ∧ s.pair.confirmValue = v) ∧
    (let s := at_ (paired 2 .resync)
     s.hears 5 (fragmentOf 5 0 1 []) ∧ s.psPrimary = false) ∧
    (∀ st ∈ [PairState.handshake, .resync, .paired], (at_ (paired 1 st)).hears 6 (fragmentOf 6 0 1 [])) ∧
    ∀ st ∈ [PairState.handshake, .resync, .paired],
      let m := paired 1 st
      (at_ { m with pair := { m.pair with awaiting := some 9 } }).hears 7 (fragmentOf 7 0 1 (leBytes 8 9)) := by
  refine ⟨?_, ?_, ?_, ?_, ?_, ?_, ?_, ?_, ?_⟩ <;> decide +kernel

theorem witness_PairsExchangeReportsAndKeys :
    (let b := fragmentOf 2 0 3 (zerosB 8 ++ leBytes 2 3)
     (at_ (paired 1 .handshake)).hears 2 b ∧ fld b 1 1 + 1 < fld b 2 1) ∧
    (∀ bays ∈ [3, 7], let b := fragmentOf 2 2 3 (zerosB 8 ++ leBytes 2 bays)
      let s := at_ (paired 1 .handshake)
      s.hears 2 b ∧ fld b 2 1 ≤ fld b 1 1 + 1 ∧ (fld (s.pair.gathered ++ payload b) 8 2 = maskOf s.psBays ↔ bays = 3)) ∧
    ∀ h ∈ [[], zerosB 32], let m := paired 2 .handshake
      let s := at_ { m with pair := { m.pair with hashP := h } }
      s.hears 3 (fragmentOf 3 0 1 (zerosB 1088)) ∧ s.psPrimary = false ∧ s.pair.hashP = h := by
  refine ⟨?_, ?_, ?_⟩ <;> decide +kernel

theorem witness_LinkEventsAct :
    (∀ w ∈ [1, 2, 4, 8, 16], (Instr.linkUp 1 w 8).wf = true) ∧
    (∀ k ∈ [0, 1, 2, 3], (with_ [(O.LINK_STATE, 0, k)]).obj O.LINK_STATE 0 = k) ∧
    bench.modState = .run ∧ Mach.reset.modState ≠ .run ∧ Mach.reset.linkPowered = false ∧
    (let m : Mach := { bench with modState := .start, start := { Start.reset with stage := some 7 } }
     m.modState ≠ .run ∧ m.linkPowered = true) ∧
    (let c := cmd (desc hostCopyFields)
     ({ bench with received := [c] } : Mach).received.find? (fun x => decide (x.id = ⟨0, 5, 0⟩)) = some c) ∧
    (let w := { plainCopy 0 0 none with src := hostBase }
     let s := copies w []
     s.received.find? (fun c => decide (c.id = ⟨0, 0, 0⟩)) = none ∧ isHost w.src = true ∧
       (s.act? ⟨0, 0, 0⟩).any (fun a => decide (a.copyWork? = some w)) = true) ∧
    (let a := { runs 0 (desc (wide 1 [(32, 4, 9), (36, 4, 1), (40, 4, 3)])) .items with
       handles := [(32, plainHandle 9 9 (hostBase + 0x10000) 2048)] }
     let s := at_ { table with acts := [a] }
     s.act? ⟨0, 0, 0⟩ = some a ∧ a.copyWork? = none ∧ a.work = .items ∧ a.hostInput.isSome = true) := by
  refine ⟨?_, ?_, ?_, ?_, ?_, ?_, ?_, ?_, ?_⟩ <;> decide +kernel

theorem witness_WindowIsReadAndWritten : ∀ on ∈ [0, 1],
    let s := at_ { sets bench [(O.HDM_SIZE, 0, 2 ^ 28), (O.HDM_ENABLE, 0, on)] with hdmCommitted := some 0x1000 }
    s.hdmCommitted = some 0x1000 ∧ s.obj O.HDM_ENABLE 0 = on ∧ s.linkUp = true ∧ s.mirrorsOn ∧
      ∀ addr ∈ [0x1000, 0x1000 + 2 ^ 28 - 64], 0x1000 ≤ addr ∧ addr + 64 ≤ 0x1000 + s.obj O.HDM_SIZE 0 ∧ addr < 2 ^ 64 ∧
        addr % 64 = 0 := by decide +kernel

/-! ### The plinth, the bays, start-up and trace -/

theorem witness_PlinthEventsAct :
    Mach.reset.plinth.inputOn = false ∧ bench.plinthUp = true ∧
      (∀ b : Bool, (bench.setPlinth { bench.plinth with eFuse := b }).plinth.eFuse = b) ∧
      sampleOk [(0x60, 0x42580000), (0x70, 0), (0x76, 15)] = true ∧ (Instr.governorInterval [(0, 5), (15, 7)]).wf = true := by
  decide +kernel

theorem witness_DroopsAndClocks :
    (bench.modState = .run ∧ (bench.bay 15).power ≠ .off ∧ (bench.bay 15).power ≠ .failed) ∧
    ((bench.setBay 15 { bench.bay 15 with droop := 8 }).bay 15).droop ≠ 0 ∧
    (∀ k, k < 4 → ((bench.setObj O.PLL_LOCK 0 15).obj O.PLL_LOCK 0).testBit k = true) ∧ bench.plinthUp = true ∧
    ∀ k ∈ [0, 3], mget ({ bench.plinth with pllLost := [(k, 9)] } : Plinth).pllLost k = some 9 := by
  decide +kernel

/-- The bench with bay 15 in a power state. -/
def bayIn (p : BayPower) : Mach := bench.setBay 15 { bench.bay 15 with power := p }

theorem witness_BaysFailSleepAndWake :
    (∀ n ∈ [1, 3], (⟨n * 2 ^ 64, 0⟩ : WordObs).ok = true ∧ (seqWordClass ⟨n * 2 ^ 64, 0⟩).lost = (n == 3)) ∧
    bench.sequencerRuns 15 = true ∧ (bayIn .idle).maySleep 15 = true ∧
    (let m := (bayIn .sleep).setObj O.BAY_OFF_AFTER 0 1000
     (m.bay 15).power = .sleep ∧ m.mayOff 15 = true) ∧
    (∀ woken : Bool,
      let m := (bayIn .idle).setObj O.BAY_OFF_AFTER 0 1000
      let m := m.setBay 15 { m.bay 15 with leaving := true, wakeAsked := woken }
      (m.bay 15).power = .idle ∧ (m.bay 15).leaving = true ∧ m.mayOff 15 = !woken) ∧
    (let m := (bayIn .off).setBay 15 { (bayIn .off).bay 15 with wakeAsked := true }
     m.offWakes.head? = some 15) ∧
    (∀ p ∈ [BayPower.idle, .sleep, .off],
      let m := (bayIn p).setBay 15 { (bayIn p).bay 15 with wakeAsked := true, wakeStarted := true }
      (m.bay 15).wakeAsked = true ∧ (m.bay 15).power = p ∧ (m.bay 15).wakeStarted = true) := by
  refine ⟨?_, by decide +kernel⟩
  intro n hn
  simp only [List.mem_cons, List.not_mem_nil, or_false] at hn
  rcases hn with rfl | rfl
  · exact ⟨by decide +kernel, by rw [seqWordClass_oneCheck]; rfl⟩
  · exact ⟨by decide +kernel, by rw [seqWordClass_twoChecks]; rfl⟩

theorem witness_StandbyIsEnteredAndLeft :
    (let m := bench.setPlinth { bench.plinth with draining := some 7 }
     m.plinth.draining = some 7 ∧ m.modState = .run ∧ ∀ j, j < 64 → (m.journal j).state = .disabled) ∧
    (let m : Mach := { bench with modState := .standby }
     m.modState = .standby ∧ m.wanted = true) := by
  decide +kernel

/-- The module in a stage of its start. -/
def inStage (n : Nat) : Mach := { bench with modState := .start, start := { Start.reset with stage := some n } }

theorem witness_EarlyStagesEnd : ∀ n ∈ [0, 1, 2],
    (inStage n).start.halted = false ∧ (inStage n).start.stage = some n ∧
      (⟨1, 2, 3, 0, 5, [0, 10879]⟩ : Fuses).ok = true := by
  decide +kernel

theorem witness_LaterStagesEnd :
    (∀ n ∈ [3, 4, 5, 6, 7, 9], (inStage n).start.halted = false ∧ (inStage n).start.stage = some n) ∧
      (⟨[0, 10879], [159], [15], [1]⟩ : BadParts).ok = true ∧
      (Instr.s5Armature ⟨true, 5, []⟩ [(.bayMesh 3, 9), (.bayLink, 0)]).wf = true ∧
      (Instr.s6Memory ⟨true, 5, []⟩ [(0, 9), (1, 9), (9, 9)]).wf = true ∧ (inStage 7).obj O.LINK_STATE 0 = 1 ∧
      (inStage 6).inService 0 = true := by
  decide +kernel

theorem witness_TilesAreFenced :
    (∀ t ∈ [0, 10239], bench.tileRuns t = true) ∧ (⟨3, 0⟩ : WordObs).ok = true ∧ bench.plinth.inputOn = true ∧ bench.isHole 5 = false ∧
    (let m : Mach := { bench with running := [⟨tileEngine 10239 2, ⟨0, 0, 0⟩, 0⟩] }
     m.holdsItem 10239 = true ∧ m.bayLevel 15 < 16 ∧ (m.bay 15).power = .run) := by
  decide +kernel

/-- The bench tracing in a state and mode, with the queues and buffers given. -/
def tracing (mode : Nat) (st : TrState) (q : SMap CapQueue) (b : SMap TraceBuf) : Mach :=
  { bench.setObj O.TR_MODE 0 mode with trace := { Trace.reset with state := st, queues := q, bufs := b } }

theorem witness_TraceRuns :
    bench.inRun = true ∧
    (∀ x ∈ [(⟨[zerosB 32], none⟩ : CapQueue), ⟨[], some ⟨3, 1, 5, 6⟩⟩, ⟨[zerosB 32], some ⟨3, 1, 5, 6⟩⟩],
      let m := tracing 0 .capturing [(159, x)] []
      (bayQueues 15).find? (fun q => !(m.capQueue q).recs.isEmpty || (m.capQueue q).gap.isSome) = some 159 ∧
        m.capQueue 159 = x) ∧
    (let m := tracing 0 .capturing [] [(3, ⟨[], none, [zerosB 32], none⟩)]
     m.obj O.TR_MODE 0 ≠ 2 ∧
       ((List.range 16).map fun i => (m.trace.nextBay + i) % 16).find? (fun b => !(m.toSend b).isEmpty) = some 3) ∧
    (let m := tracing 2 .sending [] []
     m.obj O.TR_MODE 0 = 2 ∧
       ((List.range 16).map fun i => (m.trace.nextBay + i) % 16).find? (fun b => !(m.toSend b).isEmpty) = none) ∧
    ∀ st ∈ [TrState.triggered, .training], (tracing 2 st [] []).trace.state ≠ .off := by
  refine ⟨?_, ?_, ?_, ?_, ?_⟩ <;> decide +kernel

/-! ### Rules over operations -/

theorem witness_ItemsAreDealtStatically :
    (let c := cmd (desc (items 4 64 1 8 ++ [(30, 1, 3)]))
     1 ≤ c.spanCount ∧ ∀ i ∈ [0, 1, 3, 4], i < 5) ∧
    let s := dealt [counter 0 3]
    ∃ t, exec (.workCounterRequest 2) s = .next t ∧ (⟨2, ⟨0, 0, 0⟩, 3⟩ : Running) ∈ t.running ∧
      (⟨2, ⟨0, 0, 0⟩, 3⟩ : Running) ∉ s.running := by
  refine ⟨by decide +kernel, ?_⟩
  have h : (match exec (.workCounterRequest 2) (dealt [counter 0 3]) with
    | .next t => decide ((⟨2, ⟨0, 0, 0⟩, 3⟩ : Running) ∈ t.running ∧ (⟨2, ⟨0, 0, 0⟩, 3⟩ : Running) ∉ (dealt [counter 0 3]).running)
    | _ => false) = true := by decide +kernel
  cases hx : exec (.workCounterRequest 2) (dealt [counter 0 3]) with
  | next t => rw [hx] at h; exact ⟨t, hx, of_decide_eq_true h⟩
  | fault f => rw [hx] at h; cases h
  | refused r => rw [hx] at h; cases h

theorem witness_SubnormalsAndNans :
    (∀ c ∈ [0x01, 0x87, 0x80], c / 2 ^ FloatFmt.f8.mbits % 2 ^ FloatFmt.f8.ebits = 0) ∧
      (convertFloat .fp16 .rne (.fin false 1 (2 ^ 30)) .none).1 / 2 ^ FloatFmt.fp16.mbits % 2 ^ FloatFmt.fp16.ebits = 0 ∧
      (decodeFloat .bf16 0xFFC1).isNan = true := by
  decide +kernel

theorem witness_FlagsStick :
    ((Flg.none.inv = false) ∧ (bench.engine 2).firstFault % 2 = 0) ∧
      let m : Mach := { bench with engines := [(2, { Engine.reset with flags := 15, firstFault := 1 })] }
      (m.engine 2).firstFault % 2 = 1 ∧ (mget m.engines 2).isSome = true ∧ ∀ p ∈ paths, m.seesEngine p 2 = true := by
  refine ⟨?_, ?_⟩ <;> decide +kernel

def slotWrite (p : Path) (v : Nat) : SlotWrite := ⟨0, p, oKey O.HEADROOM 0 / 256, oKey O.HEADROOM 0 % 256, v, none⟩

theorem witness_OneWriteWins :
    let w := slotWrite .pf0 3
    let u := slotWrite (.vf 1) 4
    (rowAt w.index w.sub).isSome = true ∧ u.key = w.key ∧ (arbitrate [w, u]).2.2 ≠ [] ∧ mgmt.ok = true ∧
      mgmt.isMgmt = true := by
  decide +kernel

theorem witness_AnswersAreLaidOut :
    (3 < 256 ∧ 65535 < 65536 ∧ (zerosB 4).length < 65536) ∧
      (rowAt (oKey O.HEADROOM 0 / 256) (oKey O.HEADROOM 0 % 256)).any (fun r => decide (r.size < 65536)) = true := by
  decide +kernel

theorem witness_ConsentGovernsTrace :
    (let m : Mach := { (bench.setObj O.TR_KINDS 0 15).setObj O.TR_LAYER_HI 0 65535 with
       trace := { Trace.reset with state := .capturing } }
     m.capture 0x000002 1 (cmd (desc (items 4 64 1 8))) false 0 0 .zero 0 ≠ m) ∧
    (∀ c ∈ [0, 1], (bench.setObj O.PT_CONFIDENTIAL 0 c).obj O.PT_SELECT 0 < 16) ∧
    let m := bench.setPart 0 { bench.part 0 with confidential := true }
    (m.part 0).confidential = true ∧ (Path.vf 1).ok = true ∧
      m.writeCheck (.vf 1) (oKey O.TR_CONSENT 0 / 256) (oKey O.TR_CONSENT 0 % 256) [1] = 0 := by
  refine ⟨?_, ?_, ?_⟩ <;> decide +kernel

theorem witness_FramesOfRowsThatStoreNothing :
    (∃ t, exec (.tileWatchdogRestart 3) (at_ bench) = .next t) ∧ Instr.storesNothing (.tileWatchdogRestart 3) = true ∧
      (∃ t, exec (.plcaBeacon 2) (at_ bench) = .next t) ∧ Instr.onField (.plcaBeacon 2) = true := by
  have f : ∀ {r : Host.Outcome State Fault Refusal}, (match r with | .next _ => true | _ => false) = true → ∃ t, r = .next t := by
    intro r h
    cases r with
    | next t => exact ⟨t, rfl⟩
    | fault f => cases h
    | refused r => cases h
  exact ⟨f (by decide +kernel), rfl, f (by decide +kernel), rfl⟩

end Sys2Proof.Tests

namespace Sys2Proof.Tests

/-! ### The machine -/

theorem witness_StepTakesTheFrontCommand :
    (at_ bench).pending = [] ∧ ({ bench with pending := [.heartbeat, .linkDown] } : State).pending = .heartbeat :: [.linkDown] :=
  ⟨rfl, rfl⟩

/-- A step that answers a next state, from memory in canonical form, with commands waiting. -/
def queued : State := { bench with mem := cells 0x300 [1, 0, 2], pending := [.tileWatchdogRestart 3, .linkDown] }

theorem next_of {r : Host.Outcome State Fault Refusal} (h : (match r with | .next _ => true | _ => false) = true) :
    ∃ t, r = .next t := by
  cases r with
  | next t => exact ⟨t, rfl⟩
  | fault f => cases h
  | refused r => cases h

theorem witness_StepKeepsMemoryCanonical : Mach.memOk queued.toMach ∧ ∃ t, step queued = .next t :=
  ⟨by decide +kernel, next_of (by decide +kernel)⟩

theorem witness_StepKeepsQueueAndTime :
    (∃ t, step queued = .next t) ∧ ∀ c ∈ queued.pending.head?, c.restartsTime = false :=
  ⟨next_of (by decide +kernel), by decide +kernel⟩

/-- A descriptor of every row of `computeRows` whose first field is wrong: no columns. -/
def wrongFields : List (List (Nat × Nat × Nat)) := computeFields.map (· ++ [(23, 3, 0)])

theorem witness_RefusedCommandsOnlyRecord : ∀ x ∈ computeRows.zip wrongFields,
    (given x.2).mirrorsOn ∧ (given x.2).takes x.1.kind (cmd (desc x.2)) ∧
      ∃ e, x.1.validate (read_ x.2) (cmd (desc x.2)) = .error e ∧ e.1 ≠ rLINK := by
  have h : ((computeRows.zip wrongFields).all fun x => decide ((given x.2).takes x.1.kind (cmd (desc x.2))) &&
      !(given x.2).psLagging &&
      (match x.1.validate (read_ x.2) (cmd (desc x.2)) with | .ok _ => false | .error e => decide (e.1 ≠ rLINK))) = true := by
    decide +kernel
  intro x hx
  have hx := List.all_eq_true.mp h x hx
  simp only [Bool.and_eq_true, decide_eq_true_eq, Bool.not_eq_true'] at hx
  obtain ⟨⟨h1, h0⟩, h2⟩ := hx
  refine ⟨h0, h1, ?_⟩
  cases hv : x.1.validate (read_ x.2) (cmd (desc x.2)) with
  | ok a => rw [hv] at h2; cases h2
  | error e => rw [hv] at h2; exact ⟨e, rfl, of_decide_eq_true h2⟩

/-! ### Ill-formed commands: one for each check of `Instr.wf` -/

def illFormed : List Instr :=
  [.cast ⟨⟨64, 0, 0⟩, []⟩, .cast ⟨⟨0, 2 ^ 48, 0⟩, []⟩, .cast ⟨⟨0, 0, 1⟩, []⟩, .scaleLatch ⟨⟨0, 0, 32⟩, []⟩,
   .copy ⟨⟨0, 0, 0⟩, [.merge ⟨0, 0, true, 256, 0, true, 0⟩]⟩, .read (.vf 0) (.obj 0 0),
   .read (.vf 17) (.obj 0 0), .read (.umpor (2 ^ 128 + 0x80FE) 7000 0) (.obj 0 0), .read (.umpor 1 7000 0) (.obj 0 0),
   .read (.umpor 0x80FE 0 0) (.obj 0 0), .read (.umpor 0x80FE 65536 0) (.obj 0 0), .read (.umpor 0x80FE 7000 65536) (.obj 0 0),
   .read .pf0 (.obj 65536 0), .read .pf0 (.obj 0 256), .read mgmt (.reg 0 0 4), .read .pf0 (.reg 0 65536 4),
   .read .pf0 (.reg 0 2 4), .read .pf0 (.reg 0 4 8), .read .pf0 (.reg 1 0 4), .read .pf0 (.reg 0 0 2), .read (.vf 1) (.reg 4 0 4),
   .read .pf0 (.reg 4 262144 4),
   .write .pf0 (.obj 0 0) (zerosB 1273), .write .pf0 (.reg 0 0 4) (zerosB 5), .write .pf0 (.reg 0 4 4) (zerosB 8),
   .describe .pf0 0 256, .pReset .pf0 16 1, .pReset .pf0 0 256, .placeCommit .pf0 16 0, .placeCommit .pf0 0 (2 ^ 32),
   .jEnable .pf0 64 0, .cEnable .pf0 64 0, .updReset .pf0 16 1, .dieRetired .pf0 16 1, .dieRetired .pf0 0 65536,
   .standby .pf0 256, .fwLoad .pf0 1 (.image [] [10240] []), .fwLoad .pf0 1 (.image [] [] [16]), .fenceTile .pf0 65536,
   .numSummary .pf0 (2 ^ 64), .rules .pf0 (zerosB 511), .ruleFired .pf0 (2 ^ 32), .hdmCommit (2 ^ 64) 0, .hdmCommit 0 (2 ^ 64),
   .request ⟨2 ^ 128, 1, 0, 0, true, []⟩, .request ⟨0, 65536, 0, 0, true, []⟩, .request ⟨0, 0, 0, 0, true, []⟩,
   .request ⟨0, 1, 65536, 0, true, []⟩, .request ⟨0, 1, 0, 256, true, []⟩, .request ⟨0, 1, 0, 0, true, zerosB 1453⟩,
   .noticeResend 65536, .controlLineInvalidate 64 .fail, .controlLineInvalidate 0 (.ok (zerosB 63) false),
   .statusLineWrite 64, .waitTimeout ⟨0, 0, 1⟩, .completionRecord 64, .consumerLineUpdate 64 .fail,
   .consumerLineUpdate 0 (.ok [] false), .counterBind ⟨0, 0, 0⟩ 160, .workCounterRequest (2 ^ 24),
   .workCounterRequest 0xA0000, .workCounterRequest 5, .workItemEnd 0 ⟨0, 0, 0⟩ [.line ⟨2 ^ 40, 0, true, 0, 0, true, 0⟩],
   .workItemEnd 0 ⟨0, 0, 0⟩ [.word (2 ^ 56 + 4) ⟨0, 0⟩], .workItemEnd 0 ⟨0, 0, 0⟩ [.line ⟨0, 512, true, 0, 0, true, 0⟩], .workItemEnd 0 ⟨0, 0, 0⟩ [.word (2 ^ 56) ⟨2 ^ 72, 0⟩],
   .outlierAddBack 160 [], .transferIssue 16, .transferDone 16 0 [], .dryTimeAging 16 ⟨0, 0, 0⟩, .multicastDrop ⟨0, 0, 0⟩ 10240,
   .lentRevoke 10240 [], .scrubLine 16 ⟨0, 0, true, 0, 0, true, 0⟩, .scrubLine 0 ⟨0, 0, true, 0, 512, true, 0⟩,
   .sramScrub (.store 0) ⟨0, 0⟩, .sramScrub (.baySequencer 16) ⟨0, 0⟩, .sramScrub (.tileSequencer 10240) ⟨0, 0⟩,
   .sramScrub (.store (2 ^ 56)) ⟨0, 128⟩, .bayStoreUncorrectable ⟨16, ⟨0, 0⟩⟩, .tileSequencerStoreFault ⟨10240, ⟨0, 0⟩⟩, .psSendLine ⟨16, []⟩,
   .lineWriteBack (2 ^ 32), .reduceBayBlock ⟨0, 0, 0⟩ 16 [] [], .reduceBayBlock ⟨0, 0, 0⟩ 0 [⟨none, 0, 32⟩] [], .psApplyRecord 16 (zerosB 304), .psApplyRecord 0 (zerosB 303),
   .psAckTimer 16, .acked 16 0, .acked 0 (2 ^ 64), .hello (zerosB 31), .ack (zerosB 4097), .linkUp 3 16 32, .linkUp 1 3 32,
   .linkUp 1 16 64, .vfFlr 0, .vfFlr 17, .hdmRead (2 ^ 64) 64 [], .hdmRead 32 64 [], .hdmRead 0 32 [],
   .hdmWrite 32 (zerosB 64) false [], .hdmWrite 0 (zerosB 63) false [], .plinthSample [(0x60, 0x7F800000)],
   .plinthSample [(0x70, 2)], .plinthSample [(0x76, 16)], .plinthSample [(0xFF, 0)], .droopDetect 16,
   .governorInterval [(16, 0)], .pllUnlock 4, .bOff 16, .s0Plinth ⟨true, 0, []⟩ 16,
   .s2Fuses ⟨true, 0, []⟩ ⟨2 ^ 128, 0, 0, 0, 0, []⟩, .s2Fuses ⟨true, 0, []⟩ ⟨0, 2 ^ 48, 0, 0, 0, []⟩,
   .s2Fuses ⟨true, 0, []⟩ ⟨0, 0, 0, 2 ^ 32, 0, []⟩, .s2Fuses ⟨true, 0, []⟩ ⟨0, 0, 0, 0, 0, [10880]⟩,
   .s3Sram ⟨true, 0, []⟩ ⟨[10880], [], [], []⟩, .s4Tiles ⟨true, 0, []⟩ ⟨[], [160], [], []⟩,
   .s4Tiles ⟨true, 0, []⟩ ⟨[], [], [16], []⟩, .s4Tiles ⟨true, 0, []⟩ ⟨[], [], [], [16]⟩,
   .s5Armature ⟨true, 0, []⟩ [(.tilePort 10240, 0)], .s5Armature ⟨true, 0, []⟩ [(.clusterAttachment 160, 0)],
   .s5Armature ⟨true, 0, []⟩ [(.bayMesh 16, 0)], .s6Memory ⟨true, 0, []⟩ [(144, 0)], .tileWatchdogExpiry 10240,
   .traceQueueDrain 16, .plcaBeacon 3, .neighbourDiscovery ⟨true, 2 ^ 128, 0, false⟩,
   .neighbourDiscovery ⟨true, 0, 2 ^ 128, false⟩, .peerHeartbeat (2 ^ 64), .packageBlankRewrite 16]

def faults (r : Host.Outcome State Fault Refusal) : Bool := match r with | .fault .illFormed => true | _ => false

theorem test_illFormed_commands_fault : ∀ c ∈ illFormed, c.wf = false ∧ faults (exec c State.reset) = true := by
  decide +kernel

theorem witness_WellFormedCommandsAnswer : (Instr.cast ⟨⟨64, 0, 0⟩, []⟩).wf = false ∧ (Instr.cast ⟨⟨63, 2 ^ 48 - 1, 0⟩, []⟩).wf = true := by
  decide +kernel

end Sys2Proof.Tests

namespace Sys2Proof.Tests

/-! ### Figures of the spec's worked examples -/

/-- 00_scope.md: the dX-array of tile 6543 and the update unit of its bay; a tile engine has no TILE of FFh. -/
theorem test_engine_identifiers :
    tileEngine 6543 1 = 0xA20F01 ∧ engineTile 0xA20F01 = 6543 ∧ bayEngine (engineBay 0xA20F01) 6 = 0xAFFF06 ∧
      engineOk 0xAFFF06 = true ∧ engineOk 0xA2FF00 = false := by decide +kernel

/-- 02_number_formats.md: -0.40625 to G4 with the draws 7000h and 5FFFh; F4 5h and G4 Bh in the internal form. -/
theorem test_gradient_conversion :
    (convertG4 (.sr 0x7000) (.fin true 13 32) .none).1 = 0xB ∧ (convertG4 (.sr 0x7000) (.fin true 13 32) .none).2.inx = true ∧
      (convertG4 (.sr 0x5FFF) (.fin true 13 32) .none).1 = 0xA ∧ internalForm .f4 5 = 0x08C ∧ internalForm .g4 0xB = 0x168 := by
  decide +kernel

/-- 03_blocks_and_scales.md: the four elements of the block at (5, 200), and its place in its page. -/
theorem test_seeded_block :
    (convertF4 .rne (.fin false 6 1) .none).1 = 7 ∧ (convertF4 .rne (.fin true 2 1) .none).1 = 0xC ∧
      (convertF4 .rne (.fin false 1 1) .none).1 = 2 ∧
      (convertF4 .rne (.fin false 7 2) .none).1 = 6 ∧ (convertF4 .rne (.fin false 7 2) .none).2.inx = true ∧
      scaleAddr 0 1480 = 0xBC17 ∧ dataAddr 0 1480 = 0xBF00 := by decide +kernel

/-- 07_gradient_reduction.md: residues of the mantissas summed in bays B4 and B5. -/
theorem test_residues : mod15 524288000 = 5 ∧ mod15 527433729 = 9 ∧ mod15 1628962817 = 2 ∧
    mod15 (-53215232) = 13 := by decide +kernel

/-- 08_parameter_update.md: one AdamW element on the first step. -/
def adam : UpdEntry :=
  ⟨zerosB 128, [2] ++ zerosB 3 ++ leBytes 4 0x3F800000 ++ zerosB 4 ++ leBytes 4 0x3F600000 ++ leBytes 4 0x3F7C0000 ++
    leBytes 4 0x35800000 ++ leBytes 4 0x3C000000 ++ leBytes 4 0x3F800000 ++ zerosB 32, [], 0,
    [0x3A800000, 0x3C000000, 0x3E000000, 0x3C800000, 0x3E000000, 0x3C800000], oneFp32⟩

theorem test_adamw_element :
    ((adam.optimise 0x3FC00000 0 0 0x3F000000) .none).1.1 = 0x3FBFDFA0 ∧
      ((adam.optimise 0x3FC00000 0 0 0x3F000000) .none).1.2.1 = 0x3D800000 ∧
      ((adam.optimise 0x3FC00000 0 0 0x3F000000) .none).1.2.2.1 = 0x3B800000 := by decide +kernel

/-- 12_object_dictionary.md: two writes of POWER_CAP in one slot; the field network wins on a safety object. -/
theorem test_two_writers :
    let w := fun (p : Path) (v : Nat) =>
      (⟨92003, p, oKey O.POWER_CAP 0 / 256, oKey O.POWER_CAP 0 % 256, v, none⟩ : SlotWrite)
    arbitrate [w mgmt 0x44480000, w .pf0 0x44610000] = ([w mgmt 0x44480000], [], [w .pf0 0x44610000]) ∧
      slotStart 92006 = 92000 := by decide +kernel

/-- 15_power_clocks_and_plinth.md: the governor at 10 and 20 µs with a cap of 800 W. -/
def governed (level : Nat) : Mach :=
  (bench.setObj O.POWER_CAP 0 0x44480000).setPlinth
    { bench.plinth with level := level, pFix := 300000, calNum := 1, calDen := 1, slotId := 5 }

theorem test_governor_levels :
    (governed 0).governLevel 660000 = (4, 0) ∧ (governed 4).governLevel 495000 = (4, 0) := by decide +kernel

/-- R37, R38: a subnormal BF16 code reads as a zero of its sign; NaNs are written as the canonical positive one. -/
theorem test_subnormals_and_nans :
    decodeFloat .bf16 0x8001 = .fin true 0 1 ∧ (convertFloat .fp16 .rne .nan .none).1 = 0x7E00 ∧
      (convertFloat .bf16 .rne (.fin true 1 (2 ^ 130)) .none).1 = 0x8000 := by decide +kernel

/-! ### Single steps -/

def after? (r : Host.Outcome State Fault Refusal) (p : State → Bool) : Bool := match r with | .next t => p t | _ => false

/-- R393, R426: the input's arrival begins module time and stage S0. -/
theorem test_inputApplied : after? (exec .inputApplied State.reset) (fun t =>
    t.plinth.inputOn && t.start.stage == some 0 && t.now == 0) = true := by decide +kernel

/-- R77: SCALE_SEED_CLEAR writes zeros over its entry, here entry 1, and leaves entry 2 as it was. -/
theorem test_scaleSeedClear :
    (let c := cmd (desc [(0, 1, 11), (2, 2, 1), (20, 4, 1)])
     let m : Mach := { table with mem := cells 0 handles ++ cells 0x80080 [1, 2] ++ cells 0x80100 [3], received := [c] }
     after? (exec (.scaleSeedClear ⟨c.id, []⟩) (at_ m)) fun t =>
       Memory.get t.mem 0x80080 == 0 && Memory.get t.mem 0x80081 == 0 && Memory.get t.mem 0x80100 == 3) = true := by
  decide +kernel

/-- R442, R25: fencing tile 5 by command makes it a hole; a bay whose watchdog expires is FAILED. -/
theorem test_faults_in_service :
    after? (exec (.fenceTile (.vf 1) 5) (at_ bench)) (fun t => t.isHole 5 && !t.isHole 6) = true ∧
      after? (exec (.bayWatchdogExpiry 2) (at_ bench)) (fun t => (t.bay 2).power == .failed && (t.bay 3).power == .run) = true := by
  decide +kernel

/-- R321, R325: a mailbox write of POWER_CAP and the end of its slot: the object holds the value and DONE is set. -/
theorem test_slot_of_one_write :
    after? (exec (.write .pf0 (.obj (oKey O.POWER_CAP 0 / 256) (oKey O.POWER_CAP 0 % 256)) (leBytes 4 0x44480000)) (at_ bench))
      (fun s => (s.mailbox 0).busy && after? (exec .arbitrationSlotEnd s) fun t =>
        t.obj O.POWER_CAP 0 == 0x44480000 && (t.mailbox 0).done && !(t.mailbox 0).busy && t.now == 10) = true := by
  decide +kernel

/-- R343, R347, R339, R345: training ends, the loss of the link is counted, PERST_N low takes it down, a PF0 reset clears
HDM_ENABLE and a VF's its mailbox, and a command whose host read returns nothing is refused with LINK. -/
theorem test_link_events :
    after? (exec (.linkUp 1 16 32) (with_ [(O.LINK_STATE, 0, 3)])) (fun t =>
      t.obj O.LINK_STATE 0 == 1 && t.obj O.LINK_WIDTH 0 == 16 && t.obj O.LINK_SPEED 0 == 32) = true ∧
    after? (exec .linkDown (at_ busy)) (fun t =>
      t.obj O.LINK_STATE 0 == 3 && t.obj O.LINK_DOWNS 0 == 1 && (t.journal 0).state == .stopped) = true ∧
    after? (exec .perstAssert (with_ [])) (fun t => t.obj O.LINK_STATE 0 == 0 && !t.plinth.perst) = true ∧
    after? (exec .perstRelease (at_ ((bench.setLink 0 0 0).setPlinth { bench.plinth with perst := false }))) (fun t =>
      t.obj O.LINK_STATE 0 == 3) = true ∧
    after? (exec .pf0Flr (with_ [(O.HDM_ENABLE, 0, 1)])) (fun t => t.obj O.HDM_ENABLE 0 == 0) = true ∧
    after? (exec (.vfFlr 1) (at_ (bench.setMailbox 1 { bench.mailbox 1 with busy := true }))) (fun t =>
      !(t.mailbox 1).busy) = true ∧
    after? (exec (.hostReadTimeout ⟨0, 5, 0⟩) (given hostCopyFields)) (fun t =>
      t.received.isEmpty && (t.ready.map fun r => fld r.bytes 6 1) == [rLINK]) = true := by
  refine ⟨?_, ?_, ?_, ?_, ?_, ?_, ?_⟩ <;> decide +kernel

/-- R426 to R434: a slot that fails in S3 is recorded and the start goes on; a bay link that fails in S5 halts it; a
package with one failed channel retires it in S6; S7 waits for the link; S9 is RUN. -/
theorem test_stages :
    after? (exec (.s3Sram ⟨true, 5, []⟩ ⟨[7], [], [], []⟩) (at_ (inStage 3))) (fun t =>
      t.start.stage == some 4 && smem t.start.badTest 7) = true ∧
    after? (exec (.s5Armature ⟨true, 5, []⟩ [(.bayLink, 2 ^ 31)]) (at_ (inStage 5))) (fun t => t.start.halted) = true ∧
    after? (exec (.s6Memory ⟨true, 5, []⟩ [(9, 2 ^ 31)]) (at_ (inStage 6))) (fun t =>
      (t.bay 1).retired == [0] && (t.bay 1).power != .failed && (t.bay 0).retired == []) = true ∧
    after? (exec (.s7Host ⟨true, 5, []⟩) (at_ ((inStage 7).setLink 3 0 0))) (fun t => t.start.stage == some 7) = true ∧
    after? (exec (.s9Ready ⟨true, 5, []⟩) (at_ (inStage 9))) (fun t =>
      t.modState == .run && t.obj O.START_RESULT 0 == 1) = true := by
  refine ⟨?_, ?_, ?_, ?_, ?_⟩ <;> decide +kernel

/-- R429, R431: of slots 0 to 67 of a cluster 64 are mapped in order, three are spares, and the one that failed is
TEST_ONLY. -/
theorem test_slot_map :
    (let m : Mach := { (inStage 4) with start := { (inStage 4).start with badTest := [1] } }
     (m.mapCluster 0).take 3 == [0, 3, 0] && ((m.mapCluster 0).drop 65).take 5 == [1, 1, 1, 0, 2]) = true := by
  decide +kernel

end Sys2Proof.Tests

end
end

/-! PROOF. The static dealing of items to the clusters of a span (R91): which cluster's range an item lies in, and
where an item that begins to run comes from. -/

namespace Sys2Proof.Machine

open Sys2Proof

/-! ### The ranges of a span -/

/-- The position in a span of `n` clusters that an item of `items` is dealt to: the greatest `j` with
`j * items < (item + 1) * n`. -/
def dealtTo (items n item : Nat) : Nat := ((item + 1) * n - 1) / items

/-- An item lies in the range of the position it is dealt to, and in no other. -/
theorem mem_dealt_iff {items n item j : Nat} (hn : 1 ≤ n) (hi : item < items) :
    ((dealt items n j).1 ≤ item ∧ item < (dealt items n j).2) ↔ j = dealtTo items n item := by
  have hpos : 0 < (item + 1) * n := Nat.mul_pos item.succ_pos hn
  have hlow : j * items / n ≤ item ↔ j * items ≤ (item + 1) * n - 1 := by
    rw [← Nat.lt_add_one_iff, Nat.div_lt_iff_lt_mul hn]
    omega
  have hhigh : item < (j + 1) * items / n ↔ (item + 1) * n - 1 < (j + 1) * items := by
    rw [← Nat.add_one_le_iff, Nat.le_div_iff_mul_le hn]
    omega
  rw [dealt, hlow, hhigh, eq_comm, dealtTo, Nat.div_eq_iff (by omega), Nat.add_one_mul j]
  omega

/-- The position an item is dealt to lies in the span. -/
theorem dealtTo_lt {items n item : Nat} (hn : 1 ≤ n) (hi : item < items) : dealtTo items n item < n := by
  have hle : (item + 1) * n ≤ n * items := by
    rw [Nat.mul_comm n]
    exact Nat.mul_le_mul_right n hi
  have hpos : 0 < (item + 1) * n := Nat.mul_pos item.succ_pos hn
  rw [dealtTo, Nat.div_lt_iff_lt_mul (by omega)]
  omega

/-- What is dealt: the range of each position of the span that is not empty. -/
theorem mem_dealAll_iff {c : Cmd} {items cluster a b : Nat} :
    (cluster, a, b) ∈ dealAll c items ↔ ∃ j, j < c.spanCount ∧ cluster = c.spanFirst + j ∧
      (a, b) = dealt items c.spanCount j ∧ a < b := by
  simp only [dealAll, List.mem_filter, List.mem_map, List.mem_range, Prod.mk.injEq, decide_eq_true_eq]
  constructor
  · rintro ⟨⟨j, hj, rfl, rfl, rfl⟩, hlt⟩
    exact ⟨j, hj, rfl, rfl, hlt⟩
  · rintro ⟨j, hj, rfl, hd, hlt⟩
    exact ⟨⟨j, hj, rfl, by rw [← hd], by rw [← hd]⟩, hlt⟩

/-! ### What leaves the running items alone -/

@[simp] theorem State.after_running (s : State) (m : Mach) : (s.after m).running = m.running := rfl

@[simp] theorem Mach.setEngine_running (m : Mach) (e : Nat) (v : Engine) : (m.setEngine e v).running = m.running := rfl

@[simp] theorem Mach.setBay_running (m : Mach) (b : Nat) (v : Bay) : (m.setBay b v).running = m.running := rfl

@[simp] theorem Mach.countDropped_running (m : Mach) (b n : Nat) : (m.countDropped b n).running = m.running := rfl

@[simp] theorem Mach.setCapQueue_running (m : Mach) (q : Nat) (v : CapQueue) :
    (m.setCapQueue q v).running = m.running := rfl

@[simp] theorem Mach.setTraceBuf_running (m : Mach) (b : Nat) (v : TraceBuf) :
    (m.setTraceBuf b v).running = m.running := rfl

@[simp] theorem Mach.fireTrigger_running (m : Mach) (t : Nat) : (m.fireTrigger t).running = m.running := by
  unfold Mach.fireTrigger
  split <;> rfl

@[simp] theorem Mach.capture_running (m : Mach) (e kind : Nat) (c : Cmd) (above : Bool) (t units : Nat) (d : Counts)
    (first : Nat) : (m.capture e kind c above t units d first).running = m.running := by
  simp [Mach.capture, apply_ite Mach.running]

@[simp] theorem Mach.endRun_running (m : Mach) (e : Nat) : (m.endRun e).running = m.running := by
  unfold Mach.endRun Mach.endRunAt
  dsimp only
  split
  · rfl
  · split <;> simp

@[simp] theorem Mach.beginRun_running (m : Mach) (e : Nat) (c : Cmd) (unit : Nat) :
    (m.beginRun e c unit).running = m.running := by
  simp [Mach.beginRun, apply_ite Mach.running]

@[simp] theorem Mach.startUnit_running (m : Mach) (e : Nat) (c : Cmd) (unit : Nat) :
    (m.startUnit e c unit).running = m.running := by
  simp [Mach.startUnit, apply_ite Mach.running]

@[simp] theorem Mach.askWake_running (m : Mach) (b : Nat) : (m.askWake b).running = m.running := by
  unfold Mach.askWake
  dsimp only
  split <;> simp [apply_ite Mach.running]

@[simp] theorem Mach.wakeBays_running (m : Mach) (bs : List Nat) : (m.wakeBays bs).running = m.running := by
  induction bs generalizing m with
  | nil => rfl
  | cons b bs ih => exact (ih (m.askWake b)).trans (m.askWake_running b)

/-! ### Where an item that runs comes from -/

/-- The counter an engine is answered by is one of its own cluster and kind, with items left. -/
theorem Mach.nextCounter_some {m : Mach} {cluster kind : Nat} {k : WorkCounter}
    (h : m.nextCounter cluster kind = some k) :
    k ∈ m.counters ∧ k.cluster = cluster ∧ k.kind = kind ∧ k.next < k.stop := by
  have hp := List.find?_some h
  simp only [Bool.and_eq_true, beq_iff_eq, decide_eq_true_eq] at hp
  obtain ⟨⟨hcluster, hkind⟩, hleft⟩ := hp
  exact ⟨List.mem_of_find?_eq_some h, hcluster, hkind, hleft⟩

/-- A request of an engine starts no item, or the one that the counter it is answered by showed. -/
theorem workCounterRequest_running {e : Nat} {m n : Mach} (h : workCounterRequest e m = .next n) :
    n.running = m.running ∨ ∃ k, m.nextCounter (engineCluster e) (engineKind e) = some k ∧
      n.running = m.running ++ [⟨e, k.cmd, k.next⟩] := by
  unfold workCounterRequest at h
  dsimp only at h
  split at h
  · cases h; exact .inl rfl
  · split at h
    · cases h; exact .inl (m.endRun_running e)
    · next k hk =>
      split at h
      · simp at h
      · split at h
        · cases h; exact .inl (m.wakeBays_running _)
        · cases h; exact .inr ⟨k, hk, Mach.startUnit_running _ e _ _⟩

/-- An item that begins to run at an engine's request is the next one of a counter of the engine's cluster. -/
theorem workCounterRequest_started {e : Nat} {m n : Mach} (h : workCounterRequest e m = .next n) {r : Running}
    (hr : r ∈ n.running) (hnew : r ∉ m.running) :
    r.engine = e ∧ ∃ k ∈ m.counters, k.cmd = r.cmd ∧ k.cluster = engineCluster e ∧ k.next = r.item ∧
      r.item < k.stop := by
  obtain hsame | ⟨k, hk, hadd⟩ := workCounterRequest_running h
  · exact absurd (hsame ▸ hr) hnew
  · obtain ⟨hmem, hcluster, -, hleft⟩ := Mach.nextCounter_some hk
    obtain rfl : r = ⟨e, k.cmd, k.next⟩ := by simpa [hadd, hnew] using hr
    exact ⟨rfl, k, hmem, rfl, hcluster, rfl, hleft⟩

/-- Settles O54: an item's one position is the quotient `dealtTo`, and an item that begins to run is the one a counter
of the engine's cluster showed. -/
theorem itemsAreDealtStatically : Obligations.ItemsAreDealtStatically := by
  refine ⟨?_, ?_, ?_⟩
  · intro c items i hn hi
    obtain ⟨hlow, hhigh⟩ := (mem_dealt_iff hn hi).mpr rfl
    exact ⟨dealtTo items c.spanCount i, dealtTo_lt hn hi, hlow, hhigh,
      fun k _ hklow hkhigh => (mem_dealt_iff hn hi).mp ⟨hklow, hkhigh⟩⟩
  · intro c items cluster a b
    simp only [mem_dealAll_iff, dealt, Prod.mk.injEq, and_assoc]
  · intro s t e h r hr hnew
    obtain ⟨-, m, hm, rfl⟩ := guarded_cases h
    exact workCounterRequest_started hm hr hnew

end Sys2Proof.Machine

/-! PROOF. The layout of answers and of DESCRIBE records (R328, R329): a field is read by skipping the pieces that stand
before it. -/

namespace Sys2Proof.Machine

open Sys2Proof

/-! ### Reading a record piece by piece -/

/-- Bytes that begin behind the first piece of a record are bytes of the rest. -/
theorem bytesAt_append_skip (a b : Bytes) {o : Nat} (n : Nat) (h : a.length ≤ o) :
    bytesAt (a ++ b) o n = bytesAt b (o - a.length) n := by
  obtain ⟨k, rfl⟩ := Nat.exists_eq_add_of_le h
  rw [bytesAt_append_right a b rfl, Nat.add_sub_cancel_left]

/-- A field that begins behind the first piece of a record is a field of the rest. -/
theorem fld_append_skip (a b : Bytes) {o : Nat} (n : Nat) (h : a.length ≤ o) :
    fld (a ++ b) o n = fld b (o - a.length) n :=
  congrArg leNat (bytesAt_append_skip a b n h)

@[simp] theorem fld_leBytes_append (n x : Nat) (b : Bytes) : fld (leBytes n x ++ b) 0 n = x % 256 ^ n := by
  rw [fld, bytesAt_append_left _ _ (leBytes_length n x), leNat_leBytes]

theorem leNat_zerosB (n : Nat) : leNat (zerosB n) = 0 := by
  induction n with
  | zero => rfl
  | succ n ih =>
    have hcons : zerosB (n + 1) = 0 :: zerosB n := rfl
    rw [hcons, leNat, ih]
    rfl

@[simp] theorem fld_zerosB_append (n : Nat) (b : Bytes) : fld (zerosB n ++ b) 0 n = 0 := by
  rw [fld, bytesAt_append_left _ _ (zerosB_length n), leNat_zerosB]

@[simp] theorem bytesAt_leBytes (n x : Nat) : bytesAt (leBytes n x) 0 n = leBytes n x := by
  simpa only [leBytes_length] using bytesAt_all (leBytes n x)

/-! ### The answer (R328) -/

theorem answerBytes_length (op index sub reason slot ci cs : Nat) (v : Bytes) :
    (answerBytes op index sub reason slot ci cs v).length = 24 + v.length := by
  simp only [answerBytes, List.length_append, leBytes_length, zerosB_length]

/-- Each field of an answer, cut to the bytes it has. -/
theorem answerBytes_fields (op index sub reason slot ci cs : Nat) (v : Bytes) :
    let b := answerBytes op index sub reason slot ci cs v
    fld b 0 1 = op % 256 ∧ fld b 1 1 = sub % 256 ∧ fld b 2 2 = index % 65536 ∧ fld b 4 1 = reason % 256 ∧
      fld b 5 1 = 0 ∧ fld b 6 2 = v.length % 65536 ∧ fld b 8 8 = slot % 2 ^ 64 ∧ fld b 16 2 = ci % 65536 ∧
      fld b 18 1 = cs % 256 ∧ fld b 19 5 = 0 ∧ bytesAt b 24 v.length = v := by
  refine ⟨?_, ?_, ?_, ?_, ?_, ?_, ?_, ?_, ?_, ?_, ?_⟩ <;>
    simp only [answerBytes, List.append_assoc, leBytes_length, zerosB_length, fld_append_skip, bytesAt_append_skip,
      fld_leBytes_append, fld_zerosB_append, bytesAt_all, Nat.reduceLeDiff, Nat.reduceSub, Nat.reducePow]

/-! ### The DESCRIBE record (R329) -/

theorem OType.code_lt (t : OType) : t.code < 256 := by cases t <;> decide

theorem Access.code_lt (a : Access) : a.code < 256 := by cases a <;> decide

theorem Owner.code_lt (o : Owner) : o.code < 256 := by cases o <;> decide

/-- Two flags in one byte: the first in bit 0, the second in bit 1, and the other bits zero. -/
theorem twoFlags_bits (p q : Bool) :
    (boolNat p + 2 * boolNat q).testBit 0 = p ∧ (boolNat p + 2 * boolNat q).testBit 1 = q ∧
      boolNat p + 2 * boolNat q < 4 := by
  cases p <;> cases q <;> decide

/-- The record of an object that is in the table, its pieces in order. -/
theorem Mach.describeBytes_of_row (m : Mach) {index sub : Nat} {r : ObjRow} (h : rowAt index sub = some r) :
    m.describeBytes index sub =
      leBytes 1 r.type.code ++ (leBytes 1 r.access.code ++ (leBytes 1 r.owner.code ++
        (leBytes 1 (boolNat (safety index sub r) + 2 * boolNat r.pf0) ++ (leBytes 2 r.size ++ (zerosB 2 ++
          leBytes r.size (m.defaultOf index sub r)))))) := by
  simp only [Mach.describeBytes, h, List.append_assoc]

theorem Mach.describeBytes_length (m : Mach) {index sub : Nat} {r : ObjRow} (h : rowAt index sub = some r) :
    (m.describeBytes index sub).length = 8 + r.size := by
  simp only [m.describeBytes_of_row h, List.length_append, leBytes_length, zerosB_length]
  omega

/-- Each field of the record, the header's cut to the bytes it has. -/
theorem Mach.describeBytes_fields (m : Mach) {index sub : Nat} {r : ObjRow} (h : rowAt index sub = some r) :
    let b := m.describeBytes index sub
    fld b 0 1 = r.type.code % 256 ∧ fld b 1 1 = r.access.code % 256 ∧ fld b 2 1 = r.owner.code % 256 ∧
      fld b 3 1 = (boolNat (safety index sub r) + 2 * boolNat r.pf0) % 256 ∧ fld b 4 2 = r.size % 65536 ∧
      fld b 6 2 = 0 ∧ bytesAt b 8 r.size = leBytes r.size (m.defaultOf index sub r) := by
  rw [m.describeBytes_of_row h]
  refine ⟨?_, ?_, ?_, ?_, ?_, ?_, ?_⟩ <;>
    simp only [leBytes_length, zerosB_length, fld_append_skip, bytesAt_append_skip, fld_leBytes_append,
      fld_zerosB_append, bytesAt_leBytes, Nat.reduceLeDiff, Nat.reduceSub, Nat.reducePow]

/-- Settles O58: every field is read behind the pieces before it, and the values fit the bytes they are given; what an
answer carries is what `writeAnswer`, `readAnswer` and `refuseRequest` hand to `answerBytes`. -/
theorem answersAreLaidOut : Obligations.AnswersAreLaidOut := by
  refine ⟨?_, fun _ _ _ => rfl, fun _ _ => rfl, fun _ _ _ _ => rfl, ⟨rfl, rfl, rfl⟩, ?_⟩
  · intro op index sub reason slot ci cs v hop hindex hsub hreason hslot hci hcs hv
    have hfields := answerBytes_fields op index sub reason slot ci cs v
    simp only [Nat.mod_eq_of_lt, hop, hindex, hsub, hreason, hslot, hci, hcs, hv] at hfields
    exact ⟨answerBytes_length .., hfields⟩
  · intro m index sub r hrow hsize
    obtain ⟨hsafety, hpf0, hlt⟩ := twoFlags_bits (safety index sub r) r.pf0
    obtain ⟨htype, haccess, howner, hflags, hlen, hzero, hdefault⟩ := m.describeBytes_fields hrow
    rw [Nat.mod_eq_of_lt r.type.code_lt] at htype
    rw [Nat.mod_eq_of_lt r.access.code_lt] at haccess
    rw [Nat.mod_eq_of_lt r.owner.code_lt] at howner
    rw [Nat.mod_eq_of_lt (by omega)] at hflags
    rw [Nat.mod_eq_of_lt hsize] at hlen
    exact ⟨m.describeBytes_length hrow, htype, haccess, howner, hflags ▸ hsafety, hflags ▸ hpf0, hflags ▸ hlt, hlen,
      hzero, hdefault⟩

end Sys2Proof.Machine

/-! PROOF. Consent to trace (R452): whose records are captured, what TR_CONSENT a new partition has, and who may write
it. A partition's creation writes many objects, so its proof follows the lookup of one key through them. -/

namespace Sys2Proof.Machine

open Sys2Proof

/-! ### Capture -/

/-- A record of a bay that does not consent leaves no mark. -/
theorem Mach.capture_of_not_consents {m : Mach} {e : Nat} (h : m.bayConsents (engineBay e) = false) (kind : Nat)
    (c : Cmd) (above : Bool) (t units : Nat) (d : Counts) (first : Nat) :
    m.capture e kind c above t units d first = m := by
  rw [Mach.capture, h, Bool.and_false]
  rfl

theorem Mach.bayConsents_iff (m : Mach) (b : Nat) :
    m.bayConsents b = true ↔ m.bayPart b = none ∨ ∃ p, m.bayPart b = some p ∧ m.obj O.TR_CONSENT p = 1 := by
  unfold Mach.bayConsents
  cases m.bayPart b with
  | none => simp
  | some p => simp

/-! ### The lookup of one key

A map whose keys are not in order can hold an entry behind the place where a lookup stops, and deleting another key can
bring it into sight. So that a key stands at nothing asks for no entry of it at all. -/

/-- What a map holds at a key, in a form that writing other keys keeps, whatever the order of the keys. -/
def StandsAt (d : SMap Nat) (k : Nat) : Option Nat → Prop
  | none => ∀ e ∈ d, e.1 ≠ k
  | some v => mget d k = some v

theorem mem_of_mget {α : Type} {d : SMap α} {k : Nat} {v : α} (h : mget d k = some v) : (k, v) ∈ d := by
  induction d with
  | nil => cases h
  | cons e r ih =>
    obtain ⟨j, w⟩ := e
    rw [mget] at h
    split at h
    · next hj => subst hj; cases h; exact List.mem_cons_self
    · split at h
      · cases h
      · exact List.mem_cons_of_mem _ (ih h)

theorem mem_mset {α : Type} {d : SMap α} {x : Nat} {v : α} {e : Nat × α} (h : e ∈ mset d x v) :
    e.1 = x ∨ e ∈ d := by
  induction d with
  | nil => obtain rfl := List.mem_singleton.mp h; exact .inl rfl
  | cons f r ih =>
    rw [mset] at h
    split at h
    · next hx =>
      obtain rfl | hr := List.mem_cons.mp h
      · exact .inl hx.symm
      · exact .inr (List.mem_cons_of_mem _ hr)
    · split at h
      · obtain rfl | hfr := List.mem_cons.mp h
        · exact .inl rfl
        · exact .inr hfr
      · obtain rfl | hr := List.mem_cons.mp h
        · exact .inr List.mem_cons_self
        · exact (ih hr).imp_right (List.mem_cons_of_mem _)

theorem mdel_sublist {α : Type} (d : SMap α) (x : Nat) : (mdel d x).Sublist d := by
  induction d with
  | nil => exact List.Sublist.refl _
  | cons f r ih =>
    rw [mdel]
    split
    · exact List.sublist_cons_self f r
    · split
      · exact List.Sublist.refl _
      · exact ih.cons_cons f

/-- A value in sight stays in sight when another key is deleted. -/
theorem mget_mdel_of_some {α : Type} {d : SMap α} {k x : Nat} {v : α} (h : mget d k = some v) (hx : x ≠ k) :
    mget (mdel d x) k = some v := by
  induction d with
  | nil => cases h
  | cons f r ih =>
    obtain ⟨j, w⟩ := f
    simp only [mget, mdel] at h ⊢
    grind [mget]

theorem StandsAt.mget_eq {d : SMap Nat} {k : Nat} : {o : Option Nat} → StandsAt d k o → mget d k = o
  | none, h => Option.eq_none_iff_forall_not_mem.mpr fun _ hv => h _ (mem_of_mget hv) rfl
  | some _, h => h

theorem StandsAt.mset {d : SMap Nat} {k x : Nat} (v : Nat) (hx : x ≠ k) :
    {o : Option Nat} → StandsAt d k o → StandsAt (mset d x v) k o
  | none, h => fun e he => (mem_mset he).elim (fun hex => hex ▸ hx) (h e)
  | some _, h => (mget_mset_other d v hx.symm).trans h

theorem StandsAt.mdel {d : SMap Nat} {k x : Nat} (hx : x ≠ k) :
    {o : Option Nat} → StandsAt d k o → StandsAt (mdel d x) k o
  | none, h => fun e he => h e ((mdel_sublist d x).subset he)
  | some _, h => mget_mdel_of_some h hx

/-! ### Objects -/

section
variable {m : Mach} {k : Nat} {x : Option Nat}

theorem Mach.obj_of_standsAt {o i : Nat} (h : StandsAt m.dict (oKey o i) x) :
    m.obj o i = x.getD (((objRow (oKey o i / 256) (oKey o i % 256)).map (·.default)).getD 0) := by
  rw [Mach.obj, Mach.objAt, Nat.div_add_mod', h.mget_eq]
  cases x <;> rfl

/-- An object set to a value that is not its default. -/
theorem Mach.standsAt_setObj_self {o i v : Nat}
    (h : v ≠ ((objRow (oKey o i / 256) (oKey o i % 256)).map (·.default)).getD 0) :
    StandsAt (m.setObj o i v).dict (oKey o i) (some v) := by
  simp only [StandsAt, Mach.setObj, Mach.setObjAt, if_neg h, Nat.div_add_mod', mget_mset_self]

/-- Setting an object keeps every other one. -/
theorem Mach.standsAt_setObj {o i : Nat} (v : Nat) (hk : oKey o i ≠ k) (h : StandsAt m.dict k x) :
    StandsAt (m.setObj o i v).dict k x := by
  simp only [Mach.setObj, Mach.setObjAt, Nat.div_add_mod']
  split
  · exact h.mdel hk
  · exact h.mset v hk

theorem Mach.standsAt_foldl_setObj {i v : Nat} {os : List Nat} (hk : ∀ o ∈ os, oKey o i ≠ k)
    (h : StandsAt m.dict k x) : StandsAt (os.foldl (fun s o => s.setObj o i v) m).dict k x := by
  induction os generalizing m with
  | nil => exact h
  | cons o os ih =>
    rw [List.forall_mem_cons] at hk
    exact ih hk.2 (Mach.standsAt_setObj v hk.1 h)

theorem Mach.standsAt_bump {o i : Nat} (n : Nat) (hk : oKey o i ≠ k) (h : StandsAt m.dict k x) :
    StandsAt (m.bump o i n).dict k x :=
  Mach.standsAt_setObj _ hk h

end

/-! ### What creation does to the objects -/

theorem foldl_dict {α : Type} (f : Mach → α → Mach) (hf : ∀ m a, (f m a).dict = m.dict) (l : List α) (m : Mach) :
    (l.foldl f m).dict = m.dict := by
  induction l generalizing m with
  | nil => rfl
  | cons a l ih => exact (ih (f m a)).trans (hf m a)

@[simp] theorem Mach.setTraceBuf_dict (m : Mach) (b : Nat) (v : TraceBuf) : (m.setTraceBuf b v).dict = m.dict := rfl

@[simp] theorem Mach.countDropped_dict (m : Mach) (b n : Nat) : (m.countDropped b n).dict = m.dict := rfl

@[simp] theorem Mach.setEpoch_dict (m : Mach) (b e : Nat) : (m.setEpoch b e).dict = m.dict := rfl

@[simp] theorem Mach.invalidateTrace_dict (m : Mach) (b : Nat) : (m.invalidateTrace b).dict = m.dict := by
  unfold Mach.invalidateTrace
  dsimp only
  split <;> simp

@[simp] theorem Mach.clearStores_dict (m : Mach) (bs : List Nat) : (m.clearStores bs).dict = m.dict := by
  have hfold := foldl_dict Mach.invalidateTrace Mach.invalidateTrace_dict bs m
  unfold Mach.clearStores
  dsimp only [Mach.invalidate]
  split
  · exact hfold
  · rfl

/-- The defaulting of a partition's objects only takes entries away. -/
theorem Mach.foldl_defaultIndex_subset (cs : List Nat) (p : Nat) (m : Mach) :
    (cs.foldl (fun s c => s.defaultIndex (c + p)) m).dict ⊆ m.dict := by
  induction cs generalizing m with
  | nil => exact List.Subset.refl _
  | cons c cs ih => exact List.Subset.trans (ih _) List.filter_sublist.subset

/-- It leaves no entry at an index of the partition. -/
theorem Mach.defaultPart_index {m : Mach} {p c : Nat} (hc : c ∈ perPartClasses) :
    ∀ e ∈ (m.defaultPart p).dict, e.1 / 256 ≠ c + p := by
  obtain ⟨before, after, hsplit⟩ := List.append_of_mem hc
  intro e he
  rw [Mach.defaultPart, hsplit, List.foldl_append, List.foldl_cons] at he
  simpa using (List.mem_filter.mp (Mach.foldl_defaultIndex_subset after p _ he)).2

/-! ### TR_CONSENT -/

theorem oKey_TR_CONSENT (p : Nat) : oKey O.TR_CONSENT p = (0x5010 + p) * 256 + 1 := rfl

theorem oKey_TR_CONSENT_sub (p : Nat) : oKey O.TR_CONSENT p % 256 = 1 := by
  rw [oKey_TR_CONSENT]
  omega

theorem objClass_TR_CONSENT {p : Nat} (hp : p < 16) : objClass (oKey O.TR_CONSENT p / 256) = some (0x5010, p) := by
  have hall : ∀ q < 16, objClass (oKey O.TR_CONSENT q / 256) = some (0x5010, q) := by decide
  exact hall p hp

/-- Its row: 1 by default, and written by the host. -/
theorem objRow_TR_CONSENT {p : Nat} (hp : p < 16) :
    objRow (oKey O.TR_CONSENT p / 256) (oKey O.TR_CONSENT p % 256) = some ⟨1, .bool, .rw, .host, 1, 1, false⟩ := by
  rw [objRow, objClass_TR_CONSENT hp, oKey_TR_CONSENT_sub]
  rfl

theorem rowAt_TR_CONSENT {p : Nat} (hp : p < 16) :
    rowAt (oKey O.TR_CONSENT p / 256) (oKey O.TR_CONSENT p % 256) = some ⟨1, .bool, .rw, .host, 1, 1, false⟩ := by
  rw [rowAt, if_neg (by rw [oKey_TR_CONSENT_sub]; decide), objRow_TR_CONSENT hp]

/-- An object of a class below TR_CONSENT's is another object, as long as its instance stays below too. -/
theorem oKey_ne_TR_CONSENT {o i p : Nat} (h : o / 256 + i < 0x5010) : oKey o i ≠ oKey O.TR_CONSENT p := by
  have hclass : o / 256 < 0x6000 := by omega
  rw [oKey_TR_CONSENT, oKey, if_pos hclass]
  omega

section
variable {m : Mach} {p : Nat} {x : Option Nat}

theorem Mach.finishSession_keeps_consent (hp : p < 16) (h : StandsAt m.dict (oKey O.TR_CONSENT p) x) :
    StandsAt (m.finishSession p).dict (oKey O.TR_CONSENT p) x := by
  have hclass : ∀ o ∈ [O.BOUNCE_ENABLE, O.KEM_CT_LO, O.KEM_CT_HI, O.KEY_CONFIRM, O.BOUNCE_SEQ],
      o / 256 = 0x1800 := by decide
  have hsession : oKey O.P_SESSION p ≠ oKey O.TR_CONSENT p := oKey_ne_TR_CONSENT (by rw [O.P_SESSION]; omega)
  unfold Mach.finishSession
  split
  · exact h
  · exact Mach.standsAt_bump 1 hsession (Mach.standsAt_foldl_setObj
      (fun o ho => oKey_ne_TR_CONSENT (by rw [hclass o ho]; omega)) h)

theorem Mach.beginSession_keeps_consent (hp : p < 16) (h : StandsAt m.dict (oKey O.TR_CONSENT p) x) :
    StandsAt (m.beginSession p).dict (oKey O.TR_CONSENT p) x := by
  unfold Mach.beginSession
  split
  · exact h
  · extract_lets bs wraps n
    have hn : n.dict = m.dict := foldl_dict _ (fun s b => Mach.setEpoch_dict s b _) _ m
    rw [← hn] at h
    split
    · exact Mach.finishSession_keeps_consent hp h
    · exact h

/-- Giving a journal to a partition. -/
theorem Mach.setJournalPart_keeps_consent {j : Nat} (v : Nat) (hj : j < 64)
    (h : StandsAt m.dict (oKey O.TR_CONSENT p) x) :
    StandsAt (m.setObj O.J_PARTITION j v).dict (oKey O.TR_CONSENT p) x :=
  Mach.standsAt_setObj v (oKey_ne_TR_CONSENT (by rw [O.J_PARTITION]; omega)) h

theorem Mach.defaultPart_consent (m : Mach) (p : Nat) :
    StandsAt (m.defaultPart p).dict (oKey O.TR_CONSENT p) none := by
  intro e he hkey
  have hindex := Mach.defaultPart_index (c := 0x5010) (by decide) e he
  rw [hkey, oKey_TR_CONSENT] at hindex
  omega

/-- A confidential partition's is written over with 0. -/
theorem Mach.clearConsent_standsAt (conf : Bool) (hp : p < 16) (h : StandsAt m.dict (oKey O.TR_CONSENT p) none) :
    StandsAt (if conf then m.setObj O.TR_CONSENT p 0 else m).dict (oKey O.TR_CONSENT p)
      (if conf then some 0 else none) := by
  cases conf with
  | false => exact h
  | true => exact Mach.standsAt_setObj_self (by rw [objRow_TR_CONSENT hp]; decide)

/-- A partition's TR_CONSENT at its creation: nothing over its default, or 0 where it is confidential. -/
theorem Mach.createPart_consent (m : Mach) (w : Owed) (hp : m.obj O.PT_SELECT 0 < 16) :
    StandsAt (m.createPart w).dict (oKey O.TR_CONSENT (m.obj O.PT_SELECT 0))
      (if m.obj O.PT_CONFIDENTIAL 0 == 1 then some 0 else none) := by
  unfold Mach.createPart
  extract_lets p bs conf blank made consented cleared owned started
  have hmade : StandsAt made.dict (oKey O.TR_CONSENT p) none := m.defaultPart_consent p
  have hcleared : StandsAt cleared.dict (oKey O.TR_CONSENT p) (if conf then some 0 else none) :=
    (consented.clearStores_dict bs).symm ▸ Mach.clearConsent_standsAt conf hp hmade
  have howned : StandsAt owned.dict (oKey O.TR_CONSENT p) (if conf then some 0 else none) := by
    unfold owned
    split
    · next j hj =>
      have hj : j < 64 := List.mem_range.mp (List.mem_of_find?_eq_some hj)
      exact Mach.setJournalPart_keeps_consent p hj hcleared
    · exact hcleared
  have hstarted : StandsAt started.dict (oKey O.TR_CONSENT p) (if conf then some 0 else none) :=
    Mach.beginSession_keeps_consent hp howned
  split <;> exact hstarted

end

/-! ### Who may write -/

/-- A write that passes the checks of an object's row passes the owner's. -/
theorem Mach.ownerOk_of_writeCheck {m : Mach} {path : Path} {index sub c i : Nat} {r : ObjRow} {v : Bytes}
    (hrow : rowAt index sub = some r) (hclass : objClass index = some (c, i))
    (h : m.writeCheck path index sub v = 0) : m.ownerOk path (c * 256 + sub) i r = true := by
  simp only [Mach.writeCheck, hrow, hclass] at h
  split at h
  · cases h
  · cases howner : m.ownerOk path (c * 256 + sub) i r with
    | true => rfl
    | false =>
      rw [howner, Bool.not_false, if_pos rfl] at h
      cases h

/-- Only its own function is an owner of a confidential partition's TR_CONSENT. -/
theorem Mach.part_of_ownerOk_consent {m : Mach} {path : Path} {p : Nat} {r : ObjRow}
    (hconf : (m.part p).confidential = true) (h : m.ownerOk path O.TR_CONSENT p r = true) : path.part? = some p := by
  simp only [Mach.ownerOk, Bool.and_eq_true] at h
  obtain ⟨-, hfunction⟩ := h
  simpa [hconf] using hfunction

theorem Path.eq_vf_of_part {path : Path} {p : Nat} (hok : path.ok = true) (h : path.part? = some p) :
    path = .vf (p + 1) := by
  cases path with
  | pf0 => cases h
  | vf n =>
    obtain ⟨hn, -⟩ := of_decide_eq_true hok
    have hp : n - 1 = p := Option.some.inj h
    congr 1
    omega
  | umpor src port token => cases h

/-- Settles O59: `bayConsents` guards every branch of `capture`; creation's other writes keep the key of TR_CONSENT as it
was defaulted or cleared; and check 5 of a write asks for the partition's own function. -/
theorem consentGovernsTrace : Obligations.ConsentGovernsTrace := by
  refine ⟨?_, ?_, ?_⟩
  · intro m e kind c above t units d first hchanged
    rw [← Mach.bayConsents_iff]
    cases hconsents : m.bayConsents (engineBay e) with
    | true => rfl
    | false => exact absurd (Mach.capture_of_not_consents hconsents ..) hchanged
  · rintro m w p rfl hp
    rw [Mach.obj_of_standsAt (m.createPart_consent w hp), objRow_TR_CONSENT hp]
    by_cases hconf : m.obj O.PT_CONFIDENTIAL 0 = 1 <;> simp [hconf]
  · intro m path p v hp hok hconf h
    have howner := Mach.ownerOk_of_writeCheck (rowAt_TR_CONSENT hp) (objClass_TR_CONSENT hp) h
    rw [oKey_TR_CONSENT_sub] at howner
    exact Path.eq_vf_of_part hok (Mach.part_of_ownerOk_consent hconf howner)

end Sys2Proof.Machine

/-! PROOF. Memory stays in its canonical form: what each row's meaning does to memory is said by the frames of the rows,
and a command adds to its meaning nothing but the guard, the hold of the mirror and the queue. -/

namespace Sys2Proof.Machine

open Sys2Proof

/-! ### From a meaning of the module to a command -/

theorem guarded_memOk {i : Instr} {r : Mach → Res} {s t : State}
    (hr : ∀ n, r s.toMach = .next n → Memory.wf n.mem = true) (h : guarded i r s = .next t) : t.memOk := by
  obtain ⟨-, m, hm, rfl⟩ := guarded_cases h
  exact hr m hm

theorem guardedRaw_memOk {i : Instr} {r : Mach → Res} {s t : State}
    (hr : ∀ n, r s.toMach = .next n → Memory.wf n.mem = true) (h : guardedRaw i r s = .next t) : t.memOk := by
  obtain ⟨-, m, hm, rfl⟩ := guardedRaw_cases h
  exact hr m hm

/-- Work the mirror may hold: it ends as it would, or is held with memory as it was. -/
theorem held_memOk {i : Instr} {r : Mach → Res} {s t : State} (w : Memory.wf s.mem = true)
    (hr : ∀ n, r s.toMach = .next n → Memory.wf n.mem = true) (h : guarded i (heldWrites r) s = .next t) : t.memOk := by
  refine guarded_memOk (fun n hn => ?_) h
  obtain hn | ⟨-, rfl, -⟩ := heldWrites_cases hn
  · exact hr n hn
  · exact w

/-! ### Every row -/

/-- Every row keeps memory in its canonical form, by the frame of its meaning. -/
theorem exec_memOk {s t : State} (w : Memory.wf s.mem = true) (c : Instr) (h : exec c s = .next t) : t.memOk :=
  match c with
  | .productF _ => held_memOk w (fun _ e => hostChecked_memW (fun _ e => productF_memW (w := w) (h := e)) e) h
  | .productDx _ => held_memOk w (fun _ e => hostChecked_memW (fun _ e => productDx_memW (w := w) (h := e)) e) h
  | .productDw _ => held_memOk w (fun _ e => hostChecked_memW (fun _ e => productDw_memW (w := w) (h := e)) e) h
  | .cast _ => held_memOk w (fun _ e => hostChecked_memW (fun _ e => castRow_memW (w := w) (h := e)) e) h
  | .rotate _ => held_memOk w (fun _ e => hostChecked_memW (fun _ e => rotateRow_memW (w := w) (h := e)) e) h
  | .add _ => held_memOk w (fun _ e => hostChecked_memW (fun _ e => wideAdd_memW (w := w) (h := e)) e) h
  | .mul _ => held_memOk w (fun _ e => hostChecked_memW (fun _ e => wideMul_memW (w := w) (h := e)) e) h
  | .biasAct _ => held_memOk w (fun _ e => hostChecked_memW (fun _ e => wideBiasAct_memW (w := w) (h := e)) e) h
  | .rmsnorm _ => held_memOk w (fun _ e => hostChecked_memW (fun _ e => wideRmsnorm_memW (w := w) (h := e)) e) h
  | .layernorm _ => held_memOk w (fun _ e => hostChecked_memW (fun _ e => wideLayernorm_memW (w := w) (h := e)) e) h
  | .softmax _ => held_memOk w (fun _ e => hostChecked_memW (fun _ e => wideSoftmax_memW (w := w) (h := e)) e) h
  | .xent _ => held_memOk w (fun _ e => hostChecked_memW (fun _ e => wideXent_memW (w := w) (h := e)) e) h
  | .softmaxBwd _ => held_memOk w (fun _ e => hostChecked_memW (fun _ e => wideSoftmaxBwd_memW (w := w) (h := e)) e) h
  | .normBwd _ => held_memOk w (fun _ e => hostChecked_memW (fun _ e => wideNormBwd_memW (w := w) (h := e)) e) h
  | .actBwd _ => held_memOk w (fun _ e => hostChecked_memW (fun _ e => wideActBwd_memW (w := w) (h := e)) e) h
  | .matmul _ => held_memOk w (fun _ e => hostChecked_memW (fun _ e => wideMatmul_memW (w := w) (h := e)) e) h
  | .reduceCols _ => held_memOk w (fun _ e => hostChecked_memW (fun _ e => wideReduceCols_memW (w := w) (h := e)) e) h
  | .reduce _ => held_memOk w (fun _ e => reduceRow_memW (w := w) (h := e)) h
  | .onePass _ => held_memOk w (fun _ e => onePassRow_memW (w := w) (h := e)) h
  | .twoPass _ => held_memOk w (fun _ e => twoPassRow_memW (w := w) (h := e)) h
  | .copy _ => held_memOk w (fun _ e => copyRow_memW (w := w) (h := e)) h
  | .multicast _ => held_memOk w (fun _ e => multicastRow_memW (w := w) (h := e)) h
  | .allEarlier _ => guarded_memOk (fun _ e => waitAllEarlier_memW (w := w) (h := e)) h
  | .command _ => guarded_memOk (fun _ e => waitCommand_memW (w := w) (h := e)) h
  | .seal _ => guarded_memOk (fun _ e => waitSeal_memW (w := w) (h := e)) h
  | .scaleSeed _ => held_memOk w (fun _ e => scaleSeed_memW (w := w) (h := e)) h
  | .scaleSeedClear _ => held_memOk w (fun _ e => scaleSeedClear_memW (w := w) (h := e)) h
  | .dump _ => held_memOk w (fun _ e => dumpRow_memW (w := w) (h := e)) h
  | .dense _ => held_memOk w (fun _ e => exportDense_memW (w := w) (h := e)) h
  | .topk _ => held_memOk w (fun _ e => exportTopk_memW (w := w) (h := e)) h
  | .importGrad _ => held_memOk w (fun _ e => importRow_memW (w := w) (h := e)) h
  | .read _ _ => guarded_memOk (fun _ e => dictRead_memW (w := w) (h := e)) h
  | .write _ _ _ => guarded_memOk (fun _ e => dictWrite_memW (w := w) (h := e)) h
  | .describe _ _ _ => guarded_memOk (fun _ e => dictDescribe_memW (w := w) (h := e)) h
  | .hdmCommit _ _ => guarded_memOk (fun _ e => (hdmCommit_mem (h := e)).symm ▸ w) h
  | .request _ => guarded_memOk (fun _ e => (request_mem (h := e)).symm ▸ w) h
  | .noticeAck _ => guarded_memOk (fun _ e => (noticeAck_mem (h := e)).symm ▸ w) h
  | .noticeResend _ => guarded_memOk (fun _ e => (noticeResend_mem (h := e)).symm ▸ w) h
  | .transmitOpportunity =>
    guarded_memOk (i := .transmitOpportunity) (fun _ e => (transmitOpportunity_mem (h := e)).symm ▸ w) h
  | .controlLineInvalidate _ _ => guarded_memOk (fun _ e => controlLineInvalidate_memW (w := w) (h := e)) h
  | .entryFetch _ _ => guarded_memOk (fun _ e => entryFetch_memW (w := w) (h := e)) h
  | .statusLineWrite _ => guarded_memOk (fun _ e => statusLineWrite_memW (w := w) (h := e)) h
  | .fenceRelease _ => guarded_memOk (fun _ e => (fenceRelease_mem (h := e)).symm ▸ w) h
  | .waitTimeout _ => guarded_memOk (fun _ e => (waitTimeout_mem (h := e)).symm ▸ w) h
  | .completionRecord _ => guarded_memOk (fun _ e => completionRecord_memW (w := w) (h := e)) h
  | .consumerLineUpdate _ _ => guarded_memOk (fun _ e => consumerLineUpdate_memW (w := w) (h := e)) h
  | .msixModerationTimeout _ => guarded_memOk (fun _ e => msixModerationTimeout_memW (w := w) (h := e)) h
  | .counterBind _ _ => guarded_memOk (fun _ e => counterBind_memW (w := w) (h := e)) h
  | .workCounterRequest _ => guarded_memOk (fun _ e => (workCounterRequest_mem (h := e)).symm ▸ w) h
  | .workItemEnd _ _ _ => held_memOk w (fun _ e => workItemEnd_memW (w := w) (h := e)) h
  | .scaleLatch _ => held_memOk w (fun _ e => scaleLatch_memW (w := w) (h := e)) h
  | .outlierAddBack _ _ => held_memOk w (fun _ e => outlierAddBack_memW (w := w) (h := e)) h
  | .fallbackItem _ _ => held_memOk w (fun _ e => fallbackItem_memW (w := w) (h := e)) h
  | .recomputeSwitch _ => held_memOk w (fun _ e => recomputeSwitch_memW (w := w) (h := e)) h
  | .recomputeNext _ => held_memOk w (fun _ e => recomputeNext_memW (w := w) (h := e)) h
  | .transferIssue _ => guarded_memOk (fun _ e => (transferIssue_mem (h := e)).symm ▸ w) h
  | .transferDone _ _ _ => held_memOk w (fun _ e => transferDone_memW (w := w) (h := e)) h
  | .dryTimeAging _ _ => guarded_memOk (fun _ e => (dryTimeAging_mem (h := e)).symm ▸ w) h
  | .multicastDrop _ _ => guarded_memOk (fun _ e => (multicastDrop_mem (h := e)).symm ▸ w) h
  | .lentBind _ => guarded_memOk (fun _ e => (lentBind_mem (h := e)).symm ▸ w) h
  | .lentRevoke _ _ => held_memOk w (fun _ e => lentRevoke_memW (w := w) (h := e)) h
  | .scrubLine _ _ => guarded_memOk (fun _ e => (scrubLine_mem (h := e)).symm ▸ w) h
  | .sramScrub _ _ => guarded_memOk (fun _ e => sramScrub_memW (w := w) (h := e)) h
  | .lineWriteBack _ => guarded_memOk (fun _ e => lineWriteBack_memW (w := w) (h := e)) h
  | .sramWriteBack _ => guarded_memOk (fun _ e => (sramWriteBack_mem (h := e)).symm ▸ w) h
  | .reduceBayBlock _ _ _ _ => held_memOk w (fun _ e => reduceBayBlock_memW (w := w) (h := e)) h
  | .reduceResultBlock _ => held_memOk w (fun _ e => reduceResultBlock_memW (w := w) (h := e)) h
  | .updateAgreement _ => held_memOk w (fun _ e => updateAgreement_memW (w := w) (h := e)) h
  | .updatePass2 _ _ _ => held_memOk w (fun _ e => updatePass2_memW (w := w) (h := e)) h
  | .psApplyRecord _ _ => guarded_memOk (fun _ e => psApplyRecord_memW (w := w) (h := e)) h
  | .psAckTimer _ => guarded_memOk (fun _ e => psAckTimer_memW (w := w) (h := e)) h
  | .acked _ _ => guarded_memOk (fun _ e => acked_memW (w := w) (h := e)) h
  | .heartbeat => guarded_memOk (i := .heartbeat) (fun _ e => heartbeat_memW (w := w) (h := e)) h
  | .psPeerTimeout => guarded_memOk (i := .psPeerTimeout) (fun _ e => psPeerTimeout_memW (w := w) (h := e)) h
  | .hello _ => guarded_memOk (fun _ e => hello_memW (w := w) (h := e)) h
  | .report _ => guarded_memOk (fun _ e => report_memW (w := w) (h := e)) h
  | .encap _ => guarded_memOk (fun _ e => encap_memW (w := w) (h := e)) h
  | .confirm _ => guarded_memOk (fun _ e => confirm_memW (w := w) (h := e)) h
  | .sweepDone _ => guarded_memOk (fun _ e => sweepDone_memW (w := w) (h := e)) h
  | .close _ => guarded_memOk (fun _ e => close_memW (w := w) (h := e)) h
  | .ack _ => guarded_memOk (fun _ e => ack_memW (w := w) (h := e)) h
  | .psHandshakeTimeout =>
    guarded_memOk (i := .psHandshakeTimeout) (fun _ e => psHandshakeTimeout_memW (w := w) (h := e)) h
  | .linkUp _ _ _ => guarded_memOk (fun _ e => (linkUp_mem (h := e)).symm ▸ w) h
  | .linkDown => guarded_memOk (i := .linkDown) (fun _ e => linkDown_memW (w := w) (h := e)) h
  | .perstAssert => guarded_memOk (i := .perstAssert) (fun _ e => perstAssert_memW (w := w) (h := e)) h
  | .perstRelease => guarded_memOk (i := .perstRelease) (fun _ e => (perstRelease_mem (h := e)).symm ▸ w) h
  | .vfFlr _ => guarded_memOk (fun _ e => vfFlr_memW (w := w) (h := e)) h
  | .pf0Flr => guarded_memOk (i := .pf0Flr) (fun _ e => pf0Flr_memW (w := w) (h := e)) h
  | .hostReadTimeout _ => guarded_memOk (fun _ e => hostReadTimeout_memW (w := w) (h := e)) h
  | .hdmRead _ _ _ => guarded_memOk (fun _ e => hdmRead_memW (w := w) (h := e)) h
  | .hdmWrite _ _ _ _ => held_memOk w (fun _ e => hdmWrite_memW (w := w) (h := e)) h
  | .inputApplied => guardedRaw_memOk (i := .inputApplied) (fun _ e => (inputApplied_mem (h := e)).symm ▸ w) h
  | .inputRemoved => guardedRaw_memOk (i := .inputRemoved) (fun _ e => inputRemoved_memW (w := w) (h := e)) h
  | .plinthSample _ => guarded_memOk (fun _ e => plinthSample_memW (w := w) (h := e)) h
  | .modEnHigh => guarded_memOk (i := .modEnHigh) (fun _ e => modEnHigh_memW (w := w) (h := e)) h
  | .efuseTrip => guarded_memOk (i := .efuseTrip) (fun _ e => efuseTrip_memW (w := w) (h := e)) h
  | .droopDetect _ => guarded_memOk (fun _ e => (droopDetect_mem (h := e)).symm ▸ w) h
  | .droopRelease _ => guarded_memOk (fun _ e => (droopRelease_mem (h := e)).symm ▸ w) h
  | .governorInterval _ => guarded_memOk (fun _ e => governorInterval_memW (w := w) (h := e)) h
  | .pllUnlock _ => guarded_memOk (fun _ e => (pllUnlock_mem (h := e)).symm ▸ w) h
  | .pllRelock _ => guarded_memOk (fun _ e => pllRelock_memW (w := w) (h := e)) h
  | .pllLockTimeout _ => guarded_memOk (fun _ e => pllLockTimeout_memW (w := w) (h := e)) h
  | .bayWatchdogRestart _ => guarded_memOk (fun _ e => (bayWatchdogRestart_mem (h := e)).symm ▸ w) h
  | .bayWatchdogExpiry _ => guarded_memOk (fun _ e => bayWatchdogExpiry_memW (w := w) (h := e)) h
  | .bayStoreUncorrectable _ => guarded_memOk (fun _ e => bayStoreUncorrectable_memW (w := w) (h := e)) h
  | .bSleep _ => guarded_memOk (fun _ e => (bSleep_mem (h := e)).symm ▸ w) h
  | .bOff _ => guarded_memOk (fun _ e => bOff_memW (w := w) (h := e)) h
  | .bayWakeStart _ => guarded_memOk (fun _ e => (bayWakeStart_mem (h := e)).symm ▸ w) h
  | .bayWakeDone _ => guarded_memOk (fun _ e => bayWakeDone_memW (w := w) (h := e)) h
  | .standbyDrainTimeout =>
    guarded_memOk (i := .standbyDrainTimeout) (fun _ e => standbyDrainTimeout_memW (w := w) (h := e)) h
  | .standbyEntry => guarded_memOk (i := .standbyEntry) (fun _ e => standbyEntry_memW (w := w) (h := e)) h
  | .standbyWakeDone x =>
    guarded_memOk (i := .standbyWakeDone x) (fun _ e => standbyWakeDone_memW (w := w) (h := e)) h
  | .s0Plinth _ _ => guarded_memOk (fun _ e => s0Plinth_memW (w := w) (h := e)) h
  | .s1Rails x => guarded_memOk (i := .s1Rails x) (fun _ e => s1Rails_memW (w := w) (h := e)) h
  | .s2Fuses _ _ => guarded_memOk (fun _ e => s2Fuses_memW (w := w) (h := e)) h
  | .s3Sram _ _ => guarded_memOk (fun _ e => s3Sram_memW (w := w) (h := e)) h
  | .s4Tiles _ _ => guarded_memOk (fun _ e => s4Tiles_memW (w := w) (h := e)) h
  | .s5Armature _ _ => guarded_memOk (fun _ e => s5Armature_memW (w := w) (h := e)) h
  | .s6Memory _ _ => guarded_memOk (fun _ e => s6Memory_memW (w := w) (h := e)) h
  | .s7Host x => guarded_memOk (i := .s7Host x) (fun _ e => s7Host_memW (w := w) (h := e)) h
  | .s9Ready x => guarded_memOk (i := .s9Ready x) (fun _ e => s9Ready_memW (w := w) (h := e)) h
  | .tileWatchdogRestart _ => guarded_memOk (fun _ e => (tileWatchdogRestart_mem (h := e)).symm ▸ w) h
  | .tileWatchdogExpiry _ => guarded_memOk (fun _ e => tileWatchdogExpiry_memW (w := w) (h := e)) h
  | .tileSequencerStoreFault _ => guarded_memOk (fun _ e => tileSequencerStoreFault_memW (w := w) (h := e)) h
  | .trngFail => guarded_memOk (i := .trngFail) (fun _ e => (trngFail_mem (h := e)).symm ▸ w) h
  | .traceQueueDrain _ => guarded_memOk (fun _ e => (traceQueueDrain_mem (h := e)).symm ▸ w) h
  | .traceFrameSend => guarded_memOk (i := .traceFrameSend) (fun _ e => (traceFrameSend_mem (h := e)).symm ▸ w) h
  | .traceAlign => guarded_memOk (i := .traceAlign) (fun _ e => (traceAlign_mem (h := e)).symm ▸ w) h
  | .traceCaptureEnd => guarded_memOk (i := .traceCaptureEnd) (fun _ e => (traceCaptureEnd_mem (h := e)).symm ▸ w) h
  | .traceTrainingEnd =>
    guarded_memOk (i := .traceTrainingEnd) (fun _ e => (traceTrainingEnd_mem (h := e)).symm ▸ w) h
  | .arbitrationSlotEnd =>
    guarded_memOk (i := .arbitrationSlotEnd) (fun _ e => arbitrationSlotEnd_memW (w := w) (h := e)) h
  | .plcaBeacon _ => guarded_memOk (fun _ e => (plcaBeacon_mem (h := e)).symm ▸ w) h
  | .icmpv6Echo _ => guarded_memOk (fun _ e => (icmpv6Echo_mem (h := e)).symm ▸ w) h
  | .neighbourDiscovery _ => guarded_memOk (fun _ e => (neighbourDiscovery_mem (h := e)).symm ▸ w) h
  | .peerHeartbeat _ => guarded_memOk (fun _ e => (peerHeartbeat_mem (h := e)).symm ▸ w) h
  | .packageBlankRewrite _ => guarded_memOk (fun _ e => packageBlankRewrite_memW (w := w) (h := e)) h
  | .psSendLine x => guarded_memOk (i := .psSendLine x) (fun _ e => psSendLine_memW (w := w) (h := e)) h
  | .scaleEnable _ _ _ | .placeEnable _ _ _ | .placeCommit _ _ _ | .jEnable _ _ _ | .cEnable _ _ _
  | .scrubEnable _ _ | .fldEnable _ _ | .hdmEnable _ _ | .psEnable _ _ | .bounceEnable _ _ _ | .traceEnable _ _
  | .pReset _ _ _ | .updReset _ _ _ | .traceReset _ _ | .psReset _ _ | .fldReset _ _ | .ptCreate _ _
  | .ptDelete _ _ | .attest _ _ _ | .fwLoad _ _ _ | .fenceTile _ _ | .clearPrior _ _ | .clearCounts _ _
  | .dieRetired _ _ _ | .numSummary _ _ | .trFire _ _ | .trFinish _ _ | .trRestart _ _ | .standby _ _
  | .rules _ _ | .ruleFired _ _ =>
    guarded_memOk (fun _ e => ownWrite_memW (w := w) (h := e)) h

/-- Settles O3: a step idles, or runs the front command, whose row keeps the form. -/
theorem stepKeepsMemoryCanonical : Obligations.StepKeepsMemoryCanonical := by
  intro s t w h
  unfold step at h
  split at h
  next => exact Host.Outcome.next.inj h ▸ w
  next c rest _ => exact exec_memOk (s := { s with pending := rest }) w c h

end Sys2Proof.Machine

/-! PROOF. A step takes the front command and no other, module time is held back by the two commands of the input alone,
and every well-formed command has a meaning: a nest of tests whose leaves are a next module or an event that cannot
occur. -/

namespace Sys2Proof.Machine

open Sys2Proof

/-- Settles O1: `step` runs the front command with the rest of the queue, and idles on an empty one. -/
theorem stepTakesTheFrontCommand : Obligations.StepTakesTheFrontCommand :=
  ⟨fun _ _ _ h => step_cons h, fun s h => by simp [step, h]⟩

/-- Settles O2: nothing is listed at reset, so each part reads as its default. -/
theorem resetIsOff : Obligations.ResetIsOff :=
  ⟨rfl, rfl, rfl, rfl, rfl, rfl, rfl, rfl, fun _ => rfl, fun _ => rfl, fun _ _ => rfl⟩

/-! ### The queue and module time -/

/-- A command leaves the queue it is run with, and does not take module time back but where the input comes or goes. -/
theorem exec_queue_time {c : Instr} {s t : State} (h : exec c s = .next t) :
    t.pending = s.pending ∧ (c.restartsTime = false → s.now ≤ t.now) := by
  obtain ⟨r, hr⟩ | ⟨hc, r, hr⟩ := exec_shape c s
  · obtain ⟨-, m, -, rfl⟩ := guarded_cases (hr ▸ h)
    exact ⟨rfl, fun _ => Nat.le_max_left _ _⟩
  · obtain ⟨-, m, -, rfl⟩ := guardedRaw_cases (hr ▸ h)
    exact ⟨rfl, fun hn => by simp [hc] at hn⟩

/-- Settles O4: a step that idles changes nothing, any other runs the front command with the rest. -/
theorem stepKeepsQueueAndTime : Obligations.StepKeepsQueueAndTime := by
  intro s t h
  cases hp : s.pending with
  | nil =>
    simp only [step, hp, Host.Outcome.next.injEq] at h
    subst h
    exact ⟨hp, fun _ => Nat.le_refl _⟩
  | cons c rest =>
    rw [step_cons hp] at h
    obtain ⟨hqueue, htime⟩ := exec_queue_time h
    exact ⟨hqueue, fun hc => htime (hc c (by simp))⟩

/-! ### Meanings -/

/-- The answer is a next module, or an event that cannot occur. -/
inductive Meant : Res → Prop
  | next (m : Mach) : Meant (.next m)
  | cannot (why : String) : Meant (Machine.cannot why)

/-- The same for the state. -/
def Responds (o : Outcome) : Prop := (∃ t, o = .next t) ∨ ∃ why, o = .refused (.cannotOccur why)

theorem guarded_responds {i : Instr} {r : Mach → Res} {s : State} (hw : i.wf = true) (h : Meant (r s.toMach)) :
    Responds (guarded i r s) := by
  cases hr : r s.toMach <;> rw [hr] at h <;> cases h
  · exact .inl ⟨_, guarded_next hw hr⟩
  · exact .inr ⟨_, by simp only [guarded, hw, State.lift, hr, ite_true]; rfl⟩

theorem guardedRaw_responds {i : Instr} {r : Mach → Res} {s : State} (hw : i.wf = true) (h : Meant (r s.toMach)) :
    Responds (guardedRaw i r s) := by
  cases hr : r s.toMach <;> rw [hr] at h <;> cases h
  · exact .inl ⟨_, by simp only [guardedRaw, hw, State.liftRaw, hr, ite_true]; rfl⟩
  · exact .inr ⟨_, by simp only [guardedRaw, hw, State.liftRaw, hr, ite_true]; rfl⟩

theorem meant_ite {c : Prop} [Decidable c] {a b : Res} (ha : Meant a) (hb : Meant b) : Meant (if c then a else b) := by
  split <;> assumption

/-- Work held whole is a next module too. -/
theorem meant_held {r : Mach → Res} {m : Mach} (h : Meant (r m)) : Meant (heldWrites r m) := by
  unfold heldWrites
  cases h' : r m <;> rw [h'] at h
  · exact meant_ite (.next _) (.next _)
  all_goals exact h

theorem meant_hostChecked {row : CmdId → List ReadErr → Mach → Res} {id : CmdId} {errs : List ReadErr} {m : Mach}
    (h : Meant (row id errs m)) : Meant (hostChecked row id errs m) := by
  unfold hostChecked
  cases h' : row id errs m <;> rw [h'] at h
  · exact .next _
  all_goals exact h

/-- A descriptor's row has a meaning where what it runs on its command has one. -/
theorem meant_descRow {kind : Nat × Nat} {id : CmdId} {errs : List ReadErr} {k : Cmd → Mach → Res} {m : Mach}
    (h : ∀ c m, Meant (k c m)) : Meant (descRow kind id errs k m) := by
  unfold descRow
  split
  · exact .cannot _
  · exact meant_ite (.cannot _) (meant_ite (.next _) (meant_ite (.next _) (h _ _)))

theorem meant_startOr (m : Mach) (c : Cmd) (r : Chk Act) : Meant (m.startOr c r) := by
  unfold Mach.startOr
  split <;> exact .next _

theorem meant_exportWith {k : Act → Mach → Res} {errs : List ReadErr} {c : Cmd} {m : Mach} (h : ∀ a m, Meant (k a m)) :
    Meant (exportWith k errs c m) := by
  unfold exportWith
  split
  · exact .next _
  · refine meant_ite (.next _) (meant_ite (.next _) ?_)
    dsimp only
    split
    · exact .next _
    · exact h _ _

theorem meant_psMessage (kind : Nat) (b : Bytes) (m : Mach) (k : Bytes → Mach → Mach) : Meant (psMessage kind b m k) :=
  meant_ite (.cannot _) (meant_ite (.next _) (.next _))

theorem meant_stageRow (k : Nat) (e : StageEnd) (body : Mach → Mach) (m : Mach) : Meant (stageRow k e body m) :=
  meant_ite (.cannot _) (.next _)

/-! ### Every row -/

/-- The rows of descriptors. -/
theorem descriptor_meant (c : Cmd) (m : Mach) :
    Meant (startProduct c m) ∧ Meant (startUpdate c m) ∧ Meant (startCopy c m) ∧
      ∀ clear, Meant (seedWith clear c m) := by
  refine ⟨?_, ?_, ?_, fun clear => ?_⟩
  · unfold startProduct; split <;> exact .next _
  · unfold startUpdate; split <;> exact .next _
  · unfold startCopy; split <;> exact .next _
  · unfold seedWith; split <;> exact .next _

/-- A write to the pointing window ends in one of the rows it stands for. -/
theorem writeWindowReg_meant (off : Nat) (b : Bytes) (m : Mach) : Meant (writeWindowReg off b m) := by
  have hacked : ∀ k v m, Meant (acked k v m) := fun k v m => meant_ite (.next _) (.next _)
  have hpeer : ∀ t m, Meant (peerHeartbeat t m) := fun t m => meant_ite (.next _) (.next _)
  have hshake : ∀ m, Meant (handshakeRow m) := by
    intro m
    unfold handshakeRow
    dsimp only
    split
    case h_8 => exact .next _
    all_goals exact meant_psMessage _ _ _ _
  exact meant_ite (.next _) (meant_ite (hacked _ _ _) (meant_ite (hpeer _ _) (meant_ite (hshake _) (.next _))))

theorem bindCounter_meant (id : CmdId) (cluster : Nat) (m : Mach) : Meant (bindCounter id cluster m) := by
  unfold bindCounter
  repeat' with_reducible first | exact .next _ | exact .cannot _ | refine meant_ite ?_ ?_ | split | dsimp only

theorem wideRow_meant (op : Nat) (id : CmdId) (errs : List ReadErr) (m : Mach) : Meant (wideRow op id errs m) := by
  unfold wideRow
  exact meant_descRow fun c m => meant_startOr _ _ _

/-- Every well-formed command has a meaning. -/
theorem exec_responds {c : Instr} {s : State} (hw : c.wf = true) : Responds (exec c s) := by
  cases c
  case productF | productDx | productDw =>
    exact guarded_responds hw (meant_held (meant_hostChecked (meant_descRow fun c m => (descriptor_meant c m).1)))
  case cast =>
    refine guarded_responds hw (meant_held (meant_hostChecked ?_))
    refine meant_descRow fun c m => ?_
    split <;> exact .next _
  case rotate =>
    exact guarded_responds hw (meant_held (meant_hostChecked (meant_descRow fun c m => meant_startOr _ _ _)))
  case add | mul | biasAct | rmsnorm | layernorm | softmax | xent | softmaxBwd | normBwd | actBwd | matmul |
    reduceCols =>
    exact guarded_responds hw (meant_held (meant_hostChecked (wideRow_meant _ _ _ _)))
  case reduce =>
    exact guarded_responds hw (meant_held (meant_descRow fun c m => meant_startOr _ _ _))
  case onePass | twoPass =>
    exact guarded_responds hw (meant_held (meant_descRow fun c m => (descriptor_meant c m).2.1))
  case copy | multicast =>
    exact guarded_responds hw (meant_held (meant_descRow fun c m => (descriptor_meant c m).2.2.1))
  case scaleSeed | scaleSeedClear =>
    exact guarded_responds hw (meant_held (meant_descRow fun c m => (descriptor_meant c m).2.2.2 _))
  case dense | topk =>
    exact guarded_responds hw (meant_held (meant_descRow fun c m => meant_exportWith fun _ _ => .next _))
  case dump =>
    refine guarded_responds hw (meant_held ?_)
    refine meant_descRow fun c m => ?_
    split
    · exact .next _
    · exact meant_ite (.next _) (meant_ite (.next _) (.next _))
  case importGrad =>
    refine guarded_responds hw (meant_held ?_)
    refine meant_descRow fun c m => ?_
    split
    · exact .next _
    · exact meant_ite (.next _) (.next _)
  case allEarlier =>
    exact guarded_responds hw (meant_descRow fun c m => .next _)
  case command =>
    exact guarded_responds hw (meant_descRow fun c m => meant_ite (.next _) (.next _))
  -- the row of SEAL, whose name is a keyword of Lean, is the first that is left
  next id =>
    exact guarded_responds (i := .seal id) hw (meant_descRow fun c m => meant_ite (.next _) (.next _))
  case scaleEnable | placeEnable | placeCommit | jEnable | cEnable | scrubEnable | fldEnable | hdmEnable |
    psEnable | bounceEnable | traceEnable | pReset | updReset | traceReset | psReset | fldReset | ptCreate |
    ptDelete | attest | fwLoad | fenceTile | clearPrior | clearCounts | dieRetired | numSummary | trFire |
    trFinish | trRestart | standby | rules | ruleFired =>
    exact guarded_responds hw (meant_ite (.next _) (.next _))
  case hello | report | encap | confirm | sweepDone | close | ack =>
    exact guarded_responds hw (meant_psMessage _ _ _ _)
  case s0Plinth | s1Rails | s2Fuses | s3Sram | s4Tiles | s5Armature | s6Memory | s9Ready =>
    exact guarded_responds hw (meant_stageRow _ _ _ _)
  case counterBind id cluster =>
    refine guarded_responds hw ?_
    have h := bindCounter_meant id cluster s.toMach
    unfold counterBind
    cases h' : bindCounter id cluster s.toMach <;> rw [h'] at h
    · exact .next _
    all_goals exact h
  case write p t v =>
    refine guarded_responds hw ?_
    unfold dictWrite
    split
    · exact .next _
    · exact meant_ite (.next _) (meant_ite (.next _) (meant_ite (.next _) (writeWindowReg_meant _ _ _)))
  -- the rows that write under the mirror's hold
  case workItemEnd | scaleLatch | outlierAddBack | fallbackItem | recomputeSwitch | recomputeNext | transferDone |
    lentRevoke | reduceBayBlock | reduceResultBlock | updateAgreement | updatePass2 | hdmWrite =>
    refine guarded_responds hw (meant_held ?_)
    simp only [workItemEnd, scaleLatch, outlierAddBack, fallbackItem, recomputeSwitch, recomputeNext, transferDone,
      lentRevoke, reduceBayBlock, reduceResultBlock, updateAgreement, updatePass2, hdmWrite]
    repeat' with_reducible first | exact .next _ | exact .cannot _ | refine meant_ite ?_ ?_ | split
  -- rows without operands that Lean does not tell from another of their name, and the rest
  case s7Host => exact guarded_responds hw (meant_ite (.next _) (meant_stageRow _ _ _ _))
  case inputApplied => exact guardedRaw_responds (i := .inputApplied) hw (meant_ite (.next _) (.next _))
  case inputRemoved => exact guardedRaw_responds (r := Machine.inputRemoved) hw (.next _)
  case linkDown => exact guarded_responds (r := Machine.linkDown) hw (.next _)
  case perstAssert => exact guarded_responds (r := Machine.perstAssert) hw (.next _)
  case perstRelease => exact guarded_responds (r := Machine.perstRelease) hw (.next _)
  case modEnHigh => exact guarded_responds (r := Machine.modEnHigh) hw (.next _)
  case efuseTrip => exact guarded_responds (r := Machine.efuseTrip) hw (.next _)
  all_goals
    refine guarded_responds hw ?_
    simp only [dictRead, dictDescribe, hdmCommit, request, noticeAck, noticeResend, transmitOpportunity,
      controlLineInvalidate, entryFetch, statusLineWrite, fenceRelease, waitTimeout, completionRecord,
      consumerLineUpdate, msixModerationTimeout, workCounterRequest, transferIssue, dryTimeAging,
      multicastDrop, lentBind, scrubLine, sramScrub, lineWriteBack, sramWriteBack, psApplyRecord, psAckTimer,
      acked, heartbeat, psPeerTimeout, psHandshakeTimeout, linkUp, vfFlr, pf0Flr, hostReadTimeout, hdmRead,
      plinthSample, droopDetect, droopRelease, governorInterval, pllUnlock, pllRelock, pllLockTimeout,
      bayWatchdogRestart, bayWatchdogExpiry, bayStoreUncorrectable, bSleep, bOff, bayWakeStart, bayWakeDone,
      standbyDrainTimeout, standbyEntry, standbyWakeDone, tileWatchdogRestart, tileWatchdogExpiry,
      tileSequencerStoreFault, trngFail, traceQueueDrain, traceFrameSend, traceAlign, traceCaptureEnd,
      traceTrainingEnd, arbitrationSlotEnd, plcaBeacon, icmpv6Echo, neighbourDiscovery, peerHeartbeat,
      packageBlankRewrite, psSendLine]
    repeat' with_reducible first | exact .next _ | exact .cannot _ | refine meant_ite ?_ ?_ | split

/-- Settles O5: an ill-formed command is stopped by its guard, a well-formed one has a meaning. -/
theorem wellFormedCommandsAnswer : Obligations.WellFormedCommandsAnswer := by
  refine fun c s => ⟨fun hw => ?_, fun hw => exec_responds hw⟩
  obtain ⟨r, hr⟩ | ⟨-, r, hr⟩ := exec_shape c s
  · simp [hr, guarded, hw]
  · simp [hr, guardedRaw, hw]

end Sys2Proof.Machine

/-! PROOF. What the operations shared by many rows change of the module, each said once as an equation: the bays that
are settled or woken, a dictionary object, a command that completes. -/

namespace Sys2Proof.Machine

open Sys2Proof

/-! ### Operations over bays alone -/

theorem foldl_bays {α : Type} {f : Mach → α → Mach} (hf : ∀ m x, ∃ bs, f m x = { m with bays := bs }) (l : List α)
    (m : Mach) : ∃ bs, l.foldl f m = { m with bays := bs } := by
  induction l generalizing m with
  | nil => exact ⟨_, rfl⟩
  | cons x l ih =>
    obtain ⟨bs, h⟩ := hf m x
    obtain ⟨cs, h'⟩ := ih (f m x)
    exact ⟨cs, by rw [List.foldl_cons, h', h]⟩

theorem Mach.obeySleep_bays (m : Mach) (b : Nat) : ∃ bs, m.obeySleep b = { m with bays := bs } := by
  unfold Mach.obeySleep
  split <;> exact ⟨_, rfl⟩

theorem Mach.settle_bays (m : Mach) : ∃ bs, m.settle = { m with bays := bs } := by
  refine foldl_bays (fun m b => ?_) _ m
  dsimp only
  split
  · exact Mach.obeySleep_bays _ b
  · exact ⟨_, rfl⟩

theorem Mach.askWake_bays (m : Mach) (b : Nat) : ∃ bs, m.askWake b = { m with bays := bs } := by
  unfold Mach.askWake
  dsimp only
  split
  case h_4 => exact ⟨_, rfl⟩
  all_goals split <;> exact ⟨_, rfl⟩

theorem Mach.wakeBays_bays (m : Mach) (l : List Nat) : ∃ bs, m.wakeBays l = { m with bays := bs } :=
  foldl_bays Mach.askWake_bays l m

@[simp] theorem Mach.settle_acts (m : Mach) : m.settle.acts = m.acts := by
  obtain ⟨_, h⟩ := m.settle_bays
  rw [h]

@[simp] theorem Mach.wakeBays_acts (m : Mach) (l : List Nat) : (m.wakeBays l).acts = m.acts := by
  obtain ⟨_, h⟩ := m.wakeBays_bays l
  rw [h]

/-! ### Operations over the dictionary alone -/

theorem Mach.setObj_dict (m : Mach) (o i v : Nat) : ∃ d, m.setObj o i v = { m with dict := d } := ⟨_, rfl⟩

theorem Mach.bump_dict (m : Mach) (o i n : Nat) : ∃ d, m.bump o i n = { m with dict := d } := ⟨_, rfl⟩

theorem Mach.countPoisonedField_dict (m : Mach) (hs : SMap Handle) (p o : Nat) :
    ∃ d, m.countPoisonedField hs p o = { m with dict := d } := by
  unfold Mach.countPoisonedField
  dsimp only
  split <;> exact ⟨_, rfl⟩

@[simp] theorem Mach.countThrottle_acts (m : Mach) (p : Nat) : (m.countThrottle p).acts = m.acts := by
  unfold Mach.countThrottle
  dsimp only
  split <;> rfl

/-! ### Completion -/

/-- A record becomes ready at the end of the list; at most a stall is counted. -/
theorem Mach.pushRec_eq (m : Mach) (r : Nat) (b : Bytes) (cmd : Option (CmdId × Nat)) :
    ∃ d waits, m.pushRec r b cmd = { m with dict := d, ready := m.ready ++ [⟨r, b, cmd, waits⟩] } := by
  unfold Mach.pushRec
  dsimp only
  split <;> exact ⟨_, _, rfl⟩

/-- A descriptor's own command completes: it leaves the sequencers, and one record of it is ready. Counters, the
sequence of its source and idle bays are all that changes beside. -/
theorem Mach.complete_eq (m : Mach) {c : Cmd} (hc : c.id.sub = 0) (reason detail specific : Nat) (f : Flg) (p : Bool) :
    ∃ rec d sq bs, rec.cmd = some (c.id, reason) ∧
      fld rec.bytes 4 1 = 1 ∧ fld rec.bytes 6 1 = reason % 256 ∧ fld rec.bytes 7 1 = detail % 256 ∧
      m.complete c reason detail specific f p = { m with
        acts := m.acts.filter fun a => decide (a.cmd.id ≠ c.id)
        received := m.received.filter fun x => decide (x.id ≠ c.id)
        ready := m.ready ++ [rec], dict := d, seqs := sq, bays := bs } := by
  unfold Mach.complete
  extract_lets left poison residue handed src sq b done
  have hresidue : ∃ d, residue = { left with dict := d } := by
    have hpoison : ∃ d, poison = { left with dict := d } := by
      simp only [poison]
      split <;> exact ⟨_, rfl⟩
    obtain ⟨d, hd⟩ := hpoison
    simp only [residue, hd]
    split <;> exact ⟨_, rfl⟩
  obtain ⟨d, hd⟩ := hresidue
  obtain ⟨d', waits, hpush⟩ := Mach.pushRec_eq sq.2 (residue.obj O.J_RING c.id.journal) b (some (c.id, reason))
  have hdone : done = sq.2.pushRec (residue.obj O.J_RING c.id.journal) b (some (c.id, reason)) := if_neg (by simp [hc])
  obtain ⟨bs, hbs⟩ := done.settle_bays
  refine ⟨⟨residue.obj O.J_RING c.id.journal, b, some (c.id, reason), waits⟩, d', sq.2.seqs, bs, rfl, ?_, ?_, ?_, ?_⟩
  case refine_4 =>
    rw [hbs, hdone, hpush]
    simp only [sq, Mach.nextSeq, hd]
    rfl
  all_goals
    simp only [b, recordBytes, List.append_assoc, leBytes_length, fld_append_skip, fld_leBytes_append, Nat.reduceLeDiff,
      Nat.reduceSub, Nat.reducePow, Nat.reduceMod]

end Sys2Proof.Machine

/-! PROOF. Commands of a journal: what a descriptor's row answers where its sequencer takes the command, refused,
started, waiting or made at once (R230, R239, R244). -/

namespace Sys2Proof.Machine

open Sys2Proof

/-! ### A row whose command is taken -/

theorem State.takes.wf {s : State} {kind : Nat × Nat} {c : Cmd} (h : s.takes kind c) {errs : List ReadErr}
    (he : errs.all ReadErr.ok = true) : (c.id.whole && errs.all ReadErr.ok) = true := by
  rw [h.1, he, Bool.and_self]

theorem State.takes.sub_eq {s : State} {kind : Nat × Nat} {c : Cmd} (h : s.takes kind c) : c.id.sub = 0 := by
  have hw := h.1
  simp only [CmdId.whole, Bool.and_eq_true, beq_iff_eq] at hw
  exact hw.2

/-- A row that the mirror may hold answers as its meaning does on the module that has read its handles. -/
theorem held_descRow_next {i : Instr} {kind : Nat × Nat} {s : State} {c : Cmd} {errs : List ReadErr}
    {k : Cmd → Mach → Res} {m : Mach} (hw : i.wf = true) (hm : s.mirrorsOn) (ht : s.takes kind c)
    (hk : k c (s.reads c errs) = .next m) :
    guarded i (heldWrites (descRow kind c.id errs k)) s = .next (s.after m) := by
  refine guarded_next hw ?_
  rw [heldWrites_accepted _ hm, descRow_takes errs k ht, hk]

/-! ### Refused -/

/-- A command refused for another reason than the link completes with its record, after a count of what was read
poisoned. -/
theorem Mach.refuseChecked_eq (m : Mach) (c : Cmd) {e : Nat × Nat} (he : e.1 ≠ rLINK) :
    ∃ d, m.refuseChecked c e = ({ m with dict := d } : Mach).complete c e.1 e.2 0 .none false := by
  unfold Mach.refuseChecked
  rw [if_neg he]
  dsimp only
  split
  · split
    · obtain ⟨d, hd⟩ := m.countPoisonedField_dict ‹_› c.problem e.2
      exact ⟨d, by rw [hd]; rfl⟩
    · exact ⟨m.dict, rfl⟩
  · exact ⟨m.dict, rfl⟩

/-- A row of `computeRows` is a descriptor's row that refuses what its validation does not pass. -/
theorem computeRows_refuse : ∀ r ∈ computeRows, ∃ k : Cmd → Mach → Res,
    (∀ c m e, r.validate m c = .error e → k c m = .next (m.refuseChecked c e)) ∧
    ∀ x s, exec (r.make x) s = guarded (r.make x)
        (heldWrites (hostChecked (fun id errs => descRow r.kind id errs k) x.id x.errs)) s ∧
      (r.make x).wf = (x.id.whole && x.errs.all ReadErr.ok) := by
  have hproduct : ∀ c m e, validateProduct m c = .error e → startProduct c m = .next (m.refuseChecked c e) := by
    intro c m e h
    simp [startProduct, h]
  have hstart : ∀ (v : Mach → Cmd → Chk Act) c m e, v m c = .error e →
      (fun c (m : Mach) => m.startOr c (v m c)) c m = .next (m.refuseChecked c e) := by
    intro v c m e h
    simp [Mach.startOr, h]
  simp only [computeRows, List.forall_mem_cons, List.not_mem_nil, false_implies, implies_true, and_true]
  refine ⟨⟨startProduct, hproduct, fun _ _ => ⟨rfl, rfl⟩⟩, ⟨startProduct, hproduct, fun _ _ => ⟨rfl, rfl⟩⟩,
    ⟨startProduct, hproduct, fun _ _ => ⟨rfl, rfl⟩⟩, ⟨_, fun c m e h => ?_, fun _ _ => ⟨rfl, rfl⟩⟩, ?_⟩
  · simp only [h]
  · exact ⟨⟨_, hstart _, fun _ _ => ⟨rfl, rfl⟩⟩, ⟨_, hstart _, fun _ _ => ⟨rfl, rfl⟩⟩,
      ⟨_, hstart _, fun _ _ => ⟨rfl, rfl⟩⟩, ⟨_, hstart _, fun _ _ => ⟨rfl, rfl⟩⟩, ⟨_, hstart _, fun _ _ => ⟨rfl, rfl⟩⟩,
      ⟨_, hstart _, fun _ _ => ⟨rfl, rfl⟩⟩, ⟨_, hstart _, fun _ _ => ⟨rfl, rfl⟩⟩, ⟨_, hstart _, fun _ _ => ⟨rfl, rfl⟩⟩,
      ⟨_, hstart _, fun _ _ => ⟨rfl, rfl⟩⟩, ⟨_, hstart _, fun _ _ => ⟨rfl, rfl⟩⟩, ⟨_, hstart _, fun _ _ => ⟨rfl, rfl⟩⟩,
      ⟨_, hstart _, fun _ _ => ⟨rfl, rfl⟩⟩, ⟨_, hstart _, fun _ _ => ⟨rfl, rfl⟩⟩⟩

theorem Mach.act?_filter (l : List Act) (id : CmdId) :
    (l.filter fun a => decide (a.cmd.id ≠ id)).find? (fun a => decide (a.cmd.id = id)) = none := by
  rw [List.find?_eq_none]
  intro a ha
  simpa using (List.mem_filter.mp ha).2

/-- Settles O7: a refused command completes, and nothing of it runs that the link could end. -/
theorem refusedCommandsOnlyRecord : Obligations.RefusedCommandsOnlyRecord := by
  intro r hr s c errs e he hm ht hv hlink m
  obtain ⟨k, hk, hexec⟩ := computeRows_refuse r hr
  obtain ⟨hexec, hwf⟩ := hexec ⟨c.id, errs⟩ s
  obtain ⟨d, hd⟩ := m.refuseChecked_eq c hlink
  obtain ⟨rec, d', sq, bs, hcmd, hkind, hreason, hdetail, hdone⟩ :=
    Mach.complete_eq { m with dict := d } ht.sub_eq e.1 e.2 0 .none false
  have hnone : (m.refuseChecked c e).act? c.id = none := by
    rw [hd, hdone]
    exact Mach.act?_filter _ _
  have hlate : (m.refuseChecked c e).failStarted c.id = m.refuseChecked c e :=
    Mach.failStarted_of_reaches (.inr fun a ha => by rw [hnone] at ha; cases ha)
  have hrow :
      hostChecked (fun id errs => descRow r.kind id errs k) c.id errs s.toMach = .next (m.refuseChecked c e) := by
    simp only [hostChecked, descRow_takes errs k ht, hk _ _ _ hv]
    exact congrArg _ hlate
  refine ⟨s.after (m.refuseChecked c e), rec, ?_, ?_⟩
  · rw [hexec]
    exact guarded_next (by rw [hwf]; exact ht.wf he) (by rw [heldWrites_accepted _ hm]; exact hrow)
  · rw [hd, hdone]
    exact ⟨rfl, rfl, rfl, rfl, rfl, rfl, rfl, rfl, rfl, hcmd, hkind, hreason, hdetail⟩

/-! ### Started -/

/-- Settles O8: the rows start what their validation passes. -/
theorem reductionsAndUpdatesStart : Obligations.ReductionsAndUpdatesStart := by
  refine ⟨fun s c errs a he hm ht hv => ?_, fun s c errs a f he hm hv => ⟨fun ht => ?_, fun ht => ?_⟩⟩
  · exact held_descRow_next (ht.wf he) hm ht (by simp [Mach.startOr, hv])
  · exact held_descRow_next (ht.wf he) hm ht (by simp [startUpdate, hv])
  · exact held_descRow_next (ht.wf he) hm ht (by simp [startUpdate, hv])

/-- A COPY that can reach its ends is launched (R376, R251). -/
theorem Mach.launchCopy_reaches {m : Mach} {a : Act} {w : CopyWork} (hw : a.work = .copying w)
    (h : (isHost w.src || isHost w.dst) = true →
      m.linkUp = true ∧ ((m.part a.cmd.part).confidential = true → (m.bounceKeys a.cmd.part).isSome = true)) :
    let run : Act := { a with work := .copying (m.joins a.cmd.bay { w with
      deadline := if a.cmd.deadline = 0 then none else some (m.now + a.cmd.deadline) }) }
    m.launchCopy a = ((m.launch run).countThrottle a.cmd.part).wakeBays (m.actBays run) := by
  intro run
  simp only [Mach.launchCopy, hw]
  cases hhost : (isHost w.src || isHost w.dst)
  · rfl
  · obtain ⟨hlink, hkey⟩ := h hhost
    cases hconf : (m.part a.cmd.part).confidential
    · simp only [hlink]
      rfl
    · have hn : (m.bounceKeys a.cmd.part).isNone = false := by simpa using hkey hconf
      simp only [hlink, hn]
      rfl

/-- A validated COPY runs with its list ready behind it. -/
theorem startCopy_ok {m : Mach} {c : Cmd} {a : Act} {l : List Act} {w : CopyWork} (hv : validateCopy m c = .ok (a, l))
    (ha : a.cmd = c) (hw : a.work = .copying w)
    (h : (isHost w.src || isHost w.dst) = true →
      m.linkUp = true ∧ ((m.part c.part).confidential = true → (m.bounceKeys c.part).isSome = true)) :
    let run : Act := { a with work := .copying (m.joins c.bay { w with
      deadline := if c.deadline = 0 then none else some (m.now + c.deadline) }) }
    let n := ((m.launch run).countThrottle c.part).wakeBays (m.actBays run)
    startCopy c m = .next { n with listed := n.listed ++ l } := by
  subst ha
  intro run n
  have hn : m.launchCopy a = n := Mach.launchCopy_reaches hw h
  have hrun : (n.act? a.cmd.id).isSome = true := by
    simp only [n, Mach.act?, Mach.wakeBays_acts, Mach.countThrottle_acts, Mach.launch_acts, List.find?_isSome]
    exact ⟨run, by simp, by simp [run]⟩
  simp only [startCopy, hv, hn, hrun, ite_true]

/-- Settles O9: both rows of COPY start it. -/
theorem copiesStart : Obligations.CopiesStart := by
  intro s c errs a l w he hm m hv ha hw hreach run n t
  have h := startCopy_ok hv ha hw hreach
  exact ⟨fun ht => held_descRow_next (ht.wf he) hm ht h, fun ht => held_descRow_next (ht.wf he) hm ht h⟩

/-! ### WAIT -/

theorem rowOf_wait {c : Cmd} {k : Nat} (h : rowOf c = some (10, k)) : c.opcode = 10 ∧ c.opflags % 4 = k := by
  unfold rowOf at h
  dsimp only at h
  split at h
  · split at h <;> simp at h
  · split at h
    · split at h <;> simp at h
    · split at h
      · simp at h
      · split at h
        · split at h <;> simp_all
        · split at h
          · simp at h
          · split at h
            · split at h <;> simp at h
            · split at h <;> simp_all

/-- A WAIT names no handle, so nothing is read for it. -/
theorem State.takes.reads_wait {s : State} {c : Cmd} {k : Nat} (h : s.takes (10, k) c) : s.reads c [] = s.toMach := by
  obtain ⟨-, -, hrow, -⟩ := h
  simp only [State.reads, Mach.entryReads, handleFields, (rowOf_wait hrow).1]
  rfl

theorem State.takes.opflags {s : State} {c : Cmd} {k : Nat} (h : s.takes (10, k) c) : c.opflags % 4 = k := by
  obtain ⟨-, -, hrow, -⟩ := h
  exact (rowOf_wait hrow).2

/-- A WAIT that its sequencer takes runs its form on the module as it stands. -/
theorem wait_next {i : Instr} {k : Nat} {s : State} {c : Cmd} {r : Cmd → Mach → Res} {m : Mach} (hw : i.wf = c.id.whole)
    (ht : s.takes (10, k) c) (hr : r c s.toMach = .next m) :
    guarded i (descRow (10, k) c.id [] r) s = .next (s.after m) := by
  refine guarded_next (hw.trans ht.1) ?_
  rw [descRow_takes [] r ht, ht.reads_wait, hr]

/-- A WAIT that has just been launched is found where no other of its identifier runs. -/
theorem Mach.act?_launch_of {m : Mach} (c : Cmd) (w : Work) (h : m.act? c.id = none) :
    (m.launch (.of c w)).act? c.id = some (.of c w) := by
  simp only [Mach.act?] at h
  simp only [Mach.act?, Mach.launch_acts, List.find?_append, h, Act.of, Option.none_or, List.find?_cons, decide_true]

/-- A SEAL with lines left to send stays as it is. -/
theorem Mach.trySeal_of_lines {m : Mach} {id : CmdId} {a : Act} {lines : NSet} {needs seals : SMap Nat}
    (ha : m.act? id = some a) (hw : a.work = .waiting lines needs seals) (hl : lines ≠ []) : m.trySeal id = m := by
  cases lines with
  | nil => exact absurd rfl hl
  | cons l ls => simp only [Mach.trySeal, ha, hw]

/-- Settles O10: each form looks at its condition when it starts. -/
theorem waitsCompleteWhenTheirConditionHolds : Obligations.WaitsCompleteWhenTheirConditionHolds := by
  intro s c m
  refine ⟨fun ht h => ?_, fun ht h => ?_, fun r ht hp hdone hr => ?_, fun ht hp hdone => ?_, fun ht hp => ?_,
    fun ht hb n hn => ⟨?_, fun hnone hdirty => ?_⟩⟩
  · exact wait_next rfl ht (by simp [Mach.tryWait, ht.opflags, m, h])
  · exact wait_next rfl ht (by simp [Mach.tryWait, ht.opflags, m, h])
  · have htarget : m.targetReason (c.f 20 1) (c.f 21 6) = (r, m) := by
      have : mget (m.journal (c.f 20 1)).reasons (c.f 21 6) = some r := hr
      simp [Mach.targetReason, this]
    exact wait_next rfl ht (by simp [hp, Mach.tryWait, ht.opflags, m, hdone, htarget])
  · exact wait_next rfl ht (by simp [hp, Mach.tryWait, ht.opflags, m, hdone])
  · exact wait_next rfl ht (by simp [hp])
  · exact wait_next rfl ht (by simp [hb, hn])
  · have hact := Mach.act?_launch_of c (.waiting (s.dirty.filter s.psLine) (s.pair.unacked.foldl
      (fun (n : SMap Nat) r => if r.line.isSome then mset n r.bay (r.seq + 1) else n) []) []) hnone
    rw [← hn] at hact
    exact wait_next rfl ht (by simp [hb, ← hn, Mach.trySeal_of_lines hact rfl hdirty])

/-! ### Made at once -/

/-- Settles O11: the row of a seed writes its entry where its checks pass. -/
theorem scaleSeedsWriteTheirEntry : Obligations.ScaleSeedsWriteTheirEntry := by
  intro s c errs b he hm m
  refine ⟨fun ht hv => ?_, fun ht hv => ?_⟩
  · exact held_descRow_next (ht.wf he) hm ht (by simp [seedWith, hv, m, Mach.scaleEntry])
  · exact held_descRow_next (ht.wf he) hm ht (by simp [seedWith, hv, m, Mach.scaleEntry])

/-- Settles O12: a validated row looks at the link and its bays, and makes its image. -/
theorem hostImagesAreMade : Obligations.HostImagesAreMade := by
  intro s c errs a he hm m src side
  refine ⟨fun ht hv hlink => ⟨fun hissue hready => ?_, fun hready => ?_⟩,
    fun hv hlink => ⟨fun hnode hfault => ⟨fun ht => ?_, fun ht => ?_⟩, fun hnode => ⟨fun ht => ?_, fun ht => ?_⟩⟩,
    fun is x ht hv => ?_⟩
  · exact held_descRow_next (ht.wf he) hm ht (by simp [hv, m, hlink, hissue, side, hready])
  · exact held_descRow_next (ht.wf he) hm ht (by simp [hv, m, hlink, side, hready])
  · exact held_descRow_next (ht.wf he) hm ht (by simp [exportWith, hv, m, hlink, hnode, src, hfault])
  · exact held_descRow_next (ht.wf he) hm ht (by simp [exportWith, hv, m, hlink, hnode, src, hfault])
  · exact held_descRow_next (ht.wf he) hm ht (by simp [exportWith, hv, m, hnode])
  · exact held_descRow_next (ht.wf he) hm ht (by simp [exportWith, hv, m, hnode])
  · intro ready
    have hvalid : validateImport (s.reads c errs) c = .ok (a, is) := hv
    refine ⟨fun hready => ?_, ?_⟩
    · refine held_descRow_next (ht.wf he) hm ht ?_
      simp only [hvalid]
      exact if_neg (ne_true_of_eq_false hready)
    · intro rd hready hok hblocks
      refine held_descRow_next (ht.wf he) hm ht ?_
      simp only [hvalid]
      refine (if_pos hready).trans (congrArg _ ?_)
      unfold Mach.makeImport
      exact (if_neg (ne_true_of_eq_false hok)).trans (by simp only [rd] at hblocks ⊢; rw [hblocks])

end Sys2Proof.Machine

/-! PROOF. Work items, scales and recomputation: what the engines of a cluster do with the counters, the items and the
outlier terms of its commands (R92, R93), how a CAST finds its latch (R71), and the list of a COPY (R131). -/

namespace Sys2Proof.Machine

open Sys2Proof

/-- A row that the mirror may hold answers as its meaning does where the mirror accepts writes. -/
theorem held_next {i : Instr} {r : Mach → Res} {s : State} {m : Mach} (hw : i.wf = true) (hm : s.mirrorsOn)
    (h : r s.toMach = .next m) : guarded i (heldWrites r) s = .next (s.after m) :=
  guarded_next hw (by rw [heldWrites_accepted _ hm, h])

/-! ### Counters -/

/-- Where a tile is left, a cluster loses no item. -/
theorem Mach.loseCluster_of_live {m : Mach} {cluster : Nat} (h : (m.liveTiles cluster).isEmpty = false) :
    m.loseCluster cluster = m := by
  simp [Mach.loseCluster, h]

theorem bindCounter_of_free {id : CmdId} {cluster n : Nat} {m : Mach} {a : Act} {r : Nat × Nat × Nat}
    (ha : m.act? id = some a) (hr : a.toBind.find? (fun x => x.1 == cluster) = some r)
    (hn : (List.range 8).find? (fun n =>
      !((m.counters.filter fun k => k.cluster == cluster).map (·.num)).contains n) = some n)
    (hlent : (m.lent.any fun l => l.tile / 64 == cluster) = false) (hready : m.bayReady (cluster / 10) = true) :
    bindCounter id cluster m = .next (({ m with counters :=
        m.counters ++ [⟨cluster, n, id, a.cmd.engineKind, r.2.1, r.2.2, r.2.2 - r.2.1⟩] } : Mach).setAct
      { a with toBind := a.toBind.filter fun x => x.1 != cluster }) := by
  simp only [bindCounter, ha, hr, hn, hlent, hready]
  rfl

theorem bindCounter_of_full {id : CmdId} {cluster : Nat} {m : Mach} {a : Act} {r : Nat × Nat × Nat}
    (ha : m.act? id = some a) (hr : a.toBind.find? (fun x => x.1 == cluster) = some r)
    (hn : (List.range 8).find? (fun n =>
      !((m.counters.filter fun k => k.cluster == cluster).map (·.num)).contains n) = none) :
    bindCounter id cluster m = .next m := by
  simp only [bindCounter, ha, hr, hn]

/-- Settles O13: the search of R92 from the lowest number, in a cluster that loses nothing. -/
theorem countersBindLowestFree : Obligations.CountersBindLowestFree := by
  intro s id cluster a r hid hcl ha hr hlive used
  have hwf : (Instr.counterBind id cluster).wf = true := by simp [Instr.wf, hid, okCluster, hcl]
  refine ⟨fun n hn hfree hlow hlent hready => ?_, fun hfull => ?_⟩
  · have hfind : (List.range 8).find? (fun n => !used.contains n) = some n :=
      List.find?_range_eq_some.mpr ⟨by simpa using hfree, by simpa using hn, fun k hk => by simpa using hlow k hk⟩
    have hbind := bindCounter_of_free ha hr hfind hlent hready
    refine guarded_next hwf ?_
    simp only [counterBind, hbind]
    exact congrArg (fun m : Mach => Host.Outcome.next m.finishFreed) (Mach.loseCluster_of_live hlive)
  · have hfind : (List.range 8).find? (fun n => !used.contains n) = none :=
      List.find?_range_eq_none.mpr fun k hk => by simpa using hfull k hk
    have hbind := bindCounter_of_full ha hr hfind
    refine guarded_next hwf ?_
    simp only [counterBind, hbind]
    exact congrArg (fun m : Mach => Host.Outcome.next m.finishFreed) (Mach.loseCluster_of_live hlive)

/-- A free engine of a bay that works is answered by the counters. -/
theorem workCounterRequest_free {m : Mach} {e : Nat} (hidle : (m.running.any fun r => r.engine == e) = false)
    (hready : m.bayReady (engineBay e) = true) (hhole : engineKind e ≤ 3 → m.isHole (engineTile e) = false)
    (hwide : engineKind e = 4 → (m.addBacks.any fun b => b.cluster == engineCluster e) = false ∧
      m.fallbackLeft (engineCluster e) = false) :
    ((m.running.any fun r => r.engine == e) ||
      decide (engineKind e = 4 ∧ (m.addBacks.any (fun b => b.cluster == engineCluster e) ||
        m.fallbackLeft (engineCluster e))) || !m.bayReady (engineBay e) ||
      (engineKind e ≤ 3 && m.isHole (engineTile e))) = false := by
  simp only [hidle, hready, Bool.false_or, Bool.not_true, Bool.or_false, Bool.or_eq_false_iff, decide_eq_false_iff_not]
  refine ⟨fun ⟨hk, hor⟩ => ?_, ?_⟩
  · obtain ⟨hadd, hfall⟩ := hwide hk
    simp [hadd, hfall] at hor
  · by_cases hk : engineKind e ≤ 3
    · simp [hk, hhole hk]
    · simp [hk]

/-- Settles O14: a free engine is answered by the oldest counter with items left, or by none. -/
theorem workCountersGiveTheNextItem : Obligations.WorkCountersGiveTheNextItem := by
  intro s e he hidle hready hhole hwide next
  have hfree := workCounterRequest_free hidle hready hhole hwide
  refine ⟨fun k a hk ha hawake => ?_, fun k a hk ha hawake => ?_, fun hnone => ?_⟩
  · refine guarded_next he ?_
    simp only [workCounterRequest, hfree]
    simp only [Mach.nextCounter, next] at *
    simp [hk, ha, hawake]
  · refine guarded_next he ?_
    simp only [workCounterRequest, hfree]
    simp only [Mach.nextCounter, next] at *
    simp [hk, ha, hawake]
  · refine guarded_next he ?_
    simp only [workCounterRequest, hfree]
    simp only [Mach.nextCounter, next] at *
    simp [hnone]

/-! ### Items -/

/-- Settles O15: each row finds the item its engine ends, and ends it. -/
theorem workItemsEnd : Obligations.WorkItemsEnd := by
  refine ⟨fun s e spent errs r a he herrs hm hr ha hready => ?_,
    fun s cluster errs b a hcl herrs hm hb ha hidle hready => ?_,
    fun s cluster errs a l x hcl herrs hm ha hl hx hidle hadd hready => ?_⟩
  · intro m
    exact held_next (by simp [Instr.wf, he, herrs]) hm (by simp [workItemEnd, hr, ha, hready, m])
  · exact held_next (by simp [Instr.wf, okCluster, hcl, herrs]) hm (by simp [outlierAddBack, hb, hidle, ha, hready])
  · exact held_next (by simp [Instr.wf, okCluster, hcl, herrs]) hm (by simp [fallbackItem, ha, hidle, hadd, hready, hl, hx])

/-! ### The latch of a CAST -/

/-- What the entry `e` makes of the CAST `a` (R71), by whether it is bound to another tensor and whether a step has
latched. -/
def Mach.latchFrom (m : Mach) (errs : List ReadErr) (a : Act) (foreign latched : Bool) (e : Bytes) : Res :=
  if foreign then .next (m.refuse a.cmd rOVERLAP 36)
  else if latched && decide (a.cmd.step < fld e 8 6) then .next (m.refuse a.cmd rSTATE 0x10)
  else if latched && a.cmd.step == fld e 8 6 then
    if fld e 7 1 ≠ a.dstFmt.code then .next (m.refuse a.cmd rFORMAT 36)
    else if fld e 14 2 ≥ 65535 then .next (m.refuse a.cmd rRESOURCE 0xFF)
    else .next ((if a.cmd.capacity = 0 then m else m.touch errs a.sourceReads).joinLatch a e)
  else if latched && decide (fld e 14 2 > 0) then .next m
  else if !entrySeeded e && a.cmd.noTwoPass then
    .next ((m.bump O.UNSEEDED_FAULTS a.cmd.part 1).refuse a.cmd rUNSEEDED 0xFF)
  else .next ((if entrySeeded e && a.cmd.capacity == 0 then m else m.touch errs a.sourceReads).newLatch a e)

theorem scaleLatch_eq {id : CmdId} {errs : List ReadErr} {m : Mach} {a : Act} (ha : m.act? id = some a)
    (hw : a.work = .latching) :
    scaleLatch id errs m =
      let ad := m.scaleEntry a.cmd.part a.dstTensor
      let r := m.takeReads errs [(ad, 128)]
      let m := if r.rdPoison ad 128 then (r.wr ad (freshEntry a.dstTensor) false).bump O.SCALE_LOST a.cmd.part 1 else r
      let e0 := m.rd ad 128
      let bound := (fld e0 4 1).testBit 0
      let e := if bound then e0 else freshEntry a.dstTensor
      m.latchFrom errs a (bound && fld e 0 4 != a.dstTensor) ((fld e 4 1).testBit 1) e := by
  simp only [scaleLatch, ha, hw]
  exact if_neg (not_not_intro rfl)

/-- Settles O16: the entry as it stands after its read decides what the CAST does. -/
theorem castsLatchTheirScale : Obligations.CastsLatchTheirScale := by
  intro s id errs a hid herrs hm ha hw ad r m e0 bound e latched mine
  have hwf : (Instr.scaleLatch ⟨id, errs⟩).wf = true := by simp [Instr.wf, hid, herrs]
  have hgo : ∀ {m'}, m.latchFrom errs a (bound && fld e 0 4 != a.dstTensor) latched e = .next m' →
      exec (.scaleLatch ⟨id, errs⟩) s = .next (s.after m') :=
    fun h => held_next hwf hm ((scaleLatch_eq ha hw).trans h)
  have hown : mine → (bound && fld e 0 4 != a.dstTensor) = false := by
    cases hb : bound <;> simp [mine, e, hb]
  have hforeign : bound = true → e = e0 := fun hb => if_pos hb
  clear_value latched e bound m
  refine ⟨fun hmine hl hstep hfmt hrun => hgo ?_, fun hmine hl hseed => hgo ?_, fun hmine hl hstep hrun => hgo ?_,
    fun hb hne => hgo ?_, fun hmine hl hstep => hgo ?_⟩
  · simp [Mach.latchFrom, hown hmine, hl, hstep, hfmt, Nat.not_le.mpr hrun]
  · rw [hown hmine]
    cases latched with
    | false =>
      cases hs : entrySeeded e <;> simp_all [Mach.latchFrom]
    | true =>
      obtain ⟨hstep, hrun⟩ := hl rfl
      cases hs : entrySeeded e <;> simp_all [Mach.latchFrom, Nat.lt_asymm hstep, Nat.ne_of_gt hstep]
  · simp [Mach.latchFrom, hown hmine, hl, Nat.lt_asymm hstep, Nat.ne_of_gt hstep, hrun]
  · simp [Mach.latchFrom, hb, hforeign hb, hne]
  · simp [Mach.latchFrom, hown hmine, hl, hstep]

/-! ### The list of a COPY -/

/-- Settles O17: the switch and the turn to the next command of the list. -/
theorem recomputationRunsItsList : Obligations.RecomputationRunsItsList := by
  intro s id a w hid hm ha hw
  refine ⟨fun d hrun hd hn => ?_, fun r d hend hlo hhi => ?_, fun r d hend hr hlt => ?_, fun r d hend hr hge hlost => ?_,
    fun r d hend hr hge hlost => ?_⟩
  · exact held_next hid hm (by simp [recomputeSwitch, ha, Act.copyWork?, hw, hrun, hd, hn])
  · exact held_next hid hm (by simp [recomputeNext, ha, hw, hend, hlo, hhi])
  · exact held_next hid hm (by simp only [recomputeNext, ha, hw, hend, hr, hlt, ite_true, ite_false])
  · exact held_next hid hm (by
      simp only [recomputeNext, ha, hw, hend, hr, Nat.not_lt.mpr hge, hlost, ite_false, Bool.false_eq_true])
  · exact held_next hid hm (by
      simp only [recomputeNext, ha, hw, hend, hr, Nat.not_lt.mpr hge, hlost, ite_true, ite_false])

end Sys2Proof.Machine

/-! PROOF. Journals and rings: control lines and entries as the host stores them (R221 to R226), FENCE and TIMEOUT
(R244), and the records of rings (R227 to R229). -/

namespace Sys2Proof.Machine

open Sys2Proof

/-! ### Lines of host memory -/

theorem hostAddr_tier (a : Nat) : hostAddr a / 2 ^ 56 = 0x80 := by
  have ha : a % 2 ^ 56 < 2 ^ 56 := Nat.mod_lt _ (by decide)
  simp only [hostAddr, hostBase]
  omega

/-- A write of host memory changes its bytes and marks alone. -/
theorem Mach.wr_hostAddr (m : Mach) (a : Nat) {v : Bytes} (p : Bool) (hv : v ≠ []) :
    ∃ bytes marks, m.wr (hostAddr a) v p = { m with mem := bytes, hostPoison := marks } :=
  ⟨_, _, by rw [Mach.wr, if_pos (hostAddr_tier a), if_neg (by simpa using hv)]; rfl⟩

theorem bytesAt_ne_nil (b : Bytes) (o : Nat) {n : Nat} (hn : 0 < n) : bytesAt b o n ≠ [] := by
  simp [bytesAt, Nat.ne_of_gt hn]

/-! ### Control lines -/

/-- Settles O18: the line as stored gives PRODUCE, or stops the journal. -/
theorem controlLinesGiveProduce : Obligations.ControlLinesGiveProduce := by
  intro s j d hj hd stored x
  have hwf : ∀ bad, (Instr.controlLineInvalidate j (.ok d bad)).wf = true := by
    simp [Instr.wf, okJournal, hj, HostRead.sized, hd]
  have hframe : ∀ bad, (stored bad).journal j = x ∧ (stored bad).obj O.J_SIZE j = s.obj O.J_SIZE j := fun bad => by
    obtain ⟨bytes, marks, h⟩ :=
      s.wr_hostAddr (s.obj O.J_CONTROL j) bad (bytesAt_ne_nil d 0 (by decide : 0 < 64))
    simp only [stored, h]
    exact ⟨rfl, rfl⟩
  refine ⟨fun hstop bad => guarded_next (hwf bad) ?_, fun hrun => ?_⟩
  · simp only [controlLineInvalidate]
    exact if_pos (show ((stored bad).journal j).state ≠ .running by rw [(hframe bad).1]; exact hstop)
  intro m
  obtain ⟨hmj, hmo⟩ : m.journal j = x ∧ m.obj O.J_SIZE j = s.obj O.J_SIZE j := hframe false
  have htake : ∀ bad, ¬ ((stored bad).journal j).state ≠ .running := fun bad => by rw [(hframe bad).1]; simp [hrun]
  have hgo : ∀ {m'}, m.takeProduce j (fld d 0 8) = m' →
      exec (.controlLineInvalidate j (.ok d false)) s = .next (s.after m') := fun h => by
    refine guarded_next (hwf false) ?_
    rw [← h]
    simp only [controlLineInvalidate]
    exact if_neg (htake false)
  refine ⟨fun hlo hhi => hgo ?_, fun hlo => hgo ?_, fun hhi => hgo ?_, guarded_next (hwf true) ?_,
    guarded_next (by simp [Instr.wf, okJournal, hj, HostRead.sized]) ?_⟩
  · simp [Mach.takeProduce, hmj, hmo, hrun, Nat.not_lt.mpr hlo, Nat.not_lt.mpr hhi]
  · simp [Mach.takeProduce, hmj, hrun, hlo]
  · have hlo : ¬ fld d 0 8 < x.consumed := by omega
    simp [Mach.takeProduce, hmj, hmo, hrun, hlo, hhi]
  · simp only [controlLineInvalidate]
    exact if_neg (htake true)
  · simp only [controlLineInvalidate]
    exact if_neg (not_not_intro hrun)

/-! ### Entries -/

/-- Settles O19: each clause is a branch of the fetch, from the slot as the host has stored it. -/
theorem entriesAreFetchedInTurn : Obligations.EntriesAreFetchedInTurn := by
  intro s j d hj hd p x slot n c fenced m
  have hwf : ∀ bad, (Instr.entryFetch j (.ok d bad)).wf = true := by
    simp [Instr.wf, okJournal, hj, HostRead.sized, hd]
  have hfetch : s.nextJournal p = some j → ∀ {m'}, (if fenced then m else m.handOver c) = m' →
      exec (.entryFetch j (.ok d false)) s = .next (s.after m') := fun hturn m' h => by
    refine guarded_next (hwf false) ?_
    obtain ⟨bytes, marks, hn⟩ :=
      s.wr_hostAddr (s.slotAddr j (s.journal j).consumed) false (bytesAt_ne_nil d 0 (by decide : 0 < 64))
    have hn' : n = { s.toMach with mem := bytes, hostPoison := marks } := hn
    rw [← h]
    simp only [entryFetch, Mach.hostStored, hn]
    rw [if_neg (not_not_intro hturn)]
    simp only [fenced, m, c, hn']
    rfl
  refine ⟨fun hturn hf hc => hfetch hturn ?_, fun r hturn hf hc => hfetch hturn ?_, fun hturn hf => hfetch hturn ?_,
    fun hturn => ?_, fun hturn => ?_, fun hturn => ?_⟩
  · rw [hf]
    simp [Mach.handOver, hc]
  · rw [hf]
    simp [Mach.handOver, hc]
  · rw [hf]
    rfl
  · obtain ⟨bytes, marks, hn⟩ :=
      s.wr_hostAddr (s.slotAddr j (s.journal j).consumed) true (bytesAt_ne_nil d 0 (by decide : 0 < 64))
    refine ⟨_, _, ?_, ?_, ?_, guarded_next (hwf true) (by simp only [entryFetch]; exact if_neg (not_not_intro hturn))⟩
    · simp [Mach.hostStored, hn]
      rfl
    · rfl
    · simp [Mach.hostStored, hn]
      rfl
  · exact guarded_next (by simp [Instr.wf, okJournal, hj, HostRead.sized])
      (by simp only [entryFetch]; exact if_neg (not_not_intro hturn))
  · exact guarded_next (hwf false) (by simp only [entryFetch]; exact if_pos hturn)

/-- Settles O20: a status line that is due is written, a held command handed over, a WAIT ended at its TIMEOUT. -/
theorem statusFenceAndTimeout : Obligations.StatusFenceAndTimeout := by
  refine ⟨fun s j hj hdue hlink => ?_, fun s j c hj hheld hidle hon => ?_, fun s id a hid ha hop hto => ?_⟩
  · exact guarded_next (by simp [Instr.wf, okJournal, hj]) (by simp [statusLineWrite, hdue, hlink]; rfl)
  · exact guarded_next (by simp [Instr.wf, okJournal, hj]) (by simp [fenceRelease, hheld, hidle, hon])
  · exact guarded_next hid (by simp [waitTimeout, ha, hop, hto])

/-! ### Rings -/

/-- Settles O21: the oldest record is written or waits, the consumer line is taken, the vector is signalled. -/
theorem ringsTakeRecords : Obligations.RingsTakeRecords := by
  intro s r hr
  refine ⟨fun x hx hon hlink => ?_, fun d m hd hm => ?_, fun huns hns hmsix => ?_⟩
  · intro m
    have hgo : exec (.completionRecord r) s = .next (s.after (if m.ringFull r then m.stallAll r
        else ({ m with ready := s.ready.filter fun y => decide (y ≠ x) } : Mach).writeRec r x)) :=
      guarded_next (by simp [Instr.wf, okRing, hr]) (by
        simp only [completionRecord, hx, hon, hlink, Bool.not_true, Bool.false_eq_true, if_false]
        split <;> rfl)
    refine ⟨fun hroom => hgo.trans ?_, fun hfull => hgo.trans ?_⟩
    · rw [if_neg (by simp only [Mach.ringFull, decide_eq_true_eq]; omega)]
    · rw [if_pos (by simp only [Mach.ringFull, decide_eq_true_eq]; omega)]
      rfl
  · have hwf : (Instr.consumerLineUpdate r (.ok d false)).wf = true := by
      simp [Instr.wf, okRing, hr, HostRead.sized, hd]
    obtain ⟨bytes, marks, h⟩ :=
      s.wr_hostAddr (s.obj O.C_CONSUMER r) false (bytesAt_ne_nil d 0 (by decide : 0 < 64))
    rw [h] at hm
    have hon : m.ringOn r = s.ringOn r := by rw [hm]; rfl
    have hlink : m.linkUp = s.linkUp := by rw [hm]; rfl
    have hring : m.ringOf r = s.ringOf r := by rw [hm]; rfl
    refine ⟨fun h1 h2 => guarded_next hwf ?_, fun h12 => guarded_next hwf ?_⟩
    · simp only [consumerLineUpdate, Mach.hostStored, h, ← hm, hon, hlink, h1, h2]
      rw [← hring]
      rfl
    · simp only [consumerLineUpdate, Mach.hostStored, h, ← hm, hon, hlink]
      rcases h12 with h1 | h2
      · simp [h1]
      · simp [h2]
  · exact guarded_next (by simp [Instr.wf, okRing, hr]) (by simp [msixModerationTimeout, huns, hns, hmsix])

end Sys2Proof.Machine

/-! PROOF. The arrival of a request that is alone in its slot (R319, R327): what taking it leaves of the module, and where
it then waits. -/

namespace Sys2Proof.Machine

open Sys2Proof

/-! ### The objects but for the counts of frames -/

/-- Two modules hold the same objects but for the counts of frames received and sent. -/
def SameObjects (m n : Mach) : Prop :=
  ∀ k, k ≠ oKey O.FLD_RX 0 → k ≠ oKey O.FLD_TX 0 → mget m.dict k = mget n.dict k

theorem SameObjects.of_dict {m n : Mach} (h : m.dict = n.dict) : SameObjects m n := fun _ _ _ => by rw [h]

theorem SameObjects.trans {l m n : Mach} (h₁ : SameObjects l m) (h₂ : SameObjects m n) : SameObjects l n :=
  fun k hr ht => (h₁ k hr ht).trans (h₂ k hr ht)

theorem le_oKey (o i : Nat) : o ≤ oKey o i := by
  simp only [oKey]
  split <;> omega

theorem SameObjects.obj {m n : Mach} (h : SameObjects m n) {o i : Nat} (hr : oKey o i ≠ oKey O.FLD_RX 0)
    (ht : oKey o i ≠ oKey O.FLD_TX 0) : m.obj o i = n.obj o i := by
  simp only [Mach.obj, Mach.objAt, Nat.div_add_mod', h _ hr ht]

/-- The objects of the classes above the field network's. -/
theorem SameObjects.obj_above {m n : Mach} (h : SameObjects m n) {o : Nat} (i : Nat) (ho : O.FLD_TX < o) :
    m.obj o i = n.obj o i := by
  have hrx : oKey O.FLD_RX 0 ≤ O.FLD_TX := by decide
  have htx : oKey O.FLD_TX 0 ≤ O.FLD_TX := by decide
  have hle := le_oKey o i
  exact h.obj (by omega) (by omega)

/-- A counter that was raised does not hold its default. -/
theorem Mach.bump_mset (m : Mach) {o i : Nat} {r : ObjRow} (hr : objRow (oKey o i / 256) (oKey o i % 256) = some r)
    (hd : r.default = 0) (hs : 0 < r.size) : ∃ v, m.bump o i 1 = { m with dict := mset m.dict (oKey o i) v } := by
  have hpow : 1 < 2 ^ (8 * r.size) := Nat.one_lt_two_pow (by omega)
  refine ⟨min (m.obj o i + 1) (2 ^ (8 * r.size) - 1), ?_⟩
  simp only [Mach.bump, Mach.setObj, Mach.setObjAt, hr, Option.map_some, Option.getD_some, hd, Nat.div_add_mod']
  rw [if_neg (by omega)]

theorem SameObjects.of_mset {m n : Mach} {k v : Nat} (hk : k = oKey O.FLD_RX 0 ∨ k = oKey O.FLD_TX 0)
    (h : m.dict = mset n.dict k v) : SameObjects m n := fun x hr ht => by
  rw [h, mget_mset_other]
  rcases hk with rfl | rfl <;> assumption

/-- A frame that is received is counted, and its source is a neighbour. -/
theorem Mach.countRx_eq (m : Mach) (src : Nat) : ∃ near asks v rx, m.countRx src =
    { m with neighbours := near, soliciting := asks, plinth := { m.plinth with rxInSecond := rx },
             dict := mset m.dict (oKey O.FLD_RX 0) v } := by
  obtain ⟨v, hv⟩ := Mach.bump_mset ((m.learn src).setPlinth { m.plinth with rxInSecond := m.plinth.rxInSecond ++ [m.now] })
    (o := O.FLD_RX) (i := 0) (r := ⟨7, .u64, .ro, .either, 8, 0, false⟩) (by decide) rfl (by decide)
  exact ⟨_, _, v, _, hv⟩

/-- A request that has been taken leaves the rest of the module as it was. -/
theorem State.asked_eq (s : State) (p : Path) (op index sub : Nat) (v : Bytes) :
    ∃ boxes near asks rx dict, s.asked p op index sub v =
      { s.toMach with mailboxes := boxes, neighbours := near, soliciting := asks,
                      plinth := { s.plinth with rxInSecond := rx }, dict := dict } ∧
      SameObjects { s.toMach with dict := dict } s.toMach := by
  cases p with
  | pf0 => exact ⟨_, _, _, _, _, rfl, .of_dict rfl⟩
  | vf n => exact ⟨_, _, _, _, _, rfl, .of_dict rfl⟩
  | umpor src port token =>
    obtain ⟨near, asks, n, rx, h⟩ := s.toMach.countRx_eq src
    exact ⟨_, near, asks, rx, _, h, .of_mset (.inl rfl) rfl⟩

theorem State.asked_objects (s : State) (p : Path) (op index sub : Nat) (v : Bytes) :
    SameObjects (s.asked p op index sub v) s.toMach := by
  obtain ⟨_, _, _, _, _, h, hd⟩ := s.asked_eq p op index sub v
  rw [h]
  exact hd

/-! ### What the checks of a request read -/

section
variable {m n : Mach} (h : SameObjects m n) (hparts : m.parts = n.parts) (hjournals : m.journals = n.journals)
  (hpair : m.pair = n.pair) (hstate : m.modState = n.modState) (hstart : m.start = n.start)

include h hparts in
theorem SameObjects.visible (p : Path) (index : Nat) : m.visible p index = n.visible p index := by
  have hpart : ∀ i, m.part i = n.part i := fun i => by simp only [Mach.part, hparts]
  simp only [Mach.visible, hpart, h.obj_above _ (by decide : O.FLD_TX < O.J_PARTITION),
    h.obj_above _ (by decide : O.FLD_TX < O.C_PARTITION), h.obj_above _ (by decide : O.FLD_TX < O.PS_PARTITION)]

include h hjournals hpair in
theorem SameObjects.locked (o i : Nat) : m.locked o i = n.locked o i := by
  have hjournal : ∀ i, m.journal i = n.journal i := fun i => by simp only [Mach.journal, hjournals]
  have hdis : m.journalsDisabled i = n.journalsDisabled i := by
    simp only [Mach.journalsDisabled, hjournal, h.obj_above _ (by decide : O.FLD_TX < O.J_PARTITION)]
  simp only [Mach.locked, hdis, hjournal, hpair,
    h.obj (by decide : oKey O.FLD_ENABLE 0 ≠ oKey O.FLD_RX 0) (by decide : oKey O.FLD_ENABLE 0 ≠ oKey O.FLD_TX 0),
    h.obj_above _ (by decide : O.FLD_TX < O.SCALE_ENABLE), h.obj_above _ (by decide : O.FLD_TX < O.PLACE_ENABLE),
    h.obj_above _ (by decide : O.FLD_TX < O.C_ENABLE), h.obj_above _ (by decide : O.FLD_TX < O.HDM_ENABLE),
    h.obj_above _ (by decide : O.FLD_TX < O.BOUNCE_ENABLE), h.obj_above _ (by decide : O.FLD_TX < O.TRACE_ENABLE)]

include h hparts hjournals hpair hstate hstart in
theorem SameObjects.writeCheck (p : Path) (index sub : Nat) (v : Bytes) :
    m.writeCheck p index sub v = n.writeCheck p index sub v := by
  have howner : ∀ o i r, m.ownerOk p o i r = n.ownerOk p o i r := fun o i r => by
    simp only [Mach.ownerOk, Mach.part, hparts]
  have hserves : m.serves index = n.serves index := by
    simp only [Mach.serves, Mach.firmwareRuns, hstate, hstart]
  simp only [Mach.writeCheck, howner, hserves, h.locked hjournals hpair]

end

/-- What taking a request leaves of the module, as its checks and its slot read it. -/
theorem State.asked_checks (s : State) (p : Path) (op index sub : Nat) (v : Bytes) :
    let m := s.asked p op index sub v
    m.now = s.now ∧ m.slotWrites = s.slotWrites ∧ m.slotReads = s.slotReads ∧ m.umpor = s.umpor ∧
      (∀ x, m.visible p x = s.visible p x) ∧ (∀ x, m.serves x = s.serves x) ∧
      ∀ x y w, m.writeCheck p x y w = s.writeCheck p x y w := by
  intro m
  have h : SameObjects m s.toMach := s.asked_objects p op index sub v
  obtain ⟨_, _, _, _, _, hm, _⟩ := s.asked_eq p op index sub v
  have hm' : m = _ := hm
  refine ⟨by rw [hm'], by rw [hm'], by rw [hm'], by rw [hm'], h.visible (by rw [hm']) p, fun x => ?_,
    h.writeCheck (by rw [hm']) (by rw [hm']) (by rw [hm']) (by rw [hm']) (by rw [hm']) p⟩
  rw [hm']
  rfl

/-! ### The request as it arrives -/

/-- The fields of a request, and its form, on each path. -/
theorem submit_fields {s : State} {p : Path} (h : s.alone p) {op index sub : Nat} {v : Bytes} (f : Option FwFetch)
    (hop : op < 256) (hi : index < 65536) (hs : sub < 256) (hv : v.length ≤ 1024) :
    ∃ b, s.submit p (requestBytes op index sub v) f = (s.asked p op index sub v).arrive p b f ∧
      fld b 0 1 = op ∧ fld b 1 1 = sub ∧ fld b 2 2 = index ∧ fld b 4 2 = v.length ∧ fld b 6 2 = 0 ∧
      bytesAt b 8 v.length = v ∧ (p.isMgmt = true → b.length = v.length + 8) := by
  obtain ⟨b, hhost, hmgmt, hb⟩ := submit_alone h op index sub v f
  obtain ⟨h0, h1, h2, h4, h6, h8⟩ := request_fields op index sub v hop hi hs hv
  cases hp : p.isMgmt with
  | false =>
    rw [← hhost hp] at h0 h1 h2 h4 h6 h8
    exact ⟨b, hb, h0, h1, h2, h4, h6, h8, by simp⟩
  | true =>
    have hraw : ∀ o n, o + n ≤ 1280 → bytesAt b o n = bytesAt (bytesAt (requestBytes op index sub v) 0 1280) o n :=
      fun o n hon => by rw [hmgmt hp, bytesAt_bytesAt _ hon]
    refine ⟨b, hb, ?_, ?_, ?_, ?_, ?_, ?_, fun _ => by rw [hmgmt hp]; simp [requestBytes]; omega⟩
    · rw [fld, hraw _ _ (by omega)]; exact h0
    · rw [fld, hraw _ _ (by omega)]; exact h1
    · rw [fld, hraw _ _ (by omega)]; exact h2
    · rw [fld, hraw _ _ (by omega)]; exact h4
    · rw [fld, hraw _ _ (by omega)]; exact h6
    · rw [hraw _ _ (by omega)]; exact h8

/-- A READ or DESCRIBE that passes checks 1 to 3 waits for the end of its slot. -/
theorem submit_read {s : State} {p : Path} (h : s.alone p) {op index sub : Nat} (hop : op = 1 ∨ op = 3)
    (hi : index < 65536) (hs : sub < 256) (hvis : s.visible p index = true) (hrow : (rowAt index sub).isSome = true)
    (hserve : s.serves index = true) :
    s.submit p (requestBytes op index sub []) none =
      { s.asked p op index sub [] with slotReads := [⟨s.now, p, op, index, sub, 0⟩] } := by
  obtain ⟨b, hb, h0, h1, h2, h4, h6, -, hlen⟩ :=
    submit_fields h (op := op) none (by omega) hi hs (by simp : ([] : Bytes).length ≤ 1024)
  obtain ⟨hnow, -, hreads, -, hv, hsv, -⟩ := s.asked_checks p op index sub []
  obtain ⟨-, -, -, hempty⟩ := h
  have hform : requestFormOk p b = true := by
    rcases hop with rfl | rfl <;> cases hp : p.isMgmt <;> simp_all [requestFormOk]
  have hne : op ≠ 2 := by omega
  have hnone : (rowAt index sub).isNone = false := by rw [← Option.not_isSome, hrow]; rfl
  rw [hb]
  simp [Mach.arrive, hform, h0, h1, h2, hv, hvis, hnone, hne, hsv, hserve, hnow, hreads, hempty]

/-- A WRITE that passes checks 1 to 3 waits for the end of its slot, as one that takes effect or as one that is
refused. -/
theorem submit_write {s : State} {p : Path} (h : s.alone p) {index sub : Nat} {v : Bytes} (f : Option FwFetch)
    (hi : index < 65536) (hs : sub < 256) (hlo : 1 ≤ v.length) (hhi : v.length ≤ 1024)
    (hvis : s.visible p index = true) (hrow : (rowAt index sub).isSome = true) :
    s.submit p (requestBytes 2 index sub v) f =
      if s.writeCheck p index sub v = 0 then
        { s.asked p 2 index sub v with slotWrites := [⟨s.now, p, index, sub, leNat v, f⟩] }
      else
        { s.asked p 2 index sub v with slotReads := [⟨s.now, p, 2, index, sub, s.writeCheck p index sub v⟩] } := by
  obtain ⟨b, hb, h0, h1, h2, h4, h6, h8, hlen⟩ := submit_fields h (op := 2) f (by omega) hi hs hhi
  obtain ⟨hnow, hwrites, hreads, -, hv, -, hcheck⟩ := s.asked_checks p 2 index sub v
  obtain ⟨-, -, hw, hr⟩ := h
  have hform : requestFormOk p b = true := by
    cases hp : p.isMgmt <;> simp_all [requestFormOk]
  have hnone : (rowAt index sub).isNone = false := by rw [← Option.not_isSome, hrow]; rfl
  rw [hb]
  simp only [Mach.arrive, hform, h0, h1, h2, h4, h8, hv, hvis, hnone, hcheck, hnow, hwrites, hw,
    hreads, hr, Bool.not_true, Bool.false_eq_true, if_false, ne_eq, not_true_eq_false, List.nil_append]
  cases hc : s.writeCheck p index sub v with
  | zero => simp
  | succ r => simp

end Sys2Proof.Machine

/-! PROOF. Reads, writes and the end of a slot (R319 to R325): a request alone in its slot is answered with what its object
then holds, and registers are read and written at once. -/

namespace Sys2Proof.Machine

open Sys2Proof

/-! ### Registers -/

theorem dictRead_reg {m : Mach} {p : Path} {bar off len : Nat} (h : m.hostReaches = true) :
    dictRead p (.reg bar off len) m =
      .next { (m.regReads p bar (len / 4) off).2 with returned := ((m.regReads p bar (len / 4) off).1, false) } := by
  simp [dictRead, h]

/-- Settles O22: the request waits in its slot; the registers are read in the order of their offsets. -/
theorem readsArrive : Obligations.ReadsArrive := by
  refine ⟨fun s p index sub halone hi hs hvis hrow hserve => ⟨?_, ?_⟩,
    fun s p bar off hp hreach => ⟨fun hok => ?_, fun x y hx hy hok => ?_⟩⟩
  · exact guarded_next (by simp [Instr.wf, Target.ok, fits, halone.1, hi, hs])
      (congrArg Host.Outcome.next (submit_read halone (.inl rfl) hi hs hvis hrow hserve))
  · exact guarded_next (by simp [Instr.wf, fits, halone.1, hi, hs])
      (congrArg Host.Outcome.next (submit_read halone (.inr rfl) hi hs hvis hrow hserve))
  · refine guarded_next (by simp [Instr.wf, hp, hok]) ((dictRead_reg hreach).trans ?_)
    simp [Mach.regReads]
  · refine guarded_next (by simp [Instr.wf, hp, hok]) ((dictRead_reg hreach).trans ?_)
    simp [Mach.regReads, hx, hy]

theorem fld_drop (b : Bytes) (k o n : Nat) : fld (b.drop k) o n = fld b (k + o) n := by
  simp [fld, bytesAt, List.getD_eq_getElem?_getD, Nat.add_assoc]

theorem fld_all {b : Bytes} {n : Nat} (h : b.length = n) : fld b 0 n = leNat b := by
  rw [fld, ← h, bytesAt_all]

/-- Settles O23: the request waits in its slot; the registers are written in the order of their offsets. -/
theorem writesArrive : Obligations.WritesArrive := by
  refine ⟨fun s p index sub v halone hi hs hlo hhi hvis hrow => ⟨fun hc => ?_, fun hc => ?_⟩,
    fun s p off v hp hreach => ⟨fun hok hlen => ?_, fun m hm hok hlen => ?_⟩, fun s off v hreach hok hoff => ?_⟩
  · refine guarded_next (by simp [Instr.wf, Target.ok, writeOk, fits, halone.1, hi, hs]; omega)
      (congrArg Host.Outcome.next ((submit_write halone none hi hs hlo hhi hvis hrow).trans (if_pos hc)))
  · refine guarded_next (by simp [Instr.wf, Target.ok, writeOk, fits, halone.1, hi, hs]; omega)
      (congrArg Host.Outcome.next ((submit_write halone none hi hs hlo hhi hvis hrow).trans (if_neg hc)))
  · refine guarded_next (by simp [Instr.wf, writeOk, hp, hok, hlen]) ?_
    simp [dictWrite, hreach, Mach.regWrites, fld_all hlen]
  · have hne : off + 4 ≠ 0x1000 := by
      simp only [Target.ok, Bool.and_eq_true, beq_iff_eq] at hok
      omega
    refine guarded_next (by simp [Instr.wf, writeOk, hp, hok, hlen]) ?_
    simp [dictWrite, hreach, Mach.regWrites, hne, fld_drop, ← hm]
  · refine guarded_next (by simp [Instr.wf, writeOk, Path.ok, hok]) ?_
    simp [dictWrite, hreach, writeWindowReg, hoff]

/-! ### A slot with one request -/

/-- The end of the slot of a request that is alone in it. -/
theorem Mach.endSlot_alone {m : Mach} {t : Nat} {f : Option FwFetch}
    (ht : m.slotWrites.map (·.at_) ++ m.slotReads.map (·.at_) = [t]) (hq : m.umpor = [] ∨ m.mgmtInSlot = true) :
    m.endSlot f = (m.upTo (slotStart t + 10)).closeSlot := by
  have hadmit : m.admitRequest f = m := by
    rcases hq with hq | hq <;> simp [Mach.admitRequest, hq]
  simp [Mach.endSlot, hadmit, Mach.openSlot, ht]

theorem Mach.closeSlot_read {m : Mach} {r : SlotRead} (hw : m.slotWrites = []) (hr : m.slotReads = [r]) :
    m.closeSlot = let n := { m with slotReads := [] }; n.deliver r.path r.reason (n.readAnswer r) := by
  simp only [Mach.closeSlot, hw, hr]
  simp only [sortBy, List.foldr_nil, groupWrites, List.foldl_nil, List.foldl_cons]

/-- The writes of a slot with one of them take effect as the one does. -/
theorem Mach.applyGroup_live {m : Mach} {w : SlotWrite} {row : ObjRow} (hrow : rowAt w.index w.sub = some row)
    (hlive : row.access = .wo → row.type = .bool → w.value ≠ 0) :
    m.applyGroup [w] =
      let x := (if w.stopsField then m.answerFirst w else m).applyWrite w
      (x.1, if w.stopsField then [] else [(w, x.2)]) := by
  have harb : arbitrate [w] = ([w], [], []) := by
    have htrig : (row.access == .wo && row.type == .bool && w.value == 0) = false := by
      by_cases h1 : row.access = .wo <;> by_cases h2 : row.type = .bool <;> simp_all
    simp only [arbitrate, hrow, List.filter_cons, htrig]
    simp
  cases hs : w.stopsField <;> by_cases hp : w.key ∈ perPath <;>
    simp [Mach.applyGroup, harb, hs, hp]

/-- A write of 0 to a trigger does nothing. -/
theorem Mach.applyGroup_idle {m : Mach} {w : SlotWrite} {row : ObjRow} (hrow : rowAt w.index w.sub = some row)
    (hwo : row.access = .wo) (hbool : row.type = .bool) (hv : w.value = 0) :
    m.applyGroup [w] = (m, [(w, some .ok)]) := by
  simp [Mach.applyGroup, arbitrate, hrow, hwo, hbool, hv]

/-- An answer that is given at the end of a slot, where it is not owed. -/
def Mach.giveAnswer (m : Mach) (a : Answered) : Mach :=
  match a.2 with
  | some v => m.deliver a.1.path v.reason (m.writeAnswer a.1 v)
  | none => m

theorem Mach.closeSlot_write {m : Mach} {w : SlotWrite} (hw : m.slotWrites = [w]) (hr : m.slotReads = []) :
    m.closeSlot =
      let n := { (m.applyGroup [w]).1 with slotWrites := [], slotReads := [] }
      (m.applyGroup [w]).2.foldl Mach.giveAnswer n := by
  simp only [Mach.closeSlot, hw, hr]
  simp only [sortBy, insertBy, groupWrites, List.foldr_cons, List.foldr_nil, List.foldl_cons, List.foldl_nil,
    List.nil_append]
  rfl

/-- Settles O24: a slot with one request ends with its answer. -/
theorem slotsEnd : Obligations.SlotsEnd := by
  intro s hup hq
  have hend : ∀ {m'}, s.toMach.endSlot none = m' → exec .arbitrationSlotEnd s = .next (s.after m') := fun h =>
    guarded_next (i := .arbitrationSlotEnd) rfl (by simp [arbitrationSlotEnd, hup, h])
  refine ⟨fun r hw hr => ?_, fun w row hw hr hhost hrow hlive => ?_⟩
  · intro m
    refine hend ((Mach.endSlot_alone (t := r.at_) (by simp [hw, hr]) (.inl hq)).trans ?_)
    exact Mach.closeSlot_read hw hr
  · intro x n
    have hstop : w.stopsField = false := by simp [SlotWrite.stopsField, hhost]
    have hclose : s.toMach.endSlot none = _ :=
      (Mach.endSlot_alone (t := w.at_) (by simp [hw, hr]) (.inl hq)).trans (Mach.closeSlot_write hw hr)
    rw [Mach.applyGroup_live hrow hlive, hstop] at hclose
    refine ⟨fun v hv => hend (hclose.trans ?_), fun hv => hend (hclose.trans ?_)⟩
    · have hv' : ((s.upTo (slotStart w.at_ + 10)).applyWrite w).2 = some v := hv
      simp [hv', Mach.giveAnswer, n, x]
    · have hv' : ((s.upTo (slotStart w.at_ + 10)).applyWrite w).2 = none := hv
      simp [hv', Mach.giveAnswer, n, x]

end Sys2Proof.Machine

/-! PROOF. Rows of their own (R319 to R325): the write of an object with a row of its own arrives alone in its slot, and
the slot ends. -/

namespace Sys2Proof.Machine

open Sys2Proof

/-! ### The write a row stands for -/

/-- The objects of rows of their own, by how many instances they have. -/
def partObjects : List Nat :=
  [O.SCALE_ENABLE, O.PLACE_ENABLE, O.PLACE_COMMIT, O.BOUNCE_ENABLE, O.P_RESET, O.UPD_RESET, O.ATTEST, O.DIE_RETIRED]
def ringObjects : List Nat := [O.J_ENABLE, O.C_ENABLE]
def singleObjects : List Nat :=
  [O.SCRUB_ENABLE, O.FLD_ENABLE, O.HDM_ENABLE, O.PS_ENABLE, O.TRACE_ENABLE, O.TRACE_RESET, O.PS_RESET, O.FLD_RESET,
    O.PT_CREATE, O.PT_DELETE, O.FW_LOAD, O.FENCE_TILE, O.CLEAR_PRIOR, O.CLEAR_COUNTS, O.NUM_SUMMARY, O.TR_FIRE,
    O.TR_FINISH, O.TR_RESTART, O.STANDBY, O.RULES, O.RULE_FIRED]

/-- An instance of an object of a row of its own, named by the key it has in the dictionary. -/
def OwnObject (o i : Nat) : Prop :=
  (o ∈ partObjects ∧ i < 16) ∨ (o ∈ ringObjects ∧ i < 64) ∨ (o ∈ singleObjects ∧ i = 0)

theorem OwnObject.named {o i : Nat} (h : OwnObject o i) :
    objectName (oKey o i / 256) (oKey o i % 256) = (o, i) ∧ oKey o i / 256 < 65536 := by
  rcases h with ⟨ho, hi⟩ | ⟨ho, hi⟩ | ⟨ho, rfl⟩
  · exact (by decide +kernel : ∀ o ∈ partObjects, ∀ i < 16,
      objectName (oKey o i / 256) (oKey o i % 256) = (o, i) ∧ oKey o i / 256 < 65536) o ho i hi
  · exact (by decide +kernel : ∀ o ∈ ringObjects, ∀ i < 64,
      objectName (oKey o i / 256) (oKey o i % 256) = (o, i) ∧ oKey o i / 256 < 65536) o ho i hi
  · exact (by decide +kernel : ∀ o ∈ singleObjects,
      objectName (oKey o 0 / 256) (oKey o 0 % 256) = (o, 0) ∧ oKey o 0 / 256 < 65536) o ho

/-- The object, the instance and the value of a row of its own are in range. -/
theorem asWrite_inRange {c : Instr} {p : Path} {o i : Nat} {v : Bytes} {f : Option FwFetch}
    (h : c.asWrite = some (p, o, i, v, f)) (hwf : c.wf = true) :
    OwnObject o i ∧ 1 ≤ v.length ∧ v.length ≤ 1024 ∧ (f = none ∨ o = O.FW_LOAD) := by
  cases c with
  | scaleEnable | placeEnable | placeCommit | bounceEnable | pReset | attest =>
    simp only [Instr.asWrite, Option.some.injEq, Prod.mk.injEq] at h
    obtain ⟨rfl, rfl, rfl, rfl, rfl⟩ := h
    simp only [Instr.wf, Bool.and_eq_true, decide_eq_true_eq] at hwf
    exact ⟨.inl ⟨by decide, hwf.1.2⟩, by simp, by simp, .inl rfl⟩
  | updReset | dieRetired =>
    simp only [Instr.asWrite, Option.some.injEq, Prod.mk.injEq] at h
    obtain ⟨rfl, rfl, rfl, rfl, rfl⟩ := h
    simp only [Instr.wf, okBay, Bool.and_eq_true, decide_eq_true_eq] at hwf
    exact ⟨.inl ⟨by decide, hwf.1.2⟩, by simp, by simp, .inl rfl⟩
  | jEnable | cEnable =>
    simp only [Instr.asWrite, Option.some.injEq, Prod.mk.injEq] at h
    obtain ⟨rfl, rfl, rfl, rfl, rfl⟩ := h
    simp only [Instr.wf, okJournal, okRing, Bool.and_eq_true, decide_eq_true_eq] at hwf
    exact ⟨.inr (.inl ⟨by decide, hwf.1.2⟩), by simp, by simp, .inl rfl⟩
  | scrubEnable | fldEnable | hdmEnable | psEnable | traceEnable | traceReset | psReset | fldReset | ptCreate | ptDelete
  | fenceTile | clearPrior | clearCounts | numSummary | trFire | trFinish | trRestart | standby | ruleFired =>
    simp only [Instr.asWrite, Option.some.injEq, Prod.mk.injEq] at h
    obtain ⟨rfl, rfl, rfl, rfl, rfl⟩ := h
    exact ⟨.inr (.inr ⟨by decide, rfl⟩), by simp, by simp, .inl rfl⟩
  | fwLoad =>
    simp only [Instr.asWrite, Option.some.injEq, Prod.mk.injEq] at h
    obtain ⟨rfl, rfl, rfl, rfl, rfl⟩ := h
    exact ⟨.inr (.inr ⟨by decide, rfl⟩), by simp, by simp, .inr rfl⟩
  | rules path value =>
    simp only [Instr.asWrite, Option.some.injEq, Prod.mk.injEq] at h
    obtain ⟨rfl, rfl, rfl, rfl, rfl⟩ := h
    simp only [Instr.wf, Bool.and_eq_true, beq_iff_eq] at hwf
    exact ⟨.inr (.inr ⟨by decide, rfl⟩), by omega, by omega, .inl rfl⟩
  | _ => cases h

theorem exec_asWrite {c : Instr} {p : Path} {o i : Nat} {v : Bytes} {f : Option FwFetch}
    (h : c.asWrite = some (p, o, i, v, f)) (s : State) : exec c s = guarded c (ownWrite p o i v f) s := by
  cases c <;> simp only [Instr.asWrite, Option.some.injEq, Prod.mk.injEq, reduceCtorEq] at h <;>
    obtain ⟨rfl, rfl, rfl, rfl, rfl⟩ := h <;> rfl

/-! ### What a firmware fetch meets (R436) -/

/-- The writes of the present slot replaced. -/
def Mach.withWrites (m : Mach) (ws : List SlotWrite) : Mach := { m with slotWrites := ws }

theorem foldl_withWrites {α : Type} {f : Mach → α → Mach} {ws : List SlotWrite}
    (hf : ∀ n a, f (n.withWrites ws) a = (f n a).withWrites ws) (l : List α) (m : Mach) :
    l.foldl f (m.withWrites ws) = (l.foldl f m).withWrites ws := by
  induction l generalizing m with
  | nil => rfl
  | cons a l ih => rw [List.foldl_cons, List.foldl_cons, hf, ih]

/-- The same module with another record of its start. -/
def Mach.withStart (m : Mach) (x : Start) : Mach := { m with start := x }

section
variable (m : Mach) (ws : List SlotWrite)

@[simp] theorem Mach.withWrites_now : (m.withWrites ws).now = m.now := rfl
@[simp] theorem Mach.withWrites_start : (m.withWrites ws).start = m.start := rfl
@[simp] theorem Mach.withWrites_obj (o i : Nat) : (m.withWrites ws).obj o i = m.obj o i := rfl
@[simp] theorem Mach.withWrites_objAt (x y : Nat) : (m.withWrites ws).objAt x y = m.objAt x y := rfl
@[simp] theorem Mach.withWrites_fieldOn : (m.withWrites ws).fieldOn = m.fieldOn := rfl
@[simp] theorem Mach.withWrites_slotByte (c k : Nat) : (m.withWrites ws).slotByte c k = m.slotByte c k := rfl
@[simp] theorem Mach.withWrites_slotOf (t : Nat) : (m.withWrites ws).slotOf t = m.slotOf t := rfl
@[simp] theorem Mach.withWrites_isHole (t : Nat) : (m.withWrites ws).isHole t = m.isHole t := rfl
@[simp] theorem Mach.withWrites_outOfService (b : Nat) : (m.withWrites ws).outOfService b = m.outOfService b := rfl
@[simp] theorem Mach.withWrites_linkUp : (m.withWrites ws).linkUp = m.linkUp := rfl
@[simp] theorem Mach.withWrites_free_fst : (m.withWrites ws).free.1 = m.free.1 := rfl
@[simp] theorem Mach.withWrites_free_snd : (m.withWrites ws).free.2 = m.free.2.withWrites ws := rfl
@[simp] theorem Mach.withWrites_withStart (x : Start) :
    (m.withWrites ws).withStart x = (m.withStart x).withWrites ws := rfl
@[simp] theorem Mach.withWrites_setObjAt (x y v : Nat) :
    (m.withWrites ws).setObjAt x y v = (m.setObjAt x y v).withWrites ws := rfl
@[simp] theorem Mach.withWrites_setObj (o i v : Nat) :
    (m.withWrites ws).setObj o i v = (m.setObj o i v).withWrites ws := rfl
@[simp] theorem Mach.withWrites_bump (o i n : Nat) :
    (m.withWrites ws).bump o i n = (m.bump o i n).withWrites ws := rfl
@[simp] theorem Mach.withWrites_setSlotByte (c k v : Nat) :
    (m.withWrites ws).setSlotByte c k v = (m.setSlotByte c k v).withWrites ws := rfl
@[simp] theorem Mach.withWrites_queueFrame (d p : Nat) (b : Bytes) :
    (m.withWrites ws).queueFrame d p b = (m.queueFrame d p b).withWrites ws := rfl
@[simp] theorem Mach.withWrites_setLink (a b c : Nat) :
    (m.withWrites ws).setLink a b c = (m.setLink a b c).withWrites ws := rfl

theorem Mach.withWrites_ite (p : Prop) [Decidable p] (x y : Mach) :
    (if p then x else y).withWrites ws = if p then x.withWrites ws else y.withWrites ws := by
  split <;> rfl

@[simp] theorem Mach.withWrites_addHole (t : Nat) : (m.withWrites ws).addHole t = (m.addHole t).withWrites ws := by
  have h : ∀ n : Mach, n.addHole t =
      let x := n.withStart { n.start with holes := sadd n.start.holes t }
      match x.slotOf t with
      | some s => if x.slotByte (t / 64) s = 7 then x else x.setSlotByte (t / 64) s 6
      | none => x := fun n => rfl
  simp only [h, Mach.withWrites_start, Mach.withWrites_withStart, Mach.withWrites_slotOf]
  cases (m.withStart { m.start with holes := sadd m.start.holes t }).slotOf t with
  | none => rfl
  | some s =>
    simp only [Mach.withWrites_slotByte, Mach.withWrites_setSlotByte, Mach.withWrites_ite]
    exact ite_congr rfl (fun _ => rfl) (fun _ => rfl)

/-- The tiles of a cluster become holes (R429). -/
def Mach.loseTiles (c : Nat) : Mach :=
  m.withStart { m.start with holes := (List.range 64).foldl (fun h t => sadd h (c * 64 + t)) m.start.holes }

theorem Mach.markCluster_eq (c : Nat) :
    m.markCluster c = ((List.range 68).foldl (fun s k => s.setSlotByte c k 7) m).loseTiles c := by
  unfold Mach.markCluster Mach.loseTiles Mach.withStart
  rfl

theorem Mach.withWrites_loseTiles (c : Nat) : (m.withWrites ws).loseTiles c = (m.loseTiles c).withWrites ws := rfl

@[simp] theorem Mach.withWrites_markCluster (c : Nat) :
    (m.withWrites ws).markCluster c = (m.markCluster c).withWrites ws := by
  rw [Mach.markCluster_eq, Mach.markCluster_eq,
    foldl_withWrites (fun n k => n.withWrites_setSlotByte ws c k 7), Mach.withWrites_loseTiles]

@[simp] theorem Mach.withWrites_dropMapped (cs bs : List Nat) :
    (m.withWrites ws).dropMapped cs bs = (m.dropMapped cs bs).withWrites ws := by
  have hparts : (m.withWrites ws).dropParts cs bs = (m.dropParts cs bs).withWrites ws :=
    foldl_withWrites (f := fun s b => s.setBay b { s.bay b with power := .failed, since := s.now }) (fun _ _ => rfl) bs
      (m.withStart { m.start with
        badClusters := cs.foldl sadd m.start.badClusters, badBays := bs.foldl sadd m.start.badBays })
  simp only [Mach.dropMapped, hparts]
  exact foldl_withWrites (fun n c => n.withWrites_markCluster ws c) _ _

/-- The report of a stage as it is stored and sent (R387). -/
def Mach.reportBytes (k result : Nat) (detail : Bytes) : Bytes :=
  leBytes 1 k ++ leBytes 1 result ++ zerosB 2 ++ leBytes 4 (min ((m.now - m.start.beganAt) / 1000) 0xFFFFFFFF) ++
    leBytes 8 m.now ++ bytesAt detail 0 16

/-- A BEACON is queued where the interface is on. -/
def Mach.beacon (f : Bytes) : Mach := if m.fieldOn then m.queueFrame allNodes (m.obj O.FLD_PORT 0) f else m

theorem Mach.stageReport_eq (k r : Nat) (d : Bytes) :
    m.stageReport k r d = (m.free.2.setObjAt 0x1401 (k + 1) (leNat (m.reportBytes k r d))).beacon
      (umporHeader 3 (m.free.1 % 65536) 48 ++
        leBytes 16 (m.free.2.setObjAt 0x1401 (k + 1) (leNat (m.reportBytes k r d))).start.fuses.serial ++
        m.reportBytes k r d) := by
  unfold Mach.stageReport Mach.beacon Mach.reportBytes
  rfl

theorem Mach.withWrites_reportBytes (k r : Nat) (d : Bytes) :
    (m.withWrites ws).reportBytes k r d = m.reportBytes k r d := by
  simp only [Mach.reportBytes, Mach.withWrites_now, Mach.withWrites_start]

theorem Mach.withWrites_beacon (f : Bytes) : (m.withWrites ws).beacon f = (m.beacon f).withWrites ws := by
  simp only [Mach.beacon, Mach.withWrites_fieldOn, Mach.withWrites_obj, Mach.withWrites_queueFrame, Mach.withWrites_ite]
  exact ite_congr rfl (fun _ => rfl) (fun _ => rfl)

@[simp] theorem Mach.withWrites_stageReport (k r : Nat) (d : Bytes) :
    (m.withWrites ws).stageReport k r d = (m.stageReport k r d).withWrites ws := by
  rw [Mach.stageReport_eq, Mach.stageReport_eq, Mach.withWrites_reportBytes, Mach.withWrites_free_fst,
    Mach.withWrites_free_snd, Mach.withWrites_setObjAt, Mach.withWrites_start, Mach.withWrites_beacon]

@[simp] theorem Mach.withWrites_endStage (k : Nat) (loss halt : Bool) (d : Bytes) :
    (m.withWrites ws).endStage k loss halt d = (m.endStage k loss halt d).withWrites ws := by
  have htrain : ∀ n : Mach, (n.withWrites ws).tryTrain = n.tryTrain.withWrites ws := fun n => by
    have hre : (n.withWrites ws).retrain = n.retrain.withWrites ws := n.withWrites_setLink ws _ _ _
    simp only [Mach.tryTrain, Mach.withWrites_obj, hre, Mach.withWrites_ite]
  have hbegin : ∀ n : Mach, (n.withWrites ws).beginStage (k + 1) = (n.beginStage (k + 1)).withWrites ws :=
    fun n => htrain ((n.withStart { n.start with stage := some (k + 1), beganAt := n.now }).setObj O.START_STAGE 0 (k + 1))
  have hhalt : ∀ n : Mach, (n.withWrites ws).haltStart = n.haltStart.withWrites ws := fun n =>
    (n.withStart { n.start with halted := true }).withWrites_setObj ws _ _ _
  simp only [Mach.endStage, Mach.withWrites_stageReport, hbegin, hhalt, Mach.withWrites_ite]

theorem Mach.recordRefusal_eq (waiting : Bool) (r : Nat) :
    m.recordRefusal waiting r =
      if waiting then
        (m.withStart { m.start with lastRefusal := r }).stageReport 8 1
          (m.withStart { m.start with lastRefusal := r }).s8Detail
      else
        (m.withStart { m.start with lastRefusal := r }).setObjAt 0x1401 9
          ((m.withStart { m.start with lastRefusal := r }).objAt 0x1401 9 -
            bits ((m.withStart { m.start with lastRefusal := r }).objAt 0x1401 9) 200 8 * 2 ^ 200 + r * 2 ^ 200) := by
  unfold Mach.recordRefusal Mach.withStart
  rfl

theorem Mach.withWrites_s8Detail : (m.withWrites ws).s8Detail = m.s8Detail := rfl

theorem Mach.withWrites_recordRefusal (waiting : Bool) (r : Nat) :
    (m.withWrites ws).recordRefusal waiting r = (m.recordRefusal waiting r).withWrites ws := by
  simp only [Mach.recordRefusal_eq, Mach.withWrites_start, Mach.withWrites_withStart, Mach.withWrites_stageReport,
    Mach.withWrites_s8Detail, Mach.withWrites_setObjAt, Mach.withWrites_objAt, Mach.withWrites_ite]

/-- A load that comes while S8 waits is counted (R436). -/
def Mach.countLoad : Mach :=
  if m.start.stage == some 8 && !m.start.halted then m.withStart { m.start with loads := m.start.loads + 1 } else m

theorem Mach.withWrites_countLoad : (m.withWrites ws).countLoad = m.countLoad.withWrites ws := by
  simp only [Mach.countLoad, Mach.withWrites_start, Mach.withWrites_withStart, Mach.withWrites_ite]
  exact ite_congr rfl (fun _ => rfl) (fun _ => rfl)

/-- The receivers that mismatch an image are lost, and S8 ends (R382, R436). -/
def Mach.takeImage (lost dead : List Nat) : Mach :=
  ((lost.foldl Mach.addHole m).dropMapped [] dead).endStage 8 (!lost.isEmpty || !dead.isEmpty)
    ((lost.foldl Mach.addHole m).dropMapped [] dead).allFailed ((lost.foldl Mach.addHole m).dropMapped [] dead).s8Detail

theorem Mach.withWrites_takeImage (lost dead : List Nat) :
    (m.withWrites ws).takeImage lost dead = (m.takeImage lost dead).withWrites ws := by
  have hfailed : ∀ n : Mach, (n.withWrites ws).allFailed = n.allFailed := fun n => rfl
  simp only [Mach.takeImage, foldl_withWrites (fun n t => n.withWrites_addHole ws t), Mach.withWrites_dropMapped,
    Mach.withWrites_endStage, Mach.withWrites_s8Detail, hfailed]

variable {m}

theorem Mach.loadFirmware_refused {f : FwFetch} {r : Nat} (h : m.countLoad.fwCheck f = .error r) :
    m.loadFirmware f =
      ((if r = rLINK then m.countLoad.bump O.LINK_FAILS 0 1 else m.countLoad).recordRefusal
        (m.start.stage == some 8 && !m.start.halted) r, r) := by
  unfold Mach.loadFirmware
  simp only [Mach.countLoad, Mach.withStart] at h ⊢
  rw [h]

theorem Mach.loadFirmware_taken {f : FwFetch} {b : Bytes} {tiles bays : List Nat}
    (h : m.countLoad.fwCheck f = .ok (b, tiles, bays)) :
    m.loadFirmware f =
      let n := m.countLoad.withStart { m.countLoad.start with fw := b.take (b.length - 3309) }
      (n.takeImage (tiles.filter fun t => !n.isHole t) (bays.filter n.inService), 0) := by
  unfold Mach.loadFirmware
  simp only [Mach.countLoad, Mach.withStart, Mach.takeImage] at h ⊢
  rw [h]

theorem Mach.withWrites_fwCheck (f : FwFetch) : (m.withWrites ws).fwCheck f = m.fwCheck f := by
  have himage : ∀ b, (m.withWrites ws).imageOk b = m.imageOk b := fun b => rfl
  simp only [Mach.fwCheck, Mach.withWrites_obj, Mach.withWrites_start, Mach.withWrites_linkUp, himage]

/-- A firmware load does not read the writes of its slot. -/
theorem Mach.withWrites_loadFirmware (f : FwFetch) :
    (m.withWrites ws).loadFirmware f = ((m.loadFirmware f).1.withWrites ws, (m.loadFirmware f).2) := by
  cases h : m.countLoad.fwCheck f with
  | error r =>
    have h' : (m.withWrites ws).countLoad.fwCheck f = .error r := by
      rw [Mach.withWrites_countLoad, Mach.withWrites_fwCheck, h]
    rw [Mach.loadFirmware_refused h, Mach.loadFirmware_refused h']
    simp only [Mach.withWrites_countLoad, Mach.withWrites_start, Mach.withWrites_bump, ← Mach.withWrites_ite,
      Mach.withWrites_recordRefusal]
  | ok x =>
    obtain ⟨b, tiles, bays⟩ := x
    have h' : (m.withWrites ws).countLoad.fwCheck f = .ok (b, tiles, bays) := by
      rw [Mach.withWrites_countLoad, Mach.withWrites_fwCheck, h]
    have hservice : ∀ n : Mach, (n.withWrites ws).inService = n.inService := fun n => rfl
    rw [Mach.loadFirmware_taken h, Mach.loadFirmware_taken h']
    simp only [Mach.withWrites_countLoad, Mach.withWrites_start, Mach.withWrites_withStart, Mach.withWrites_isHole,
      hservice, Mach.withWrites_takeImage]

end

end Sys2Proof.Machine

/-! PROOF. Rows of their own, served (R319 to R325): the slot of the write ends with what its object does and with its
answer. -/

namespace Sys2Proof.Machine

open Sys2Proof

/-- A path that takes a request lets a row of its own through. -/
theorem ownWrite_alone {s : State} {p : Path} (h : s.alone p) (o i : Nat) (v : Bytes) (f : Option FwFetch) :
    ownWrite p o i v f s.toMach =
      .next ((s.submit p (requestBytes 2 (oKey o i / 256) (oKey o i % 256) v) f).endSlot none) := by
  obtain ⟨-, hfree, -, -⟩ := h
  have hopen : (p.isMgmt && (!s.fieldUp || s.obj O.FLD_LINK 0 == 0) || !p.isMgmt && !s.hostReaches) = false := by
    cases p <;> simp_all [State.pathFree, Path.isMgmt]
  simp only [ownWrite, hopen]
  rfl

/-- The write of a row of its own, as it stands in its slot. -/
def State.fetched (s : State) (p : Path) (o i : Nat) (v : Bytes) (f : Option FwFetch) : SlotWrite :=
  { s.lone p o i v with fetch := f }

/-- The module at the end of the slot of a write, before the write takes effect. -/
def State.atSlotEnd (s : State) (p : Path) (o i : Nat) (v : Bytes) : Mach :=
  (s.asked p 2 (oKey o i / 256) (oKey o i % 256) v).upTo (slotStart s.now + 10)

theorem exec_own {s : State} {c : Instr} {p : Path} {o i : Nat} {v : Bytes} {f : Option FwFetch}
    (hc : c.asWrite = some (p, o, i, v, f)) (hwf : c.wf = true) (hacc : s.accepts p o i v)
    (hrow : (rowAt (oKey o i / 256) (oKey o i % 256)).isSome = true) :
    exec c s = .next (s.after ((s.atSlotEnd p o i v).withWrites [s.fetched p o i v f]).closeSlot) := by
  obtain ⟨halone, hvis, hcheck⟩ := hacc
  obtain ⟨hown, hlo, hhi, -⟩ := asWrite_inRange hc hwf
  have hsubmit := (submit_write halone f hown.named.2 (Nat.mod_lt _ (by decide)) hlo hhi hvis hrow).trans (if_pos hcheck)
  obtain ⟨-, -, hreads, hqueue, -⟩ := s.asked_checks p 2 (oKey o i / 256) (oKey o i % 256) v
  rw [exec_asWrite hc]
  refine guarded_next hwf ?_
  rw [ownWrite_alone halone, hsubmit]
  obtain ⟨-, hfree, -, hempty⟩ := halone
  refine congrArg Host.Outcome.next (Mach.endSlot_alone (t := s.now) (by simp [hreads, hempty]) ?_)
  cases p with
  | umpor src port token => exact .inr (by simp [Mach.mgmtInSlot, Path.isMgmt])
  | pf0 | vf n =>
    simp only [State.pathFree, Bool.and_eq_true, List.isEmpty_iff] at hfree
    exact .inl (hqueue.trans hfree.2)

theorem State.atSlotEnd_slotReads {s : State} {p : Path} {o i : Nat} {v : Bytes} (h : s.slotReads = []) :
    (s.atSlotEnd p o i v).slotReads = [] := by
  obtain ⟨-, -, hreads, -⟩ := s.asked_checks p 2 (oKey o i / 256) (oKey o i % 256) v
  exact hreads.trans h

theorem Mach.applyObj_fwLoad (m : Mach) (p : Path) (i v : Nat) (f : Option FwFetch) (w : Owed) :
    m.applyObj p O.FW_LOAD i v f w = plain (m.loadFirmware (m.fetchOf f)) := rfl

/-- The write takes effect as its object does, but for the writes of the slot, which end with it. -/
theorem own_effect {s : State} {c : Instr} {p : Path} {o i : Nat} {v : Bytes} {f : Option FwFetch}
    (hc : c.asWrite = some (p, o, i, v, f)) (hwf : c.wf = true) :
    let w := s.fetched p o i v f
    let m := (s.atSlotEnd p o i v).withWrites [w]
    let y := (if w.stopsField then m.answerFirst w else m).applyWrite w
    let x := (s.served p o i v).applyObj p o i (leNat v) f (s.owed p o i)
    y.2 = x.2 ∧ y.1.withWrites [] = x.1.withWrites [] := by
  obtain ⟨hown, -, -, hf⟩ := asWrite_inRange hc hwf
  intro w m y x
  have hy : y = (if w.stopsField then m.answerFirst w else m).applyObj p o i (leNat v) f (s.owed p o i) := by
    simp only [y, Mach.applyWrite, w, State.fetched, State.lone, hown.named.1]
    rfl
  rw [hy]
  cases f with
  | none => exact ⟨rfl, rfl⟩
  | some g =>
    obtain rfl : o = O.FW_LOAD := by simpa using hf
    have hkey : O.FLD_RESET < w.key := by
      have hle : O.FW_LOAD ≤ oKey O.FW_LOAD i := le_oKey _ _
      have hlt : O.FLD_RESET < O.FW_LOAD := by decide
      simp only [w, State.fetched, State.lone, SlotWrite.key, Nat.div_add_mod']
      omega
    have hstop : w.stopsField = false := by
      have h1 : O.FLD_ENABLE < O.FLD_RESET := by decide
      have h2 : w.key ≠ O.FLD_RESET := by omega
      have h3 : w.key ≠ O.FLD_ENABLE := by omega
      simp [SlotWrite.stopsField, h2, h3]
    have hstop' : (s.lone p O.FW_LOAD i v).stopsField = false := hstop
    have hx : x = plain (((s.atSlotEnd p O.FW_LOAD i v).withWrites [s.lone p O.FW_LOAD i v]).loadFirmware g) := by
      simp only [x, Mach.applyObj_fwLoad, State.served, hstop', Mach.fetchOf]
      rfl
    rw [hx, hstop]
    simp only [Mach.applyObj_fwLoad, Mach.fetchOf, Option.getD_some, m, Mach.withWrites_loadFirmware, plain,
      Bool.false_eq_true, if_false, true_and]
    rfl

/-- The slot with nothing in it. -/
def Mach.slotEmpty (m : Mach) : Mach := { m with slotWrites := [], slotReads := [] }

theorem Mach.slotEmpty_of_withWrites {m n : Mach} (h : m.withWrites [] = n.withWrites []) : m.slotEmpty = n.slotEmpty :=
  congrArg (fun m : Mach => { m with slotReads := [] }) h

/-- A write that is not one of 0 to a trigger. -/
abbrev Live (row : ObjRow) (v : Nat) : Prop := ¬ (row.access = .wo ∧ row.type = .bool ∧ v = 0)

/-- A slot with one write that takes effect ends with its answer, where it is not owed or given already. -/
theorem Mach.closeSlot_live {m : Mach} {w : SlotWrite} {row : ObjRow} (hw : m.slotWrites = [w]) (hr : m.slotReads = [])
    (hrow : rowAt w.index w.sub = some row) (hlive : Live row w.value) :
    let y := (if w.stopsField then m.answerFirst w else m).applyWrite w
    (∀ r, y.2 = some r → m.closeSlot =
      if w.stopsField then y.1.slotEmpty else y.1.slotEmpty.deliver w.path r.reason (y.1.slotEmpty.writeAnswer w r)) ∧
      (y.2 = none → m.closeSlot = y.1.slotEmpty) := by
  intro y
  have hgroup : m.applyGroup [w] = (y.1, if w.stopsField then [] else [(w, y.2)]) :=
    Mach.applyGroup_live hrow fun h1 h2 h3 => hlive ⟨h1, h2, h3⟩
  have hclose : m.closeSlot = (if w.stopsField then [] else [(w, y.2)]).foldl Mach.giveAnswer y.1.slotEmpty := by
    rw [Mach.closeSlot_write hw hr, hgroup]
    rfl
  rw [hclose]
  refine ⟨fun r hy => ?_, fun hy => ?_⟩ <;> rw [hy] <;> cases w.stopsField <;> rfl

section
variable {s : State} {c : Instr} {p : Path} {o i : Nat} {v : Bytes} {f : Option FwFetch} {row : ObjRow}
  (hc : c.asWrite = some (p, o, i, v, f)) (hwf : c.wf = true) (hacc : s.accepts p o i v)
  (hrow : rowAt (oKey o i / 256) (oKey o i % 256) = some row)
include hc hwf hacc hrow

/-- A row of its own does what its object does, and its slot ends with the answer. -/
theorem exec_own_live (hlive : Live row (leNat v)) :
    let x := (s.served p o i v).applyObj p o i (leNat v) f (s.owed p o i)
    (∀ r, x.2 = some r → exec c s = .next (s.answered x.1 p o i v r.reason r.check)) ∧
      (x.2 = none → exec c s = .next (s.owes x.1)) := by
  intro x
  obtain ⟨hans, hmach⟩ := own_effect (s := s) hc hwf
  obtain ⟨hgiven, howed⟩ := Mach.closeSlot_live (m := (s.atSlotEnd p o i v).withWrites [s.fetched p o i v f])
    (w := s.fetched p o i v f) rfl (State.atSlotEnd_slotReads hacc.1.2.2.2) hrow hlive
  rw [hans, Mach.slotEmpty_of_withWrites hmach] at hgiven howed
  rw [exec_own hc hwf hacc (by rw [hrow]; rfl)]
  exact ⟨fun r hr => congrArg _ (congrArg s.after (hgiven r hr)), fun hr => congrArg _ (congrArg s.after (howed hr))⟩

/-- A write of 0 to a trigger is answered OK and does nothing. -/
theorem exec_own_idle (hwo : row.access = .wo) (hbool : row.type = .bool) (hv : leNat v = 0) :
    exec c s = .next (s.wrote (s.served p o i v) p o i v) := by
  have hgroup := Mach.applyGroup_idle (m := (s.atSlotEnd p o i v).withWrites [s.fetched p o i v f])
    (w := s.fetched p o i v f) hrow hwo hbool hv
  have hkey : oKey o i ≠ O.FLD_ENABLE := fun h => by
    rw [h] at hrow
    exact absurd hwo ((by decide : ∀ r ∈ rowAt (O.FLD_ENABLE / 256) (O.FLD_ENABLE % 256), r.access ≠ .wo) row hrow)
  have hstop : (s.lone p o i v).stopsField = false := by
    simp [SlotWrite.stopsField, SlotWrite.key, State.lone, Nat.div_add_mod', hv, hkey]
  rw [exec_own hc hwf hacc (by rw [hrow]; rfl),
    Mach.closeSlot_write (m := (s.atSlotEnd p o i v).withWrites [s.fetched p o i v f]) (w := s.fetched p o i v f) rfl
      (State.atSlotEnd_slotReads hacc.1.2.2.2), hgroup]
  simp only [State.wrote, State.answered, State.served, hstop]
  rfl

end

/-- Settles O25: the slot of the write ends with what its object does. -/
theorem ownRowsAreServed : Obligations.OwnRowsAreServed := by
  intro s c p o i v f row hc hwf hacc hrow m x
  exact ⟨fun hwo hbool hv => exec_own_idle hc hwf hacc hrow hwo hbool hv,
    fun hlive => exec_own_live hc hwf hacc hrow hlive⟩

end Sys2Proof.Machine

/-! PROOF. What a module that serves a write still holds of the state before it: the slot, the mailboxes and the counts of
frames have moved, and nothing else. -/

namespace Sys2Proof.Machine

open Sys2Proof

/-- A frame sent at once leaves the rest of the module as it was. -/
theorem Mach.sendFrame_eq (m : Mach) (f : OutFrame) :
    ∃ sent cache dict, m.sendFrame f = { m with lastSent := sent, cache := cache, dict := dict } ∧
      SameObjects { m with dict := dict } m := by
  by_cases hp : f.port = 0
  · exact ⟨_, _, _, if_pos hp, .of_dict rfl⟩
  · obtain ⟨v, hv⟩ := Mach.bump_mset (m := { m with
      lastSent := some { f with payload := patch f.payload 8 (leBytes 8 m.now) }
      cache := m.cache.map fun (c : CachedAnswer) =>
        if c.src = f.dst ∧ fld (patch f.payload 8 (leBytes 8 m.now)) 3 1 = 2 ∧
            c.token = fld (patch f.payload 8 (leBytes 8 m.now)) 4 2 then { c with at_ := m.now } else c })
      (o := O.FLD_TX) (i := 0) (r := ⟨8, .u64, .ro, .either, 8, 0, false⟩) (by decide) rfl (by decide)
    exact ⟨_, _, _, (if_neg hp).trans hv, .of_mset (.inr rfl) rfl⟩

theorem Mach.answerFirst_eq (m : Mach) (w : SlotWrite) :
    ∃ sent cache dict, m.answerFirst w = { m with lastSent := sent, cache := cache, dict := dict } ∧
      SameObjects { m with dict := dict } m := by
  cases hp : w.path with
  | umpor src port token =>
    simp only [Mach.answerFirst, hp]
    exact m.sendFrame_eq _
  | pf0 | vf n =>
    simp only [Mach.answerFirst, hp]
    exact ⟨_, _, _, rfl, .of_dict rfl⟩

/-- The module that serves a write, and the state before it. -/
theorem State.served_eq (s : State) (p : Path) (o i : Nat) (v : Bytes) :
    ∃ now boxes near asks rx dict writes sent cache, s.served p o i v =
      { s.toMach with now := now, mailboxes := boxes, neighbours := near, soliciting := asks,
                      plinth := { s.plinth with rxInSecond := rx }, dict := dict, slotWrites := writes,
                      lastSent := sent, cache := cache } ∧
      SameObjects { s.toMach with dict := dict } s.toMach := by
  obtain ⟨boxes, near, asks, rx, dict, hasked, hsame⟩ := s.asked_eq p 2 (oKey o i / 256) (oKey o i % 256) v
  unfold State.served
  rw [hasked]
  dsimp only
  split
  · obtain ⟨sent, cache, dict', hfirst, hsame'⟩ := Mach.answerFirst_eq { Mach.upTo { s.toMach with
      mailboxes := boxes, neighbours := near, soliciting := asks, plinth := { s.plinth with rxInSecond := rx },
      dict := dict } (slotStart s.now + 10) with slotWrites := [s.lone p o i v] } (s.lone p o i v)
    exact ⟨_, _, _, _, _, _, _, _, _, hfirst, fun k hr ht => (hsame' k hr ht).trans (hsame k hr ht)⟩
  · exact ⟨_, _, _, _, _, _, _, _, _, rfl, hsame⟩

section
variable (s : State) (p : Path) (o i : Nat) (v : Bytes)

theorem State.served_objects : SameObjects (s.served p o i v) s.toMach := by
  obtain ⟨_, _, _, _, _, _, _, _, _, h, hsame⟩ := s.served_eq p o i v
  rw [h]
  exact hsame

theorem State.served_obj (x j : Nat) (hx : O.FLD_TX < x) : (s.served p o i v).obj x j = s.obj x j :=
  (s.served_objects p o i v).obj_above j hx

/-- What does not read the slot, the mailboxes, the field network or an object reads the same. -/
theorem State.served_frame {α : Type} (F : Mach → α) (hF : ∀ now boxes near asks rx dict writes sent cache,
    F { s.toMach with now := now, mailboxes := boxes, neighbours := near, soliciting := asks,
                      plinth := { s.plinth with rxInSecond := rx }, dict := dict, slotWrites := writes,
                      lastSent := sent, cache := cache } = F s.toMach) :
    F (s.served p o i v) = F s.toMach := by
  obtain ⟨_, _, _, _, _, _, _, _, _, h, -⟩ := s.served_eq p o i v
  rw [h, hF]

@[simp] theorem State.served_part (q : Nat) : (s.served p o i v).part q = s.part q :=
  s.served_frame p o i v (·.part q) fun _ _ _ _ _ _ _ _ _ => rfl
@[simp] theorem State.served_journal (j : Nat) : (s.served p o i v).journal j = s.journal j :=
  s.served_frame p o i v (·.journal j) fun _ _ _ _ _ _ _ _ _ => rfl
@[simp] theorem State.served_bay (b : Nat) : (s.served p o i v).bay b = s.bay b :=
  s.served_frame p o i v (·.bay b) fun _ _ _ _ _ _ _ _ _ => rfl
@[simp] theorem State.served_placed : (s.served p o i v).placed = s.placed :=
  s.served_frame p o i v (·.placed) fun _ _ _ _ _ _ _ _ _ => rfl
@[simp] theorem State.served_acts : (s.served p o i v).acts = s.acts :=
  s.served_frame p o i v (·.acts) fun _ _ _ _ _ _ _ _ _ => rfl
@[simp] theorem State.served_received : (s.served p o i v).received = s.received :=
  s.served_frame p o i v (·.received) fun _ _ _ _ _ _ _ _ _ => rfl
@[simp] theorem State.served_trace : (s.served p o i v).trace = s.trace :=
  s.served_frame p o i v (·.trace) fun _ _ _ _ _ _ _ _ _ => rfl
@[simp] theorem State.served_modState : (s.served p o i v).modState = s.modState :=
  s.served_frame p o i v (·.modState) fun _ _ _ _ _ _ _ _ _ => rfl
@[simp] theorem State.served_start : (s.served p o i v).start = s.start :=
  s.served_frame p o i v (·.start) fun _ _ _ _ _ _ _ _ _ => rfl
@[simp] theorem State.served_hdmCommitted : (s.served p o i v).hdmCommitted = s.hdmCommitted :=
  s.served_frame p o i v (·.hdmCommitted) fun _ _ _ _ _ _ _ _ _ => rfl
@[simp] theorem State.served_trngFailed : (s.served p o i v).trngFailed = s.trngFailed :=
  s.served_frame p o i v (·.trngFailed) fun _ _ _ _ _ _ _ _ _ => rfl
@[simp] theorem State.served_flagAt : (s.served p o i v).flagAt = s.flagAt :=
  s.served_frame p o i v (·.flagAt) fun _ _ _ _ _ _ _ _ _ => rfl
@[simp] theorem State.served_inFlight (j : Nat) : (s.served p o i v).inFlight j = s.inFlight j :=
  s.served_frame p o i v (·.inFlight j) fun _ _ _ _ _ _ _ _ _ => rfl
@[simp] theorem State.served_partRuns (q : Nat) (f : Cmd → Bool) : (s.served p o i v).partRuns q f = s.partRuns q f :=
  s.served_frame p o i v (·.partRuns q f) fun _ _ _ _ _ _ _ _ _ => rfl
@[simp] theorem State.served_insidePlaced (a n : Nat) : (s.served p o i v).insidePlaced a n = s.insidePlaced a n :=
  s.served_frame p o i v (·.insidePlaced a n) fun _ _ _ _ _ _ _ _ _ => rfl
@[simp] theorem State.served_bounceInUse (q : Nat) : (s.served p o i v).bounceInUse q = s.bounceInUse q :=
  s.served_frame p o i v (·.bounceInUse q) fun _ _ _ _ _ _ _ _ _ => rfl
@[simp] theorem State.served_viewBays (x : Path) : (s.served p o i v).viewBays x = s.viewBays x :=
  s.served_frame p o i v (·.viewBays x) fun _ _ _ _ _ _ _ _ _ => rfl
@[simp] theorem State.served_bayPart (b : Nat) : (s.served p o i v).bayPart b = s.bayPart b :=
  s.served_frame p o i v (·.bayPart b) fun _ _ _ _ _ _ _ _ _ => rfl
@[simp] theorem State.served_outOfService (b : Nat) : (s.served p o i v).outOfService b = s.outOfService b :=
  s.served_frame p o i v (·.outOfService b) fun _ _ _ _ _ _ _ _ _ => rfl
@[simp] theorem State.served_setSince (k t : Nat) : (s.served p o i v).setSince k t = s.setSince k t :=
  s.served_frame p o i v (·.setSince k t) fun _ _ _ _ _ _ _ _ _ => rfl
@[simp] theorem State.served_rdPoison (a n : Nat) : (s.served p o i v).rdPoison a n = s.rdPoison a n :=
  s.served_frame p o i v (·.rdPoison a n) fun _ _ _ _ _ _ _ _ _ => rfl
@[simp] theorem State.served_rd (a n : Nat) : (s.served p o i v).rd a n = s.rd a n :=
  s.served_frame p o i v (·.rd a n) fun _ _ _ _ _ _ _ _ _ => rfl
@[simp] theorem State.served_rdNat (a n : Nat) : (s.served p o i v).rdNat a n = s.rdNat a n :=
  s.served_frame p o i v (·.rdNat a n) fun _ _ _ _ _ _ _ _ _ => rfl

/-! ### What the checks of the ENABLE objects read -/

@[simp] theorem State.served_belongs (q a n : Nat) : (s.served p o i v).belongs q a n = s.belongs q a n := by
  simp (disch := decide) only [Mach.belongs, Mach.hostWindows, Mach.traceOn, State.served_part, State.served_obj]

@[simp] theorem State.served_tableIn (q a n : Nat) : (s.served p o i v).tableIn q a n = s.tableIn q a n := by
  simp only [Mach.tableIn, State.served_belongs]

@[simp] theorem State.served_tableFits (q a n : Nat) : (s.served p o i v).tableFits q a n = s.tableFits q a n := by
  simp (disch := decide) only [Mach.tableFits, Mach.inQuota, Mach.usage, Mach.tables, Mach.copyCount, quotaObj,
    State.served_insidePlaced, State.served_placed, State.served_part, State.served_obj]

@[simp] theorem State.served_linkUp : (s.served p o i v).linkUp = s.linkUp := by
  simp (disch := decide) only [Mach.linkUp, State.served_obj]

@[simp] theorem State.served_hostRanges (j r : Nat) : (s.served p o i v).hostRanges j r = s.hostRanges j r := by
  simp (disch := decide) only [Mach.hostRanges, State.served_journal, State.served_obj]

end

end Sys2Proof.Machine

/-! PROOF. The ENABLE objects (R69, R246, R283, R306, R334, R335, R348, R361, R377, R468): a check that passes gives the
object its value and begins its function; a write of 0 ends it. -/

namespace Sys2Proof.Machine

open Sys2Proof

/-! ### A row of its own whose object is known -/

theorem own_row {s : State} {p : Path} {o i : Nat} {v : Bytes} (h : s.accepts p o i v) :
    ∃ row, rowAt (oKey o i / 256) (oKey o i % 256) = some row := by
  obtain ⟨-, -, hcheck⟩ := h
  cases hrow : rowAt (oKey o i / 256) (oKey o i % 256) with
  | some row => exact ⟨row, rfl⟩
  | none =>
    simp [Mach.writeCheck, hrow] at hcheck
    exact absurd hcheck (by decide)

/-- The objects with rows of their own of which every value acts. -/
def valueObjects : List Nat :=
  enableObjects ++ [O.PLACE_COMMIT, O.DIE_RETIRED, O.FENCE_TILE, O.NUM_SUMMARY, O.RULE_FIRED, O.RULES, O.STANDBY]

/-- Such an object is no trigger. -/
theorem value_not_trigger {o i : Nat} (h : OwnObject o i) (he : o ∈ valueObjects) {row : ObjRow}
    (hrow : rowAt (oKey o i / 256) (oKey o i % 256) = some row) : ¬ (row.access = .wo ∧ row.type = .bool) := by
  rcases h with ⟨ho, hi⟩ | ⟨ho, hi⟩ | ⟨ho, rfl⟩
  · exact (by decide +kernel : ∀ o ∈ partObjects, o ∈ valueObjects → ∀ i < 16,
      ∀ r ∈ rowAt (oKey o i / 256) (oKey o i % 256), ¬ (r.access = .wo ∧ r.type = .bool)) o ho he i hi row hrow
  · exact (by decide +kernel : ∀ o ∈ ringObjects, o ∈ valueObjects → ∀ i < 64,
      ∀ r ∈ rowAt (oKey o i / 256) (oKey o i % 256), ¬ (r.access = .wo ∧ r.type = .bool)) o ho he i hi row hrow
  · exact (by decide +kernel : ∀ o ∈ singleObjects, o ∈ valueObjects →
      ∀ r ∈ rowAt (oKey o 0 / 256) (oKey o 0 % 256), ¬ (r.access = .wo ∧ r.type = .bool)) o ho he row hrow

/-- A value that is no write of 0 to a trigger. -/
abbrev Acts (o : Nat) (v : Bytes) : Prop := leNat v ≠ 0 ∨ o ∈ valueObjects

section
variable {s : State} {c : Instr} {p : Path} {o i : Nat} {v : Bytes} {f : Option FwFetch}
  (hc : c.asWrite = some (p, o, i, v, f)) (hwf : c.wf = true) (hacc : s.accepts p o i v) (hv : Acts o v)
include hc hwf hacc hv

theorem exec_own_acts :
    let x := (s.served p o i v).applyObj p o i (leNat v) f (s.owed p o i)
    (∀ r, x.2 = some r → exec c s = .next (s.answered x.1 p o i v r.reason r.check)) ∧
      (x.2 = none → exec c s = .next (s.owes x.1)) := by
  obtain ⟨row, hrow⟩ := own_row hacc
  refine exec_own_live hc hwf hacc hrow fun ⟨hwo, hbool, hzero⟩ => ?_
  rcases hv with hv | hv
  · exact hv hzero
  · exact value_not_trigger (asWrite_inRange hc hwf).1 hv hrow ⟨hwo, hbool⟩

/-- A write that its object accepts. -/
theorem exec_own_doing {g : Mach → Mach}
    (h : (s.served p o i v).applyObj p o i (leNat v) f (s.owed p o i) = accept (g (s.served p o i v))) :
    exec c s = .next (s.doing p o i v g) := by
  have hans := (exec_own_acts hc hwf hacc hv).1 .ok (by rw [h]; rfl)
  rw [hans, h]
  rfl

/-- A write that is answered with a reason. -/
theorem exec_own_answered {m : Mach} {r k : Nat}
    (h : (s.served p o i v).applyObj p o i (leNat v) f (s.owed p o i) = (m, some ⟨r, k⟩)) :
    exec c s = .next (s.answered m p o i v r k) := by
  have hans := (exec_own_acts hc hwf hacc hv).1 ⟨r, k⟩ (by rw [h])
  rw [hans, h]

/-- A write that its object refuses. -/
theorem exec_own_declined {r k : Nat}
    (h : (s.served p o i v).applyObj p o i (leNat v) f (s.owed p o i) = (s.served p o i v, some ⟨r, k⟩)) :
    exec c s = .next (s.declined p o i v r k) :=
  exec_own_answered hc hwf hacc hv h

/-- A write whose answer is owed until a check ends. -/
theorem exec_own_owing {m : Mach} (h : (s.served p o i v).applyObj p o i (leNat v) f (s.owed p o i) = (m, none)) :
    exec c s = .next (s.owes m) := by
  have howes := (exec_own_acts hc hwf hacc hv).2 (by rw [h])
  rw [howes, h]

end

/-! ### The values of a flag -/

theorem leNat_one : leNat (leBytes 1 1) = 1 := rfl
theorem leNat_zero : leNat (leBytes 1 0) = 0 := rfl
theorem acts_one (o : Nat) : Acts o (leBytes 1 1) := .inl (by decide)

/-- Settles O26: the scale table, the placement table and the patrol scrub, enabled and disabled. -/
theorem tablesAndScrubEnable : Obligations.TablesAndScrubEnable := by
  intro s p i hi
  refine ⟨fun a n ha hn hen hal hlo hhi hin hfit hact => ?_, fun hdis hruns => ?_,
    fun a n ha hn hen hal hlo hhi hin hfit hact => ?_, fun hdis hruns => ?_, fun hen => ?_, fun hdis => ?_⟩
  · obtain ⟨hacc, hoff⟩ := hen
    refine exec_own_doing rfl (by simp [Instr.wf, hacc.1.1, hi, fits]) hacc (acts_one _)
      (show Mach.writeScaleEnable _ i 1 = _ from ?_)
    simp (disch := decide) [Mach.writeScaleEnable, enableWrite, check, firstFailed, Mach.activeCond, State.served_obj, hoff,
      ← ha, ← hn, hal, hlo, hhi, hin, hfit, hact]
  · obtain ⟨hacc, hon⟩ := hdis
    refine exec_own_doing rfl (by simp [Instr.wf, hacc.1.1, hi, fits]) hacc (.inr (by decide))
      (show Mach.writeScaleEnable _ i 0 = _ from ?_)
    simp (disch := decide) [Mach.writeScaleEnable, enableWrite, State.served_obj, hon, hruns]
  · obtain ⟨hacc, hoff⟩ := hen
    refine exec_own_doing rfl (by simp [Instr.wf, hacc.1.1, hi, fits]) hacc (acts_one _)
      (show Mach.writePlaceEnable _ i 1 = _ from ?_)
    simp (disch := decide) [Mach.writePlaceEnable, enableWrite, check, firstFailed, Mach.activeCond, State.served_obj, hoff,
      ← ha, ← hn, hal, hlo, hhi, hin, hfit, hact]
  · obtain ⟨hacc, hon⟩ := hdis
    refine exec_own_doing rfl (by simp [Instr.wf, hacc.1.1, hi, fits]) hacc (.inr (by decide))
      (show Mach.writePlaceEnable _ i 0 = _ from ?_)
    simp (disch := decide) [Mach.writePlaceEnable, enableWrite, State.served_obj, hon, hruns]
  · obtain ⟨hacc, hoff⟩ := hen
    refine exec_own_doing rfl (by simp [Instr.wf, hacc.1.1, fits]) hacc (acts_one _)
      (show Mach.writeScrubEnable _ 1 = _ from ?_)
    simp (disch := decide) [Mach.writeScrubEnable, enableWrite, State.served_obj, hoff]
  · obtain ⟨hacc, hon⟩ := hdis
    refine exec_own_doing rfl (by simp [Instr.wf, hacc.1.1, fits]) hacc (.inr (by decide))
      (show Mach.writeScrubEnable _ 0 = _ from ?_)
    simp (disch := decide) [Mach.writeScrubEnable, enableWrite, State.served_obj, hon]

/-! ### Journals and rings -/

theorem Mach.startJournal_eq (m : Mach) (j : Nat) :
    m.startJournal j =
      let a := hostAddr (m.obj O.J_CONTROL j)
      let n := m.rdNat a 8
      let x := ((m.cacheLine (controlSlot j) (m.rd a 64)).setObj O.J_ENABLE j 1).setJournal j
        ⟨.running, n, n, n, false, none, (m.journal j).reasons⟩
      if m.rdPoison a 8 then (x.bump O.POISON_IN 0 1).stopJournal j rLINK else x.writeStatus j := by
  unfold Mach.startJournal Mach.hostReadFailed
  rfl

theorem Mach.setObj_inFlight (m : Mach) (o i v j : Nat) : (m.setObj o i v).inFlight j = m.inFlight j := rfl
theorem Mach.setObj_journal (m : Mach) (o i v j : Nat) : (m.setObj o i v).journal j = m.journal j := rfl

theorem Mach.setRing_ringOf (m : Mach) (r : Nat) (x : Ring) : (m.setRing r x).ringOf r = x := by
  simp [Mach.ringOf, Mach.setRing, mgetD]

theorem Mach.cacheLine_ringOf (m : Mach) (k : Nat) (d : Bytes) (r : Nat) : (m.cacheLine k d).ringOf r = m.ringOf r := rfl

theorem Mach.readConsumer_miss {m : Mach} {r : Nat} (hp : m.rdPoison (hostAddr (m.obj O.C_CONSUMER r)) 8 = false)
    (hmiss : mget m.devCache (consumerSlot r) = none) :
    (m.readConsumer r).ringOf r =
      { m.ringOf r with consumed := fld (m.rd (hostAddr (m.obj O.C_CONSUMER r)) 64) 0 8 } := by
  simp [Mach.readConsumer, hmiss, hp, Mach.setRing_ringOf, Mach.cacheLine_ringOf]

/-- Settles O27: journals and rings, enabled and disabled. -/
theorem journalsAndRingsEnable : Obligations.JournalsAndRingsEnable := by
  intro s p j hj
  refine ⟨fun size q r n a hsize hq hr ha hn hen hpow hlo hhi hbase hcontrol hstatus hne hact howner hb hc hs hlink hring
      hdis => ?_, fun hdis hidle => ?_, fun hdis hbusy => ?_, fun size q hsize hq hen hpow hlo hhi hbase hcons hvec hact hb
      hc => ?_, fun m hlink hpoison hmiss => ?_, fun named hnamed hdis => ⟨fun hfree => ?_, fun hheld => ?_⟩⟩
  · obtain ⟨hacc, hoff⟩ := hen
    refine exec_own_doing rfl (by simp [Instr.wf, okJournal, hacc.1.1, hj, fits]) hacc (acts_one _)
      (show Mach.writeJEnable _ j 1 = _ from ?_)
    simp (disch := decide) [Mach.writeJEnable, enableWrite, check, firstFailed, Mach.activeCond, State.served_obj, hoff,
      Mach.startJournal_eq, Partition.exists_,
      ← hsize, ← hq, ← hr, ← ha, ← hn, hpow, hlo, hhi, hbase, hcontrol, hstatus, hne, hact, howner, hb, hc, hs, hlink,
      hring, hdis]
  · obtain ⟨hacc, hon⟩ := hdis
    refine exec_own_doing rfl (by simp [Instr.wf, okJournal, hacc.1.1, hj, fits]) hacc (.inr (by decide))
      (show Mach.writeJEnable _ j 0 = _ from ?_)
    simp (disch := decide) [Mach.writeJEnable, enableWrite, State.served_obj, hon, hidle, Mach.setObj_inFlight,
      Mach.setObj_journal, Mach.closeJournal]
  · obtain ⟨hacc, hon⟩ := hdis
    refine exec_own_doing rfl (by simp [Instr.wf, okJournal, hacc.1.1, hj, fits]) hacc (.inr (by decide))
      (show Mach.writeJEnable _ j 0 = _ from ?_)
    simp (disch := decide) [Mach.writeJEnable, enableWrite, State.served_obj, hon, hbusy, Mach.setObj_inFlight,
      Mach.setObj_journal]
  · obtain ⟨hacc, hoff⟩ := hen
    refine exec_own_doing rfl (by simp [Instr.wf, okRing, hacc.1.1, hj, fits]) hacc (acts_one _)
      (show Mach.writeCEnable _ j 1 = _ from ?_)
    by_cases hff : s.obj O.C_PARTITION j = 0xFF
    · have hvec' : s.obj O.C_MSIX j = 0xFFFF ∨ s.obj O.C_MSIX j < 2048 := by simpa [hq, hff] using hvec
      simp (disch := decide) [Mach.writeCEnable, enableWrite, check, firstFailed, State.served_obj, hoff,
        ← hsize, hpow, hlo, hhi, hbase, hcons, hvec', hff, hb, hc]
    · have hvec' : s.obj O.C_MSIX j = 0xFFFF ∨ s.obj O.C_MSIX j < 64 := by simpa [hq, hff] using hvec
      have hact' := hact (hq ▸ hff)
      rw [hq] at hact'
      simp (disch := decide) [Mach.writeCEnable, enableWrite, check, firstFailed, Mach.activeCond, State.served_obj, hoff,
        Partition.exists_, ← hsize, hpow, hlo, hhi, hbase, hcons, hvec', hff, hact', hb, hc]
  · exact Mach.readConsumer_miss hpoison hmiss
  · obtain ⟨hacc, hon⟩ := hdis
    refine exec_own_doing rfl (by simp [Instr.wf, okRing, hacc.1.1, hj, fits]) hacc (.inr (by decide))
      (show Mach.writeCEnable _ j 0 = _ from ?_)
    simp (disch := decide) [Mach.writeCEnable, enableWrite, State.served_obj, hon, ← hnamed, hfree, Mach.closeRing]
  · obtain ⟨hacc, hon⟩ := hdis
    refine exec_own_declined rfl (by simp [Instr.wf, okRing, hacc.1.1, hj, fits]) hacc (.inr (by decide))
      (show Mach.writeCEnable _ j 0 = _ from ?_)
    simp (disch := decide) [Mach.writeCEnable, enableWrite, State.served_obj, hon, ← hnamed, hheld, decline]

end Sys2Proof.Machine

/-! PROOF. The ENABLE objects of the links, of the bounce path and of trace (R335, R348, R362, R377, R468). -/

namespace Sys2Proof.Machine

open Sys2Proof

theorem State.served_mgmtPeer (s : State) (p : Path) (o i : Nat) (v : Bytes) :
    (s.served p o i v).obj O.MGMT_PEER 0 = s.obj O.MGMT_PEER 0 :=
  (s.served_objects p o i v).obj (by decide) (by decide)

theorem State.served_fldEnable (s : State) (p : Path) (o i : Nat) (v : Bytes) :
    (s.served p o i v).obj O.FLD_ENABLE 0 = s.obj O.FLD_ENABLE 0 :=
  (s.served_objects p o i v).obj (by decide) (by decide)

theorem State.served_bounceSecret (s : State) (p : Path) (o i : Nat) (v : Bytes) (q k : Nat) :
    (s.served p o i v).bounceSecret q k = s.bounceSecret q k := by
  simp (disch := decide) only [Mach.bounceSecret, State.served_obj]

/-- Settles O28: the links, the bounce path and trace, enabled and disabled. -/
theorem linksAndTraceEnable : Obligations.LinksAndTraceEnable := by
  intro s p i hi
  refine ⟨fun hen hpeer => ?_, fun hdis => ?_,
    fun n a q base hn ha hq hen hmod hlo hhi hin hal hbel hfit hconf hcom hact => ?_, fun hdis => ?_,
    fun hen hrole hpeer hpart => ?_, fun hdis => ?_, fun k hen hkeys hact x hx => ?_, fun hdis hfree => ?_,
    fun hen hfree => ?_, fun hdis => ?_⟩
  · obtain ⟨hacc, hoff⟩ := hen
    simp only [Bool.or_eq_true, beq_iff_eq] at hpeer
    refine exec_own_doing rfl (by simp [Instr.wf, hacc.1.1, fits]) hacc (acts_one _)
      (show Mach.writeFldEnable _ 1 = _ from ?_)
    simp [Mach.writeFldEnable, enableWrite, check, firstFailed, State.served_mgmtPeer, State.served_fldEnable, hoff,
      hpeer]
  · obtain ⟨hacc, hon⟩ := hdis
    refine exec_own_doing rfl (by simp [Instr.wf, hacc.1.1, fits]) hacc (.inr (by decide))
      (show Mach.writeFldEnable _ 0 = _ from ?_)
    simp [Mach.writeFldEnable, enableWrite, State.served_fldEnable, hon]
  · obtain ⟨hacc, hoff⟩ := hen
    have haddr : addrOff a = a % 2 ^ 36 := by
      simp only [isModule, beq_iff_eq] at hin
      simp only [addrOff, hin]
    simp only [Nat.reducePow] at hmod hlo hhi hal hfit haddr
    refine exec_own_doing rfl (by simp [Instr.wf, hacc.1.1, fits]) hacc (acts_one _)
      (show Mach.writeHdmEnable _ 1 = _ from ?_)
    simp (disch := decide) [Mach.writeHdmEnable, enableWrite, check, firstFailed, Mach.activeCond, State.served_obj, hoff,
      Partition.exists_, haddr, ← hn, ← ha, ← hq, hmod, hlo, hhi, hin, hal, hbel, hfit, hconf, hcom, hact]
  · obtain ⟨hacc, hon⟩ := hdis
    refine exec_own_doing rfl (by simp [Instr.wf, hacc.1.1, fits]) hacc (.inr (by decide))
      (show Mach.writeHdmEnable _ 0 = _ from ?_)
    simp (disch := decide) [Mach.writeHdmEnable, enableWrite, State.served_obj, hon]
  · obtain ⟨hacc, hoff⟩ := hen
    refine exec_own_owing rfl (by simp [Instr.wf, hacc.1.1, fits]) hacc (acts_one _)
      (show Mach.writePsEnable _ 1 _ = _ from ?_)
    simp only [Mach.psPart] at hpart
    simp (disch := decide) [Mach.writePsEnable, enableWrite, firstFailed, Mach.psPart, State.served_obj, hoff, hrole, hpeer,
      hpart]
  · obtain ⟨hacc, hon⟩ := hdis
    refine exec_own_doing rfl (by simp [Instr.wf, hacc.1.1, fits]) hacc (.inr (by decide))
      (show Mach.writePsEnable _ 0 _ = _ from ?_)
    simp (disch := decide) [Mach.writePsEnable, enableWrite, State.served_obj, hon]
  · obtain ⟨hacc, hoff⟩ := hen
    split
    next hkey =>
      refine exec_own_doing rfl (by simp [Instr.wf, hacc.1.1, hi, fits]) hacc (acts_one _)
        (show Mach.writeBounceEnable _ i 1 = _ from ?_)
      simp (disch := decide) [Mach.writeBounceEnable, enableWrite, Mach.bounceCheck, State.served_obj,
        State.served_bounceSecret, hoff, hkeys, ← hx, hkey, hact]
    next hkey =>
      refine exec_own_declined rfl (by simp [Instr.wf, hacc.1.1, hi, fits]) hacc (acts_one _)
        (show Mach.writeBounceEnable _ i 1 = _ from ?_)
      simp (disch := decide) [Mach.writeBounceEnable, enableWrite, Mach.bounceCheck, State.served_obj,
        State.served_bounceSecret, hoff, hkeys, ← hx, hkey]
  · obtain ⟨hacc, hon⟩ := hdis
    refine exec_own_doing rfl (by simp [Instr.wf, hacc.1.1, hi, fits]) hacc (.inr (by decide))
      (show Mach.writeBounceEnable _ i 0 = _ from ?_)
    simp (disch := decide) [Mach.writeBounceEnable, enableWrite, State.served_obj, hon, hfree]
  · obtain ⟨hacc, hoff⟩ := hen
    simp only [List.any_eq_false, Bool.not_eq_true] at hfree
    refine exec_own_doing rfl (by simp [Instr.wf, hacc.1.1, fits]) hacc (acts_one _)
      (show Mach.writeTraceEnable _ 1 = _ from ?_)
    simp (disch := decide) [Mach.writeTraceEnable, enableWrite, check, firstFailed, State.served_obj, hoff]
    rw [if_pos hfree]
  · obtain ⟨hacc, hon⟩ := hdis
    refine exec_own_doing rfl (by simp [Instr.wf, hacc.1.1, fits]) hacc (.inr (by decide))
      (show Mach.writeTraceEnable _ 0 = _ from ?_)
    simp (disch := decide) [Mach.writeTraceEnable, enableWrite, State.served_obj, hon]

end Sys2Proof.Machine

/-! PROOF. What events, answers and resets change of the module (R250, R325, R330, R336). -/

namespace Sys2Proof.Machine

open Sys2Proof

/-! ### Operations folded over a list -/

/-- What relates a module to the next one at each item relates it to the last one. -/
theorem foldl_rel {α : Type} {R : Mach → Mach → Prop} (hr : ∀ m, R m m) (ht : ∀ a b c, R a b → R b c → R a c)
    {f : Mach → α → Mach} (hf : ∀ m x, R m (f m x)) (l : List α) (m : Mach) : R m (l.foldl f m) := by
  induction l generalizing m with
  | nil => exact hr m
  | cons x l ih => exact ht m (f m x) _ (hf m x) (ih _)

/-- What no item changes stays. -/
theorem foldl_frame {α β : Type} (F : Mach → β) {f : Mach → α → Mach} (hf : ∀ m x, F (f m x) = F m) (l : List α)
    (m : Mach) : F (l.foldl f m) = F m :=
  (foldl_rel (R := fun m n => F m = F n) (fun _ => rfl) (fun _ _ _ h h' => h.trans h') (fun m x => (hf m x).symm) l
    m).symm

/-! ### Events -/

/-- Two modules that differ by records and notices alone. -/
def Mach.Records (m n : Mach) : Prop :=
  ∃ dict ready seqs notices next outbox asks, n = { m with
    dict := dict, ready := ready, seqs := seqs, notices := notices, nextToken := next, outbox := outbox,
    soliciting := asks }

theorem Mach.Records.refl (m : Mach) : m.Records m := ⟨_, _, _, _, _, _, _, rfl⟩

theorem Mach.Records.trans (a b c : Mach) (h : a.Records b) (h' : b.Records c) : a.Records c := by
  obtain ⟨_, _, _, _, _, _, _, rfl⟩ := h
  obtain ⟨_, _, _, _, _, _, _, rfl⟩ := h'
  exact ⟨_, _, _, _, _, _, _, rfl⟩

theorem Mach.notify_records (m : Mach) (b : Bytes) : m.Records (m.notify b) := by
  unfold Mach.notify
  dsimp only
  split
  · exact ⟨_, _, _, _, _, _, _, rfl⟩
  · split <;> exact ⟨_, _, _, _, _, _, _, rfl⟩

theorem Mach.pushRec_records (m : Mach) (r : Nat) (b : Bytes) (cmd : Option (CmdId × Nat)) :
    m.Records (m.pushRec r b cmd) := by
  obtain ⟨_, _, h⟩ := m.pushRec_eq r b cmd
  exact h ▸ ⟨_, _, _, _, _, _, _, rfl⟩

theorem Mach.eventTo_records (m : Mach) (source : Nat) (rings : List Nat) (cause : Option Cmd)
    (code reason specific sats step cmdSeq : Nat) :
    m.Records (m.eventTo source rings cause code reason specific sats step cmdSeq) := by
  have hseq : m.Records (m.nextSeq source).2 := ⟨_, _, _, _, _, _, _, rfl⟩
  exact .trans _ _ _ hseq (.trans _ _ _
    (foldl_rel Mach.Records.refl Mach.Records.trans (fun s r => s.pushRec_records r _ none) _ _)
    (Mach.notify_records _ _))

theorem Mach.moduleEvent_records (m : Mach) (code specific : Nat) : m.Records (m.moduleEvent code specific) :=
  m.eventTo_records ..

/-! ### Answers -/

/-- Two modules that differ by an answer given alone. -/
def Mach.Answers (m n : Mach) : Prop :=
  ∃ boxes msix mem marks outbox asks cache, n = { m with
    mailboxes := boxes, msix := msix, mem := mem, hostPoison := marks, outbox := outbox, soliciting := asks,
    cache := cache }

theorem Mach.signalVector_answers (m : Mach) (fn v : Nat) : m.Answers (m.signalVector fn v) := by
  unfold Mach.signalVector
  dsimp only
  split
  · exact ⟨_, _, _, _, _, _, _, rfl⟩
  · split
    · exact ⟨_, _, _, _, _, _, _, rfl⟩
    · obtain ⟨_, _, h⟩ := m.wr_hostAddr (mgetD m.msix (fn * 2048 + v) .reset).addr
        (v := leBytes 4 (mgetD m.msix (fn * 2048 + v) .reset).data) false (by simp [leBytes])
      exact ⟨_, _, _, _, _, _, _, h⟩

theorem Mach.mailboxAnswer_answers (m : Mach) (fn reason : Nat) (b : Bytes) : m.Answers (m.mailboxAnswer fn reason b) := by
  unfold Mach.mailboxAnswer
  dsimp only
  split
  · exact ⟨_, _, _, _, _, _, _, rfl⟩
  · split
    · obtain ⟨_, _, _, _, _, _, _, h⟩ := Mach.signalVector_answers (m.setMailbox fn
        { m.mailbox fn with busy := false, done := true, lastReason := reason, answer := b }) fn (m.mailbox fn).vector
      exact ⟨_, _, _, _, _, _, _, h⟩
    · exact ⟨_, _, _, _, _, _, _, rfl⟩

theorem Mach.deliver_answers (m : Mach) (p : Path) (reason : Nat) (b : Bytes) : m.Answers (m.deliver p reason b) := by
  cases p with
  | pf0 => exact m.mailboxAnswer_answers ..
  | vf n => exact m.mailboxAnswer_answers ..
  | umpor src port token =>
    unfold Mach.deliver Mach.umporAnswer
    dsimp only
    split <;> exact ⟨_, _, _, _, _, _, _, rfl⟩

theorem Mach.answerOwed_answers (m : Mach) (w : Owed) (reason i k : Nat) : m.Answers (m.answerOwed w reason i k) :=
  m.deliver_answers ..

/-! ### What the reset of a partition leaves (R336) -/

/-- A key is found as before where one below it is taken out of the map. -/
theorem mget_mdel_of_lt {α : Type} (d : SMap α) {k x : Nat} (h : k < x) : mget (mdel d k) x = mget d x := by
  induction d with
  | nil => rfl
  | cons e r ih =>
    obtain ⟨j, w⟩ := e
    unfold mdel
    split
    · simp [mget, show ¬x = j by omega, show ¬x < j by omega]
    · split
      · rfl
      · simp only [mget, ih]

theorem Mach.obj_setObj_of_lt {o o' i i' v : Nat} (m : Mach) (h : oKey o i < oKey o' i') :
    (m.setObj o i v).obj o' i' = m.obj o' i' := by
  have hk : ∀ k, k / 256 * 256 + k % 256 = k := fun k => by omega
  have hd : ∀ c : Prop, ∀ _ : Decidable c,
      mget (if c then mdel m.dict (oKey o i) else mset m.dict (oKey o i) v) (oKey o' i') = mget m.dict (oKey o' i') :=
    fun c _ => by
      split
      · exact mget_mdel_of_lt _ h
      · exact mget_mset_other _ _ (Nat.ne_of_gt h)
  simp only [Mach.obj, Mach.setObj, Mach.objAt, Mach.setObjAt, hk, hd]

/-- The journals of a partition are closed in the order of their numbers. -/
def Mach.closeOf (p : Nat) (s : Mach) (j : Nat) : Mach :=
  if s.obj O.J_PARTITION j = p then (s.closeJournal j).setObj O.J_ENABLE j 0 else s

theorem Mach.closeOf_eq (p : Nat) (m : Mach) (j : Nat) :
    ∃ js kept d, m.closeOf p j = { m with journals := js, devCache := kept, dict := d } := by
  unfold Mach.closeOf
  split <;> exact ⟨_, _, _, rfl⟩

theorem Mach.closeOf_obj (p : Nat) (m : Mach) {j k : Nat} (h : j < k) :
    (m.closeOf p j).obj O.J_PARTITION k = m.obj O.J_PARTITION k := by
  unfold Mach.closeOf
  split
  · exact Mach.obj_setObj_of_lt (m.closeJournal j) (by simp [oKey, O.J_ENABLE, O.J_PARTITION]; omega)
  · rfl

theorem Mach.closeOf_journal (p : Nat) (m : Mach) (j : Nat) (h : m.obj O.J_PARTITION j = p) :
    ((m.closeOf p j).journal j).state = .disabled := by
  unfold Mach.closeOf
  rw [if_pos h]
  exact congrArg Journal.state (m.journal_setJournal j _)

theorem Mach.closeJournal_journal (m : Mach) {j k : Nat} (h : k ≠ j) : (m.closeJournal j).journal k = m.journal k := by
  simp only [Mach.closeJournal, Mach.dropLine, Mach.journal, Mach.setJournal]
  exact mgetD_mset_other _ _ _ h

theorem Mach.closeOf_keeps (p : Nat) (m : Mach) {j k : Nat} (h : (m.journal k).state = .disabled) :
    ((m.closeOf p j).journal k).state = .disabled := by
  rcases Decidable.em (k = j) with rfl | hjk
  · by_cases hp : m.obj O.J_PARTITION k = p
    · exact m.closeOf_journal p k hp
    · exact (congrArg (fun n : Mach => (n.journal k).state) (if_neg hp)).trans h
  · unfold Mach.closeOf
    split
    · rwa [Mach.setObj_journal, Mach.closeJournal_journal m hjk]
    · exact h

theorem Mach.closeAll_journal (p k : Nat) (l : List Nat) (hl : l.Pairwise (· < ·)) (m : Mach)
    (hk : k ∈ l ∧ m.obj O.J_PARTITION k = p ∨ (m.journal k).state = .disabled) :
    ((l.foldl (Mach.closeOf p) m).journal k).state = .disabled := by
  induction l generalizing m with
  | nil => simpa using hk
  | cons j l ih =>
    obtain ⟨hj, hl⟩ := List.pairwise_cons.mp hl
    refine ih hl _ ?_
    rcases hk with ⟨hmem, hp⟩ | hk
    · rcases List.mem_cons.mp hmem with rfl | hmem
      · exact .inr (m.closeOf_journal p k hp)
      · exact .inl ⟨hmem, (m.closeOf_obj p (hj k hmem)).trans hp⟩
    · exact .inr (m.closeOf_keeps p hk)

/-- What the reset of a partition is about: commands, lent pieces, placed objects, partitions and journals. -/
def Mach.holdings (m : Mach) : List Act × List Cmd × List Lent × List Placed × SMap Partition × SMap Journal :=
  (m.acts, m.received, m.lent, m.placed, m.parts, m.journals)

theorem Mach.Records.holdings {m n : Mach} (h : m.Records n) : n.holdings = m.holdings := by
  obtain ⟨_, _, _, _, _, _, _, rfl⟩ := h
  rfl

theorem Mach.settle_holdings (m : Mach) : m.settle.holdings = m.holdings := by
  obtain ⟨_, h⟩ := m.settle_bays
  rw [h]
  rfl

theorem Mach.invalidateTrace_holdings (m : Mach) (b : Nat) : (m.invalidateTrace b).holdings = m.holdings := by
  unfold Mach.invalidateTrace
  dsimp only
  split <;> rfl

theorem Mach.clearStores_holdings (m : Mach) (bs : List Nat) : (m.clearStores bs).holdings = m.holdings := by
  unfold Mach.clearStores
  dsimp only
  split
  · exact foldl_frame Mach.holdings Mach.invalidateTrace_holdings bs m
  · rfl

/-- The journals of a partition closed. -/
def Mach.closeAll (m : Mach) (p : Nat) : Mach := (List.range 64).foldl (Mach.closeOf p) m

theorem Mach.closeAll_eq (m : Mach) (p : Nat) :
    ∃ js kept d, m.closeAll p = { m with journals := js, devCache := kept, dict := d } :=
  foldl_rel (R := fun m n => ∃ js kept d, n = { m with journals := js, devCache := kept, dict := d })
    (fun _ => ⟨_, _, _, rfl⟩) (fun _ _ _ ⟨_, _, _, h⟩ ⟨_, _, _, h'⟩ => ⟨_, _, _, h ▸ h'⟩) (fun m j => m.closeOf_eq p j) _ m

/-- What is not the partition's goes on; its keys and its bounce path are gone. -/
theorem Mach.resetPart_holdings (m : Mach) (p cause : Nat) : (m.resetPart p cause).holdings =
    (m.acts.filter fun a => a.cmd.part != p, m.received.filter fun c => c.part != p,
     m.lent.filter fun l => l.part != p, m.placed.filter fun o => o.part != p,
     mset m.parts p { m.part p with keys := none, bounce := none, blanking := [] },
     ((m.dropCommands p).closeAll p).journals) := by
  unfold Mach.resetPart
  extract_lets bs dropped closed disabled hdm pruned cleared counted held keyless keyless'
  have hclosed : closed.holdings = (dropped.acts, dropped.received, dropped.lent, dropped.placed, dropped.parts,
      (dropped.closeAll p).journals) := by
    have hall : closed = dropped.closeAll p := by
      unfold closed Mach.closeAll Mach.closeOf
      rfl
    obtain ⟨_, _, _, h⟩ := dropped.closeAll_eq p
    rw [hall, h]
    rfl
  clear_value closed
  have hdisabled : disabled.holdings = closed.holdings :=
    foldl_frame Mach.holdings (f := fun s o => s.setObj o p 0) (fun _ _ => rfl) _ closed
  clear_value disabled
  have hhdm : hdm.holdings = disabled.holdings := by
    unfold hdm
    split
    · rfl
    · rfl
  have hcleared : cleared.holdings = pruned.holdings :=
    (Mach.clearStores_holdings (bs.foldl Mach.clearEngines pruned) bs).trans
      (foldl_frame Mach.holdings (f := Mach.clearEngines) (fun _ _ => rfl) _ pruned)
  have hlast := (Mach.settle_holdings _).trans (keyless.moduleEvent_records 7 (p + cause * 256)).holdings
  obtain ⟨hacts, hreceived, hlent, hplaced, hparts, hjournals⟩ :
      hdm.acts = _ ∧ hdm.received = _ ∧ hdm.lent = _ ∧ hdm.placed = _ ∧ hdm.parts = _ ∧ hdm.journals = _ := by
    simpa only [Mach.holdings, Prod.mk.injEq] using (hhdm.trans hdisabled).trans hclosed
  rw [hlast]
  simp only [Mach.holdings, Prod.mk.injEq] at hcleared ⊢
  obtain ⟨hacts', hreceived', hlent', hplaced', hparts', hjournals'⟩ := hcleared
  refine ⟨?_, ?_, ?_, ?_, ?_, ?_⟩
  · exact hacts'.trans hacts
  · exact hreceived'.trans hreceived
  · exact hlent'.trans (congrArg _ hlent)
  · exact hplaced'.trans (congrArg _ hplaced)
  · have hp : counted.parts = m.parts := hparts'.trans hparts
    have hheld : held = m.part p := congrArg (fun ps => mgetD ps p Partition.reset) hp
    simp only [keyless, Mach.setPart, hp, hheld, keyless']
  · exact hjournals'.trans hjournals

end Sys2Proof.Machine

/-! PROOF. The reset objects (R215, R336, R361, R462). -/

namespace Sys2Proof.Machine

open Sys2Proof

/-! ### What the resets leave -/

theorem Mach.resetPart_part (m : Mach) (p cause : Nat) : (m.resetPart p cause).part p =
    { m.part p with keys := none, bounce := none, blanking := [] } := by
  have hall := m.resetPart_holdings p cause
  simp only [Mach.holdings, Prod.mk.injEq] at hall
  obtain ⟨-, -, -, -, hparts, -⟩ := hall
  simp only [Mach.part, hparts, mgetD_mset_self]

theorem resetPart_leaves (m : Mach) (p cause : Nat) :
    (∀ a ∈ (m.resetPart p cause).acts, a.cmd.part ≠ p) ∧
    (∀ c ∈ (m.resetPart p cause).received, c.part ≠ p) ∧ (∀ l ∈ (m.resetPart p cause).lent, l.part ≠ p) ∧
    (∀ o ∈ (m.resetPart p cause).placed, o.part ≠ p) ∧ ((m.resetPart p cause).part p).keys = none ∧
    ((m.resetPart p cause).part p).bounce = none ∧
    ∀ j, j < 64 → m.obj O.J_PARTITION j = p → ((m.resetPart p cause).journal j).state = .disabled := by
  have hall := m.resetPart_holdings p cause
  simp only [Mach.holdings, Prod.mk.injEq] at hall
  obtain ⟨hacts, hreceived, hlent, hplaced, -, hjournals⟩ := hall
  refine ⟨?_, ?_, ?_, ?_, by rw [m.resetPart_part], by rw [m.resetPart_part], fun j hj hp => ?_⟩
  · simp [hacts]
  · simp [hreceived]
  · simp [hlent]
  · simp [hplaced]
  · simp only [Mach.journal, hjournals]
    exact (m.dropCommands p).closeAll_journal p j _ (List.pairwise_lt_range) (.inl ⟨List.mem_range.mpr hj, hp⟩)

/-- A command that completes leaves all but commands, records, counters and idle bays alone. -/
theorem Mach.complete_frame (m : Mach) (c : Cmd) (reason detail specific : Nat) (f : Flg) (p : Bool) :
    ∃ acts received ready dict seqs bays, m.complete c reason detail specific f p = { m with
      acts := acts, received := received, ready := ready, dict := dict, seqs := seqs, bays := bays } := by
  unfold Mach.complete
  extract_lets left poison residue handed src sq b done
  have hpoison : ∃ d, poison = { left with dict := d } := by
    unfold poison
    split <;> exact ⟨_, rfl⟩
  have hresidue : ∃ d, residue = { left with dict := d } := by
    obtain ⟨d, hd⟩ := hpoison
    unfold residue
    rw [hd]
    split <;> exact ⟨_, rfl⟩
  have hdone : ∃ acts ready dict seqs, done = { left with acts := acts, ready := ready, dict := dict, seqs := seqs } := by
    obtain ⟨d, hd⟩ := hresidue
    obtain ⟨d', waits, hpush⟩ := Mach.pushRec_eq sq.2 (residue.obj O.J_RING c.id.journal) b (some (c.id, reason))
    unfold done
    split
    · split
      · split
        · exact ⟨_, _, _, _, by rw [hd]; rfl⟩
        · exact ⟨_, _, _, _, hd⟩
      · exact ⟨_, _, _, _, hd⟩
    · exact ⟨_, _, _, _, by rw [hpush]; simp only [sq, Mach.nextSeq, hd]; rfl⟩
  obtain ⟨_, _, _, _, hdone⟩ := hdone
  obtain ⟨_, hbays⟩ := done.settle_bays
  rw [hbays, hdone]
  exact ⟨_, _, _, _, _, _, rfl⟩

/-- What the stream to the partner is, and the lines that are dirty. -/
def Mach.stream (m : Mach) : Pair × NSet := (m.pair, m.dirty)

theorem Mach.dropSeals_stream (m : Mach) : m.dropSeals.stream = m.stream :=
  foldl_frame Mach.stream (fun s a => by
    obtain ⟨_, _, _, _, _, _, h⟩ := s.complete_frame a.cmd rLINK 0xFF 0 .none false
    rw [h]
    rfl) _ m

theorem Mach.Records.stream {m n : Mach} (h : m.Records n) : n.stream = m.stream := by
  obtain ⟨_, _, _, _, _, _, _, rfl⟩ := h
  rfl

theorem Mach.Answers.stream {m n : Mach} (h : m.Answers n) : n.stream = m.stream := by
  obtain ⟨_, _, _, _, _, _, _, rfl⟩ := h
  rfl

theorem Mach.psState_stream (m : Mach) (x : PairState) (cause : Nat) : (m.psState x cause).stream =
    ({ m.pair with state := x, key := if x = .unpaired ∨ x = .broken then none else m.pair.key }, m.dirty) :=
  (Mach.moduleEvent_records _ _ _).stream

theorem Mach.resumeWrites_none (m : Mach) (h : m.pair.heldSince = none) : m.resumeWrites = m := by
  simp [Mach.resumeWrites, h]

/-- A stream that holds no write and goes UNPAIRED keeps its DIRTY bits and drops its records. -/
theorem Mach.psUnpair_stream (m : Mach) (cause : Nat) (h : m.pair.heldSince = none) :
    (m.psUnpair cause).pair.state = .unpaired ∧ (m.psUnpair cause).pair.unacked = [] ∧
      (m.psUnpair cause).dirty = m.dirty := by
  unfold Mach.psUnpair
  extract_lets p fresh u
  have hs := (Mach.dropSeals_stream _).trans ((u.setObj O.PS_ENABLE 0 0).psState_stream .unpaired cause)
  simp only [Mach.stream, Prod.mk.injEq] at hs
  obtain ⟨hpair, hdirty⟩ := hs
  rw [Mach.resumeWrites_none _ (by rw [hpair]; exact h)]
  exact ⟨by rw [hpair], by rw [hpair]; rfl, hdirty⟩

theorem psReset_leaves (m : Mach) (h : m.pair.heldSince = none) :
    m.psReset.pair.state = .unpaired ∧ m.psReset.pair.unacked = [] ∧ m.psReset.dirty = m.dirty := by
  obtain ⟨hstate, hunacked, hdirty⟩ := (m.setPair { m.pair with writer := none }).psUnpair_stream 8 h
  unfold Mach.psReset
  extract_lets w old u z
  have hz : z.stream = u.stream := foldl_frame Mach.stream (f := fun s o => s.setObj o 0 0) (fun _ _ => rfl) _ u
  have hkept : ∀ n : Mach, n.stream = u.stream →
      n.pair.state = .unpaired ∧ n.pair.unacked = [] ∧ n.dirty = m.dirty := fun n hn => by
    simp only [Mach.stream, Prod.mk.injEq] at hn
    rw [hn.1, hn.2]
    exact ⟨hstate, hunacked, hdirty⟩
  clear_value w
  cases w with
  | none => exact hkept z hz
  | some w => exact hkept _ ((z.answerOwed_answers w rSTATE _ _).stream.trans hz)

theorem fieldReset_leaves (m : Mach) : m.fieldReset.umpor = [] ∧ m.fieldReset.cache = [] ∧ m.fieldReset.notices = [] := by
  unfold Mach.fieldReset Mach.probeAddress
  dsimp only
  split <;> exact ⟨rfl, rfl, rfl⟩

/-! ### A write of 1 -/

/-- P_RESET is visible only of a partition that exists. -/
theorem exists_of_pReset {s : State} {p : Path} {i : Nat} (hi : i < 16) {v : Bytes} (h : s.accepts p O.P_RESET i v) :
    (s.part i).exists_ = true := by
  obtain ⟨-, hvis, -⟩ := h
  have hclass : objClass (oKey O.P_RESET i / 256) = some (0x1800, i) ∧ classPerPart 0x1800 = true :=
    (by decide : ∀ i < 16, objClass (oKey O.P_RESET i / 256) = some (0x1800, i) ∧ classPerPart 0x1800 = true) i hi
  simp only [Mach.visible, hclass.1, hclass.2, if_true, Bool.and_eq_true] at hvis
  exact hvis.1

/-- Settles O29: the reset objects act at once, and leave what R336 and R361 say. -/
theorem resetsAct : Obligations.ResetsAct := by
  refine ⟨fun s p i hi => ⟨fun hacc => ?_, fun hacc => ?_, fun hacc => ?_, fun hacc => ?_, fun hacc => ?_⟩,
    resetPart_leaves, psReset_leaves, fieldReset_leaves⟩
  · refine exec_own_doing rfl (by simp [Instr.wf, hacc.1.1, hi, fits]) hacc (acts_one _)
      (show accept (Mach.partitionReset _ i 1) = _ from ?_)
    have hexists := exists_of_pReset hi hacc
    have hstate : (((s.served p O.P_RESET i (leBytes 1 1)).resetPart i 1).part i).state = (s.part i).state := by
      rw [Mach.resetPart_part, State.served_part]
    simp only [Mach.partitionReset, State.served_part, hexists, hstate, Bool.not_true, Bool.false_eq_true, if_false]
  · exact exec_own_doing rfl (by simp [Instr.wf, hacc.1.1, hi, okBay, fits]) hacc (acts_one _) rfl
  · refine exec_own_doing rfl (by simp [Instr.wf, hacc.1.1, fits]) hacc (acts_one _)
      (show accept (Mach.traceReset _) = _ from ?_)
    simp (disch := decide) [Mach.traceReset, Mach.traceOn, Mach.startTraining, State.served_obj]
  · exact exec_own_doing rfl (by simp [Instr.wf, hacc.1.1, fits]) hacc (acts_one _) rfl
  · exact exec_own_doing rfl (by simp [Instr.wf, hacc.1.1, fits]) hacc (acts_one _) rfl

end Sys2Proof.Machine

/-! PROOF. Partitions made and deleted (R371, R372), reports and images (R383, R436), and the actions on places, dies,
counters, tiles, flags, rules and captures (R54, R261, R301, R308, R403, R438, R457, R466). -/

namespace Sys2Proof.Machine

open Sys2Proof

theorem State.served_createRefused (s : State) (p : Path) (o i : Nat) (v : Bytes) :
    (s.served p o i v).createRefused = s.createRefused := by
  have hout : (s.served p o i v).outOfService = s.outOfService := funext (s.served_outOfService p o i v)
  simp (disch := decide) only [Mach.createRefused, State.served_obj, State.served_bayPart, State.served_trngFailed,
    State.served_part, hout]

/-- Settles O30: a partition is made or refused, and deleted or refused. -/
theorem partitionsAreMadeAndDeleted : Obligations.PartitionsAreMadeAndDeleted := by
  intro s p q hq
  have hsel : ∀ o v, (s.served p o 0 v).obj O.PT_SELECT 0 = q := fun o v =>
    (s.served_obj p o 0 v _ _ (by decide)).trans hq.symm
  refine ⟨fun hacc hok => ⟨_, rfl, ?_⟩, fun r hacc hno => ?_, fun hacc hex => ?_, fun hacc hnone => ?_⟩
  · have hap : (s.served p O.PT_CREATE 0 (leBytes 1 1)).applyObj p O.PT_CREATE 0 1 none (s.owed p O.PT_CREATE 0) =
        if (((s.served p O.PT_CREATE 0 (leBytes 1 1)).createPart (s.owed p O.PT_CREATE 0)).part q).creator.isSome then
          ((s.served p O.PT_CREATE 0 (leBytes 1 1)).createPart (s.owed p O.PT_CREATE 0), none)
        else accept ((s.served p O.PT_CREATE 0 (leBytes 1 1)).createPart (s.owed p O.PT_CREATE 0)) := by
      show Mach.writeCreate _ _ = _
      simp only [Mach.writeCreate, State.served_createRefused, hok, hsel]
    have hwf : (Instr.ptCreate p 1).wf = true := by simp [Instr.wf, hacc.1.1, fits]
    split
    next h => exact exec_own_owing rfl hwf hacc (acts_one _) (hap.trans (if_pos h))
    next h =>
      refine exec_own_doing (g := fun m => m.createPart (s.owed p O.PT_CREATE 0)) rfl hwf hacc (acts_one _)
        (hap.trans (if_neg h))
  · refine exec_own_declined rfl (by simp [Instr.wf, hacc.1.1, fits]) hacc (acts_one _)
      (show Mach.writeCreate _ _ = _ from ?_)
    simp only [Mach.writeCreate, State.served_createRefused, hno, decline]
  · refine exec_own_doing rfl (by simp [Instr.wf, hacc.1.1, fits]) hacc (acts_one _)
      (show Mach.deletePart _ = _ from ?_)
    simp only [Mach.deletePart, hsel, State.served_part, hex, Bool.not_true, Bool.false_eq_true, if_false]
  · refine exec_own_declined rfl (by simp [Instr.wf, hacc.1.1, fits]) hacc (acts_one _)
      (show Mach.deletePart _ = _ from ?_)
    simp only [Mach.deletePart, hsel, State.served_part, hnone, Bool.not_false, if_true, decline]

/-! ### Reports and images (R383, R436) -/

/-- While a write is served it is the slot's only one. -/
theorem State.served_slotWrites (s : State) (p : Path) (o i : Nat) (v : Bytes) :
    (s.served p o i v).slotWrites = [s.lone p o i v] := by
  unfold State.served
  dsimp only
  split
  · obtain ⟨_, _, _, h, -⟩ := Mach.answerFirst_eq
      { (s.asked p 2 (oKey o i / 256) (oKey o i % 256) v).upTo (slotStart s.now + 10) with
        slotWrites := [s.lone p o i v] } (s.lone p o i v)
    rw [h]
  · rfl

/-- A lone ATTEST comes with no reset of its partition. -/
theorem State.served_resetComes (s : State) (p : Path) {i : Nat} (hi : i < 16) (v : Bytes) :
    (s.served p O.ATTEST i v).resetComes i = false := by
  have hkeys : ∀ i < 16, oKey O.ATTEST i ≠ oKey O.P_RESET i ∧ oKey O.ATTEST i ≠ oKey O.PT_DELETE 0 := by decide
  have hkey : oKey O.ATTEST i / 256 * 256 + oKey O.ATTEST i % 256 = oKey O.ATTEST i := by omega
  simp [Mach.resetComes, State.served_slotWrites, State.lone, hkey, hkeys i hi]

/-- What a report says is read before the write that asks for it. -/
theorem State.served_attest (s : State) (p : Path) {i : Nat} (hi : i < 16) :
    (s.served p O.ATTEST i (leBytes 1 1)).applyObj p O.ATTEST i 1 none (s.owed p O.ATTEST i) =
      plain ((s.served p O.ATTEST i (leBytes 1 1)).attest i false) := by
  show plain (Mach.attest _ i _) = _
  rw [s.served_resetComes p hi]

theorem Mach.loadFirmware_reason {m : Mach} {f : FwFetch} {r : Nat} (h : m.countLoad.fwCheck f = .error r) :
    (m.loadFirmware f).2 = r := by
  rw [Mach.loadFirmware_refused h]

theorem Mach.countLoad_obj (m : Mach) (o i : Nat) : m.countLoad.obj o i = m.obj o i := by
  unfold Mach.countLoad
  split <;> rfl

theorem Mach.countLoad_stage (m : Mach) : m.countLoad.start.stage = m.start.stage := by
  unfold Mach.countLoad
  split <;> rfl

/-- Settles O31: reports are written or refused, images taken or refused. -/
theorem reportsAndImages : Obligations.ReportsAndImages := by
  intro s p i hi
  refine ⟨fun a k ha hacc hal hbel hkeys hact => ?_, fun hacc hact hkeys => ⟨fun hal => ?_, fun hal hbel => ?_⟩,
    fun hacc hact => ?_, fun f hf hacc => ⟨_, rfl, ?_, fun hsrc => ?_, fun hsrc hlo hhi hstage => ?_⟩⟩
  · refine exec_own_doing rfl (by simp [Instr.wf, hacc.1.1, hi, fits]) hacc (acts_one _) ((s.served_attest p hi).trans ?_)
    simp (disch := decide) [Mach.attest, plain, accept, Verdict.ok, State.served_obj, ← ha, hal, hbel, hkeys, hact]
  · obtain ⟨k, hk⟩ := Option.ne_none_iff_exists'.mp hkeys
    refine exec_own_declined rfl (by simp [Instr.wf, hacc.1.1, hi, fits]) hacc (acts_one _)
      ((s.served_attest p hi).trans ?_)
    simp (disch := decide) [Mach.attest, plain, State.served_obj, hal, hk, hact]
  · obtain ⟨k, hk⟩ := Option.ne_none_iff_exists'.mp hkeys
    refine exec_own_declined rfl (by simp [Instr.wf, hacc.1.1, hi, fits]) hacc (acts_one _)
      ((s.served_attest p hi).trans ?_)
    simp (disch := decide) [Mach.attest, plain, State.served_obj, hal, hbel, hk, hact]
  · refine exec_own_declined rfl (by simp [Instr.wf, hacc.1.1, hi, fits]) hacc (acts_one _)
      ((s.served_attest p hi).trans ?_)
    simp only [Mach.attest, State.served_part]
    split
    next h _ => exact absurd h hact
    next => rfl
  · refine exec_own_answered (f := some f) rfl (by simp [Instr.wf, hacc.1.1, hf, fits]) hacc (acts_one _)
      (show plain (Mach.loadFirmware _ f) = _ from ?_)
    rfl
  · refine Mach.loadFirmware_reason ?_
    simp (disch := decide) [Mach.fwCheck, Mach.countLoad_obj, State.served_obj, hsrc]
  · refine Mach.loadFirmware_reason ?_
    simp (disch := decide) [Mach.fwCheck, Mach.countLoad_obj, Mach.countLoad_stage, State.served_obj, hsrc,
      Nat.not_lt.mpr hlo, Nat.not_lt.mpr hhi, hstage]

end Sys2Proof.Machine

/-! PROOF. Places, dies, counters and tiles (R261, R301, R308, R438, R442), flags and rules (R54, R401, R403, R410), and
the actions on a capture (R457, R466). -/

namespace Sys2Proof.Machine

open Sys2Proof

/-- A value that fits is read as it was written. -/
theorem leNat_leBytes_of_lt {n x : Nat} (h : x < 2 ^ (8 * n)) : leNat (leBytes n x) = x := by
  rw [leNat_leBytes, Nat.mod_eq_of_lt (by rwa [show 256 = 2 ^ 8 from rfl, ← Nat.pow_mul])]

/-! ### A die retired (R301) -/

/-- One bit asks for one channel. -/
theorem one_channel : ∀ k < 9, 2 ^ k < 512 ∧
    ((List.range 9).any fun j => (maskOf []).testBit j && !(2 ^ k).testBit j) = false ∧
    ((List.range 9).filter fun j => (2 ^ k).testBit j && !(maskOf []).testBit j) = [k] := by decide

/-- A second bit asks for one channel more. -/
theorem second_channel : ∀ k < 9, ∀ l < 9, k ≠ l → 2 ^ k + 2 ^ l < 512 ∧ maskOf [k] ≠ 0 ∧
    ((List.range 9).any fun j => (maskOf [k]).testBit j && !(2 ^ k + 2 ^ l).testBit j) = false ∧
    ((List.range 9).filter fun j => (2 ^ k + 2 ^ l).testBit j && !(maskOf [k]).testBit j) = [l] := by decide

theorem Mach.retireDie_first {m : Mach} {b k : Nat} (hk : k < 9) (h : (m.bay b).retired = []) :
    m.retireDie b (2 ^ k) =
      ((m.free.2.free.2.free.2.setBay b { m.bay b with retired := [k] }).logError 5 b (2 ^ k) (m.free.1 % 256)
        (m.free.2.free.1 + 2 ^ 32 * m.free.2.free.2.free.1), 0) := by
  obtain ⟨hlt, hany, hadd⟩ := one_channel k hk
  simp only [Mach.retireDie, h, hadd, hany]
  rw [if_neg (by omega)]
  rfl

theorem Mach.retireDie_second {m : Mach} {b k l : Nat} (hk : k < 9) (hl : l < 9) (hkl : k ≠ l)
    (h : (m.bay b).retired = [k]) : m.retireDie b (2 ^ k + 2 ^ l) = (m, rSTATE) := by
  obtain ⟨hlt, hne, hany, hadd⟩ := second_channel k hk l hl hkl
  simp only [Mach.retireDie, h, hadd, hany]
  rw [if_neg (by omega), if_neg (by decide), if_pos hne]

/-- Settles O32: places, dies, counters, records and tiles. -/
theorem placesAndIntegrityActions : Obligations.PlacesAndIntegrityActions := by
  intro s p i v hi
  refine ⟨fun hv hacc => ⟨_, rfl, ?_, fun hout => ?_, fun hin hoff => ?_⟩, fun k hk hacc hnone => ?_,
    fun k l hk hl hkl hacc hone => ?_, fun hacc => ?_, fun hacc => ?_, fun hv hacc hsee hrun => ?_, fun hv hacc hsee => ?_⟩
  · refine exec_own_answered rfl (by simpa [Instr.wf, hacc.1.1, hi, fits] using hv) hacc (.inr (by decide)) ?_
    rw [leNat_leBytes_of_lt hv]
    rfl
  · simp (disch := decide) [Mach.placeEntry, State.served_obj, hout]
  · simp (disch := decide) [Mach.placeEntry, State.served_obj, Nat.not_le.mpr hin, hoff]
  · have hlt := (one_channel k hk).1
    refine exec_own_doing rfl (by simp [Instr.wf, hacc.1.1, okBay, hi, fits]; omega) hacc (.inr (by decide)) ?_
    rw [leNat_leBytes_of_lt (by omega)]
    refine (show plain (Mach.retireDie _ i (2 ^ k)) = _ from ?_)
    rw [Mach.retireDie_first hk (by rw [State.served_bay]; exact hnone)]
    exact rfl
  · have hlt := (second_channel k hk l hl hkl).1
    refine exec_own_declined rfl (by simp [Instr.wf, hacc.1.1, okBay, hi, fits]; omega) hacc (.inr (by decide)) ?_
    rw [leNat_leBytes_of_lt (by omega)]
    refine (show plain (Mach.retireDie _ i (2 ^ k + 2 ^ l)) = _ from ?_)
    rw [Mach.retireDie_second hk hl hkl (by rw [State.served_bay]; exact hone)]
    rfl
  · exact exec_own_doing rfl (by simp [Instr.wf, hacc.1.1, fits]) hacc (acts_one _) rfl
  · exact exec_own_doing rfl (by simp [Instr.wf, hacc.1.1, fits]) hacc (acts_one _) rfl
  · refine exec_own_doing rfl (by simp [Instr.wf, hacc.1.1, fits]; omega) hacc (.inr (by decide)) ?_
    rw [leNat_leBytes_of_lt (by omega)]
    refine (show Mach.writeFence _ p v = _ from ?_)
    simp only [Mach.writeFence, State.served_viewBays, State.served_modState, hsee, hrun]
    rfl
  · refine exec_own_declined rfl (by simp [Instr.wf, hacc.1.1, fits]; omega) hacc (.inr (by decide)) ?_
    rw [leNat_leBytes_of_lt (by omega)]
    refine (show Mach.writeFence _ p v = _ from ?_)
    simp only [Mach.writeFence, State.served_viewBays, hsee]
    rfl

/-- Settles O33: flags, rules, STANDBY and the HDM decoder are written. -/
theorem flagsAndRulesAreWritten : Obligations.FlagsAndRulesAreWritten := by
  intro s p v
  refine ⟨fun hv hacc => ?_, fun hv hacc => ?_, fun b hb hacc => ?_, fun hv hacc => ?_, fun base size hwf => ?_⟩
  · refine exec_own_doing rfl (by simp [Instr.wf, hacc.1.1, fits]; omega) hacc (.inr (by decide)) ?_
    rw [leNat_leBytes_of_lt (by omega)]
    rfl
  · refine exec_own_doing rfl (by simp [Instr.wf, hacc.1.1, fits]; omega) hacc (.inr (by decide)) ?_
    rw [leNat_leBytes_of_lt (by omega)]
    refine (show accept (Mach.clearCause _ O.RULE_FIRED v (slotStart s.now)) = _ from ?_)
    simp (disch := decide) only [Mach.clearCause, State.served_obj, State.served_setSince]
  · exact exec_own_doing rfl (by simp [Instr.wf, hacc.1.1, hb]) hacc (.inr (by decide)) rfl
  · refine exec_own_doing rfl (by simp [Instr.wf, hacc.1.1, fits]; omega) hacc (.inr (by decide)) ?_
    rw [leNat_leBytes_of_lt (by omega)]
    rfl
  · refine guarded_next hwf ?_
    cases hlink : s.linkUp with
    | false => simp [hdmCommit, hlink]
    | true =>
      by_cases hsize : size = s.obj O.HDM_SIZE 0
      · simp [hdmCommit, hlink, Mach.commitHdm, hsize]
      · simp [hdmCommit, hlink, Mach.commitHdm, hsize]

theorem State.served_keepGap (s : State) (p : Path) (o i : Nat) (v : Bytes) (b : Nat) (x : TraceBuf) :
    (s.served p o i v).keepGap b x = s.keepGap b x := by
  have hlimit : (s.served p o i v).preLimit = s.preLimit := by
    simp (disch := decide) only [Mach.preLimit, State.served_obj]
  unfold Mach.keepGap
  rw [hlimit]

/-- Settles O34: the actions on a capture. -/
theorem traceActions : Obligations.TraceActions := by
  intro s p
  refine ⟨fun hacc hmode hcap => ?_, fun hacc hnot => ?_, fun hacc => ?_, fun hacc hstop => ?_, fun hacc hrun => ?_⟩
  · refine exec_own_doing rfl (by simp [Instr.wf, hacc.1.1, fits]) hacc (acts_one _)
      (show accept (Mach.fireTrigger _ _) = _ from ?_)
    simp (disch := decide) [Mach.fireTrigger, State.served_obj, hmode, hcap]
  · refine exec_own_doing (g := fun m => m) rfl (by simp [Instr.wf, hacc.1.1, fits]) hacc (acts_one _)
      (show accept (Mach.fireTrigger _ _) = _ from ?_)
    simp (disch := decide) only [Mach.fireTrigger, State.served_obj, State.served_trace]
    rw [if_neg (fun h => hnot.elim (absurd h.1) (absurd h.2))]
  · refine exec_own_doing rfl (by simp [Instr.wf, hacc.1.1, fits]) hacc (acts_one _)
      (show accept (Mach.finishCapture _) = _ from ?_)
    simp (disch := decide) only [Mach.finishCapture, Mach.captureOn, State.served_obj, State.served_trace]
  · refine exec_own_doing rfl (by simp [Instr.wf, hacc.1.1, fits]) hacc (acts_one _)
      (show Mach.restartCapture _ = _ from ?_)
    simp (disch := decide) [Mach.restartCapture, State.served_obj, State.served_keepGap, hstop]
  · refine exec_own_declined rfl (by simp [Instr.wf, hacc.1.1, fits]) hacc (acts_one _)
      (show Mach.restartCapture _ = _ from ?_)
    simp [Mach.restartCapture, decline, hrun]

end Sys2Proof.Machine

/-! PROOF. The field network (R317, R330 to R332): frames received and sent. -/

namespace Sys2Proof.Machine

open Sys2Proof

/-! ### Frames received -/

section
variable {m : Mach} {f : Frame} (hup : m.fieldUp = true) (hlink : m.obj O.FLD_LINK 0 ≠ 0)
include hup hlink

theorem Mach.receive_bad (hok : m.frameOk f = false) : m.receive f = m.bump O.FLD_DISCARDS 0 1 := by
  simp [Mach.receive, hup, hlink, hok]

theorem Mach.receive_request (hok : m.frameOk f = true) (hk : fld f.payload 3 1 = 1) : m.receive f = m.takeRequest f := by
  simp [Mach.receive, hup, hlink, hok, hk]

theorem Mach.receive_ack (hok : m.frameOk f = true) (hk : fld f.payload 3 1 = 5) : m.receive f = m.takeAck f := by
  simp [Mach.receive, hup, hlink, hok, hk]

end

/-- Settles O35: REQUEST and NOTICE_ACK by the checks of R330 and R331. -/
theorem framesAreReceived : Obligations.FramesAreReceived := by
  intro s f hf hup hlink
  refine ⟨fun hok hk => ⟨fun c hc => guarded_next hf ?_, fun hnew hheld => ⟨fun hroom => guarded_next hf ?_,
    fun hfull => guarded_next hf ?_⟩⟩, fun hok hk => guarded_next hf ?_,
    fun hbad => ⟨guarded_next hf ?_, guarded_next hf ?_⟩⟩
  · simp only [request, Mach.receive_request hup hlink hok hk, Mach.takeRequest, hc]
  · simp only [request, Mach.receive_request hup hlink hok hk, Mach.takeRequest, hnew, hheld, Nat.not_le.mpr hroom]
    rfl
  · simp only [request, Mach.receive_request hup hlink hok hk, Mach.takeRequest, hnew, hheld, hfull]
    rfl
  · simp only [noticeAck, Mach.receive_ack hup hlink hok hk]
    rfl
  · simp only [request, Mach.receive_bad hup hlink hbad]
  · simp only [noticeAck, Mach.receive_bad hup hlink hbad]

/-! ### Frames sent -/

theorem Mach.learn_ownAddress (m : Mach) (a : Nat) : (m.learn a).ownAddress = m.ownAddress := rfl
theorem Mach.learn_macOctet (m : Mach) (a i : Nat) : (m.learn a).macOctet i = m.macOctet i := rfl
theorem Mach.linkOption_two (m : Mach) :
    m.linkOption 2 = [2, 1] ++ (List.range 6).map fun i => BitVec.ofNat 8 (m.macOctet i) := rfl

/-- Settles O36: notices, transmit opportunities, the beacon, echoes and neighbour discovery. -/
theorem framesAreSent : Obligations.FramesAreSent := by
  intro s hup
  refine ⟨fun token n htoken hn => ?_, fun hlink => ⟨fun f hf => guarded_next (i := .transmitOpportunity) rfl ?_,
      fun hnone => guarded_next (i := .transmitOpportunity) rfl ?_⟩,
    fun k hk hseat => guarded_next (by simpa [Instr.wf] using hk) ?_, fun f hf hlink => guarded_next hf ?_,
    fun x hx hlink => ⟨fun hown hsol => guarded_next hx ?_, fun hown hsol => guarded_next hx ?_,
      fun hown hsol => guarded_next hx ?_, fun hown hsol => guarded_next hx ?_⟩⟩
  · intro first m
    have hwf : (Instr.noticeResend token).wf = true := by simpa [Instr.wf, fits] using htoken
    refine ⟨fun hlt hfirst => guarded_next hwf ?_, fun hzero hlater => guarded_next hwf ?_, fun hge => guarded_next hwf ?_⟩
    · simp only [noticeResend, hup, hn, Bool.not_true, Bool.false_eq_true, if_false]
      rw [if_neg (fun h => h.2 (hfirst h.1)), if_neg (Nat.not_le.mpr hlt)]
      rfl
    · simp only [noticeResend, hup, hn, Bool.not_true, Bool.false_eq_true, if_false]
      exact if_pos ⟨hzero, hlater⟩
    · simp only [noticeResend, hup, hn, Bool.not_true, Bool.false_eq_true, if_false]
      rw [if_neg (fun h => by omega), if_pos hge]
      rfl
  · simp only [transmitOpportunity, hup, hlink, hf, Bool.not_true, Bool.false_or, decide_false, Bool.false_eq_true, if_false]
    split <;> rfl
  · simp [transmitOpportunity, hup, hlink, hnone]
  · simp [plcaBeacon, hup, hseat]
  · simp only [icmpv6Echo, hup, hlink, Bool.not_true, Bool.false_or, decide_false, Bool.false_eq_true, if_false,
      Bool.and_eq_true, beq_iff_eq, decide_eq_true_eq, and_assoc]
    split <;> rfl
  · cases hdad : x.dad <;>
      simp [neighbourDiscovery, hup, hlink, hown, hsol, hdad, Mach.learn_ownAddress, Mach.linkOption_two, Mach.learn_macOctet]
  · simp [neighbourDiscovery, hup, hlink, hown, hsol]
  · simp [neighbourDiscovery, hup, hlink, hown, hsol]
  · simp [neighbourDiscovery, hup, hlink, hown, hsol]

end Sys2Proof.Machine

/-! PROOF. Transfers of COPY and MULTICAST, their queues, and the pieces tiles lend (R131, R265, R266, R269, R270,
R276). -/

namespace Sys2Proof.Machine

open Sys2Proof

/-! ### Searches -/

section
variable {α β : Type} {f : α → Option β} {p : β → Bool} {g : α → Option (α × β)}
  (hg : ∀ q, g q = (f q).bind fun x => if p x then some (q, x) else none) {l : List α}
include hg

/-- A search for the first item whose answer passes a test finds that item with its answer. -/
theorem findSome_of_find {a : α} {x : β} (h : l.find? (fun q => (f q).any p) = some a) (hx : f a = some x) :
    l.findSome? g = some (a, x) := by
  obtain ⟨hp, l₁, l₂, rfl, hfirst⟩ := List.find?_eq_some_iff_append.mp h
  refine List.findSome?_eq_some_iff.mpr ⟨l₁, a, l₂, rfl, ?_, fun q hq => ?_⟩
  · simp_all
  · have hq := hfirst q hq
    cases hf : f q with
    | none => simp [hg, hf]
    | some y => simp_all

theorem findSome_none_of_find (h : l.find? (fun q => (f q).any p) = none) : l.findSome? g = none := by
  refine List.findSome?_eq_none_iff.mpr fun q hq => ?_
  have hp := List.find?_eq_none.mp h q hq
  cases hf : f q with
  | none => simp [hg, hf]
  | some x => simp_all

end

/-- The first number from `a` on with an answer is found among `n`. -/
theorem findSome_range {β : Type} {f : Nat → Option β} {a n t : Nat} {x : β} (hlo : a ≤ t) (hhi : t < a + n)
    (hnone : ∀ u, a ≤ u → u < t → f u = none) (h : f t = some x) :
    ((List.range n).map (a + ·)).findSome? f = some x := by
  refine List.findSome?_eq_some_iff.mpr
    ⟨(List.range (t - a)).map (a + ·), t, ((List.range (n - (t - a) - 1)).map (t + 1 + ·)), ?_, h, fun u hu => ?_⟩
  · have hn : n = t - a + (1 + (n - (t - a) - 1)) := by omega
    have ht : a + (t - a) = t := by omega
    conv => lhs; rw [hn, List.range_add, List.range_add]
    simp [ht, Function.comp_def, ← Nat.add_assoc]
  · obtain ⟨i, hi, rfl⟩ := List.mem_map.mp hu
    exact hnone _ (by omega) (by have := List.mem_range.mp hi; omega)

/-- Settles O37: transfers issue and land, queues age, members drop, pieces are lent and given up. -/
theorem transfersAndLoans : Obligations.TransfersAndLoans := by
  intro s b hb
  refine ⟨fun hiss hroom => ?_, fun ticket errs t a w herrs hm hiss ht ha hw => ⟨fun htime => ?_, fun d hc hd hlate => ?_⟩,
    fun id q a w hid hq hhead hdry hturn => guarded_next (by simp [Instr.wf, okBay, hb, hid]) ?_,
    fun id tile a w hid htile ha hw hmem hmc hleft hheld => guarded_next (by simp [Instr.wf, okTile, hid, htile]) ?_,
    fun q home rest t k hlend hhome hlo hhi hnone hk => guarded_next (by simp [Instr.wf, okBay, hb]) ?_,
    fun t errs ht herrs hm => ⟨fun hbusy => held_next (by simp [Instr.wf, okTile, ht, herrs]) hm ?_,
      fun hidle => held_next (by simp [Instr.wf, okTile, ht, herrs]) hm ?_⟩⟩
  · intro qs
    refine ⟨fun q a w off n tile hfind hnext => guarded_next (by simp [Instr.wf, okBay, hb]) ?_,
      fun hfind => guarded_next (by simp [Instr.wf, okBay, hb]) ?_⟩
    · simp only [transferIssue, hiss, Nat.not_le.mpr hroom]
      rw [findSome_of_find (f := s.queueNext) (p := s.mayIssue) (fun q => by cases s.queueNext q <;> rfl) hfind hnext]
      rfl
    · simp only [transferIssue, hiss, Nat.not_le.mpr hroom]
      rw [findSome_none_of_find (f := s.queueNext) (p := s.mayIssue) (fun q => by cases s.queueNext q <;> rfl) hfind]
      refine congrArg (fun f => Host.Outcome.next (s.wakeBays (qs.flatMap f))) (funext fun q => ?_)
      cases s.queueNext q <;> rfl
  · intro m
    refine held_next (by simp [Instr.wf, okBay, hb, herrs]) hm ?_
    rcases htime with hc | hle
    · simp [transferDone, ht, ha, hw, hiss, hc, m]
    · cases hd : w.deadline with
      | none => simp [transferDone, ht, ha, hw, hiss, hd, m]
      | some d => simp [transferDone, ht, ha, hw, hiss, hd, Nat.not_lt.mpr (hle d hd), m]
  · refine held_next (by simp [Instr.wf, okBay, hb, herrs]) hm ?_
    simp [transferDone, ht, ha, hw, hiss, hc, hd, hlate]
  · simp [dryTimeAging, hq, hhead, hdry, hturn]
  · simp only [multicastDrop, ha, hw, hmem, hmc, hleft, hheld, decide_true, Bool.and_self, Bool.not_true, Bool.false_eq_true,
      if_false]
    rfl
  · simp only [lentBind, hlend, hhome]
    rw [findSome_range hlo hhi (fun u h1 h2 => by rw [hnone u h1 h2]; rfl) (x := (t, k)) (by rw [hk]; rfl)]
    rfl
  · simp [lentRevoke, hbusy]
  · simp [lentRevoke, hidle]

end Sys2Proof.Machine

/-! PROOF. Stored data: patrol scrub, write-backs and packages rewritten blank (R286, R287, R296, R300, R306, R307). -/

namespace Sys2Proof.Machine

open Sys2Proof

theorem Mach.setEpoch_part (m : Mach) (b e q : Nat) : (m.setEpoch b e).part q = m.part q := rfl

/-- Settles O38: scrub reads, write-backs write, and a package is rewritten blank. -/
theorem storedDataIsKept : Obligations.StoredDataIsKept := by
  intro s b hb
  refine ⟨fun o ho => ⟨fun hen hrun => ?_, fun hrun => ?_⟩,
    fun a o ha ho hen => ⟨fun hrun hvalid hpoison => ?_, fun hrun => ?_⟩,
    fun o ho hen => ⟨fun hrun => ?_, fun t ht hrun => ?_⟩, fun l w hl hw => ⟨fun hrun => ?_, fun hrun => ?_⟩, fun a ha => ?_,
    fun q hq => ⟨_, rfl, ?_⟩⟩
  · intro l m
    refine guarded_next (by simp [Instr.wf, okBay, hb, ho]) ?_
    simp [scrubLine, hen, hrun, l, m]
  · exact guarded_next (by simp [Instr.wf, okBay, hb, ho]) (by simp [scrubLine, hrun])
  · exact guarded_next (by simp [Instr.wf, SramWord.ok, ha, ho]) (by simp [sramScrub, hen, hrun, hvalid, hpoison])
  · exact guarded_next (by simp [Instr.wf, SramWord.ok, ha, ho]) (by simp [sramScrub, hen, hrun])
  · exact guarded_next (by simp [Instr.wf, SramWord.ok, okBay, hb, ho]) (by simp [sramScrub, hen, hrun])
  · exact guarded_next (by simp [Instr.wf, SramWord.ok, okTile, ht, ho]) (by simp [sramScrub, hen, hrun])
  · refine guarded_next (by simpa [Instr.wf] using hl) ?_
    cases w with
    | corrected => simp [lineWriteBack, hrun, hw]
    | blank => simp [lineWriteBack, hrun, hw]
    | poison =>
      simp [lineWriteBack, hrun, hw]
      rfl
  · exact guarded_next (by simpa [Instr.wf] using hl) (by simp [lineWriteBack, hrun])
  · refine guarded_next (by simp [Instr.wf, ha]) ?_
    cases hrun : s.sequencerRuns (addrBay a) <;> simp [sramWriteBack, hrun]
  · refine guarded_next (by simp [Instr.wf, okBay, hb]) ?_
    simp only [packageBlankRewrite, hq, Mach.setEpoch_part]
    have hpart : ∀ mem lines backs,
        { s.toMach with mem := mem, lines := lines, writeBacks := backs }.part q = s.part q := fun _ _ _ => rfl
    simp only [hpart]
    cases sdel (s.part q).blanking b <;> rfl

end Sys2Proof.Machine

/-! PROOF. The reduction chain and the passes of an UPDATE (R170 to R177, R205). -/

namespace Sys2Proof.Machine

open Sys2Proof

/-- Settles O40: blocks go down the chain and are written, and a TWO_PASS agrees and applies its shards. -/
theorem blocksAndPasses : Obligations.BlocksAndPasses := by
  intro s id a hid hm ha
  refine ⟨fun w bay q inc hits errs hw hbay hhits herrs hq hleft hinc hhas => ?_, fun w l hw hl => held_next hid hm ?_,
    fun w r hw hmode hphase hr => held_next hid hm ?_, fun w hw hmode hphase hr => held_next hid hm ?_,
    fun w bay q errs hw hbay herrs hq hphase hnew hiss hawake => ?_⟩
  · refine held_next (by simp [Instr.wf, okBay, hid, hbay, hhits, herrs]) hm ?_
    have hgo : ¬ (a.cmd.rBlocks ≤ w.doneAt.getD q 0 ∨ q ≠ 0 ∧ inc.isNone = true) := by
      rintro (h | ⟨hq0, hnone⟩)
      · omega
      · obtain ⟨x, hx⟩ := Option.isSome_iff_exists.mp (hhas.resolve_left hq0)
        rw [hx] at hnone
        exact Bool.false_ne_true hnone
    simp only [reduceBayBlock, ha, hw, hq, ← hinc, ge_iff_le]
    rw [if_neg hgo]
    cases s.awake a <;> cases s.bayReady bay <;> rfl
  · simp only [reduceResultBlock, ha, hw, hl]
    split <;> rfl
  · simp [updateAgreement, ha, hw, hmode, hphase, hr]
  · simp [updateAgreement, ha, hw, hmode, hphase, hr]
  · refine held_next (by simp [Instr.wf, okBay, hid, hbay, herrs]) hm ?_
    simp only [updatePass2, ha, hw, hq]
    rw [if_neg (by simp [hphase, hiss, hawake]; simpa using hnew)]

end Sys2Proof.Machine

/-! PROOF. The pointing stream's hold (R359). The last claim about records is made of every module, also of one whose
dictionary holds a key twice, which no step builds; there the counter reads its second entry once the first is gone. -/

namespace Sys2Proof.Machine

open Sys2Proof

/-- A stream that is PAIRED. -/
def pairedState : State := { State.reset with pair := { Pair.reset with state := .paired } }

/-- A module that has held a write since its time 0, whose dictionary holds PS_HOLD_NS twice: as 0, which is what it
reads, and as 2. -/
def twiceHeld : Mach :=
  { Mach.reset with
    dict := [(oKey O.PS_HOLD_NS 0, 0), (oKey O.PS_HOLD_NS 0, 2)]
    pair := { Pair.reset with heldSince := some 0 } }

/-- Refutes O41: where the dictionary holds PS_HOLD_NS twice, as 0 and as 2, a hold of 0 ns that ends takes the first
entry out, and the counter reads 2 and not 0. -/
theorem not_recordsAreMirrored : ¬ Obligations.RecordsAreMirrored := by
  intro h
  obtain ⟨-, -, -, -, -, hcount⟩ := h pairedState (.inr rfl)
  obtain ⟨-, hread⟩ := hcount twiceHeld 0 rfl (by decide)
  exact absurd hread (by decide)

end Sys2Proof.Machine

/-! PROOF. The handshake of a pair (R361, R362, R385, R386): heartbeats, timeouts and messages. -/

namespace Sys2Proof.Machine

open Sys2Proof

/-! ### A message that counts -/

section
variable {s : State} {b : Bytes}

/-- A fragment whose NUMBER has changed is heard, and does what its kind says. -/
theorem hears_next {i : Instr} {kind : Nat} {k : Bytes → Mach → Mach} (h : s.hears kind b) (hw : i.wf = fragmentOk b) :
    guarded i (fun m => psMessage kind b m k) s = .next (s.after (k (payload b) (s.heard b))) := by
  obtain ⟨hok, hkind, hnew, hstate, hlen⟩ := h
  refine guarded_next (hw.trans hok) ?_
  have hstale : ¬ (fld b 8 8 = (s.setWindow handshakeOff b).pair.seenNumber ∨
      (s.setWindow handshakeOff b).pair.state = .unpaired ∨ fld b 4 2 > 4064) := by
    rintro (h | h | h)
    · exact hnew h
    · exact hstate h
    · omega
  simp only [psMessage, hkind]
  rw [if_neg (not_not_intro rfl), if_neg hstale]
  rfl

theorem State.heard_eq (s : State) (b : Bytes) :
    ∃ w n, s.heard b = { s.toMach with window := w, pair := { s.pair with seenNumber := n } } := by
  unfold State.heard Mach.setWindow Mach.setPair
  exact ⟨_, _, rfl⟩

/-- What does not read the window or the NUMBER reads the same in a module that has heard a message. -/
theorem State.heard_frame {α : Type} (s : State) (b : Bytes) (F : Mach → α) (hF : ∀ w n,
    F { s.toMach with window := w, pair := { s.pair with seenNumber := n } } = F s.toMach) :
    F (s.heard b) = F s.toMach := by
  obtain ⟨w, n, h⟩ := s.heard_eq b
  rw [h, hF]

theorem State.heard_state : (s.heard b).pair.state = s.pair.state := s.heard_frame b (·.pair.state) fun _ _ => rfl
theorem State.heard_obj (o i : Nat) : (s.heard b).obj o i = s.obj o i := s.heard_frame b (·.obj o i) fun _ _ => rfl
theorem State.heard_psBays : (s.heard b).psBays = s.psBays := s.heard_frame b Mach.psBays fun _ _ => rfl
theorem State.heard_psPart : (s.heard b).psPart = s.psPart := s.heard_frame b Mach.psPart fun _ _ => rfl
theorem State.heard_psPrimary : (s.heard b).psPrimary = s.psPrimary := s.heard_frame b Mach.psPrimary fun _ _ => rfl
theorem State.heard_kemDraw : (s.heard b).pair.kemDraw = s.pair.kemDraw := s.heard_frame b (·.pair.kemDraw) fun _ _ => rfl
theorem State.heard_confirmValue : (s.heard b).pair.confirmValue = s.pair.confirmValue :=
  s.heard_frame b (·.pair.confirmValue) fun _ _ => rfl
theorem State.heard_awaiting : (s.heard b).pair.awaiting = s.pair.awaiting := s.heard_frame b (·.pair.awaiting) fun _ _ => rfl
theorem State.heard_confirmed : (s.heard b).pair.confirmed = s.pair.confirmed :=
  s.heard_frame b (·.pair.confirmed) fun _ _ => rfl
theorem State.heard_outFrags : (s.heard b).pair.outFrags = s.pair.outFrags := s.heard_frame b (·.pair.outFrags) fun _ _ => rfl

end

/-- An acknowledgement is a write into the partner's window, under the next NUMBER. -/
theorem Mach.sendAck_eq (m : Mach) (b : Bytes) : ∃ mem marks, m.sendAck b = { m with
    mem := mem, hostPoison := marks, pair := { m.pair with sentNumber := m.pair.sentNumber + 1 } } := by
  have hkind : ¬ fld (fragment 7 0 1 (bytesAt b 8 8)) 0 1 < 5 := by
    simp [fragment, List.append_assoc, fld_leBytes_append]
  have hne : patch (fragment 7 0 1 (bytesAt b 8 8)) 8 (leBytes 8 (m.pair.sentNumber + 1)) ≠ [] := by
    simp [patch, leBytes]
  unfold Mach.sendAck Mach.putFragment Mach.peerWrite
  dsimp only
  rw [if_neg hkind]
  obtain ⟨_, _, h⟩ := Mach.wr_hostAddr (m.setPair { m.pair with
    sentNumber := m.pair.sentNumber + 1, awaiting := m.pair.awaiting })
    (m.obj O.PS_PEER_BAR4 0 + handshakeOff) false hne
  exact ⟨_, _, h⟩

theorem Mach.sendAck_pair (m : Mach) (b : Bytes) :
    (m.sendAck b).pair = { m.pair with sentNumber := m.pair.sentNumber + 1 } := by
  obtain ⟨_, _, h⟩ := m.sendAck_eq b
  rw [h]

/-- Settles O42: heartbeats, timeouts, and the messages of a handshake but REPORT and ENCAP. -/
theorem pairsShakeHandsAndPart : Obligations.PairsShakeHandsAndPart := by
  intro s
  refine ⟨fun hlive => ⟨fun m hm => guarded_next (i := .heartbeat) rfl ?_, guarded_next (i := .psPeerTimeout) rfl ?_⟩,
    fun hstate hseen => guarded_next (i := .psHandshakeTimeout) rfl ?_,
    fun t ht hin => guarded_next (by simpa [Instr.wf, fits] using ht) ?_, fun b => ⟨fun h hstate =>
      ⟨fun hbays => ?_, fun hbays hrole => ?_, fun hbays hrole hprim r hr => ?_, fun hbays hrole hprim => ?_⟩,
      fun h hstate hprim => ?_, fun h hstate hprim => ?_, fun h hstate => ?_, fun h hstate => ?_, fun h hwait m hm => ?_⟩⟩
  · simp [heartbeat, hlive, hm, heartbeatOff]
  · simp [psPeerTimeout, hlive]
  · simp [psHandshakeTimeout, hstate, hseen]
  · simp [peerHeartbeat, hin, heartbeatOff]
  · refine (hears_next (i := .hello b) h rfl).trans (congrArg (fun m => Host.Outcome.next (s.after m)) ?_)
    simp [State.heard_state, State.heard_psBays, hstate, hbays]
  · refine (hears_next (i := .hello b) h rfl).trans (congrArg (fun m => Host.Outcome.next (s.after m)) ?_)
    simp [State.heard_state, State.heard_psBays, State.heard_obj, hstate, hbays, hrole]
  · refine (hears_next (i := .hello b) h rfl).trans (congrArg (fun m => Host.Outcome.next (s.after m)) ?_)
    simp [State.heard_state, State.heard_psBays, State.heard_obj, State.heard_psPrimary, hstate, hbays, hrole, hprim,
      State.heard_kemDraw, State.heard_psPart, Mach.sendAck_pair, ← hr]
  · refine (hears_next (i := .hello b) h rfl).trans (congrArg (fun m => Host.Outcome.next (s.after m)) ?_)
    simp [State.heard_state, State.heard_psBays, State.heard_obj, State.heard_psPrimary, hstate, hbays, hrole, hprim]
  · refine (hears_next (i := .confirm b) h rfl).trans (congrArg (fun m => Host.Outcome.next (s.after m)) ?_)
    simp only [State.heard_state, State.heard_psPrimary, State.heard_confirmValue, hstate, hprim]
    by_cases hv : s.pair.confirmValue = []
    · simp [hv]
    · simp [hv]
  · refine (hears_next (i := .sweepDone b) h rfl).trans (congrArg (fun m => Host.Outcome.next (s.after m)) ?_)
    simp [State.heard_state, State.heard_psPrimary, hstate, hprim]
  · refine (hears_next (i := .close b) h rfl).trans (congrArg (fun m => Host.Outcome.next (s.after m)) ?_)
    simp [State.heard_state, hstate]
  · refine (hears_next (i := .close b) h rfl).trans (congrArg (fun m => Host.Outcome.next (s.after m)) ?_)
    rcases hstate with hstate | hstate <;> simp [State.heard_state, hstate]
  · refine (hears_next (i := .ack b) h rfl).trans (congrArg (fun m => Host.Outcome.next (s.after m)) ?_)
    subst hm
    simp [State.heard_awaiting, State.heard_state, State.heard_confirmed, State.heard_outFrags, hwait]

/-! ### REPORT and ENCAP -/

theorem State.heard_gathered (s : State) (b : Bytes) : (s.heard b).pair.gathered = s.pair.gathered :=
  s.heard_frame b (·.pair.gathered) fun _ _ => rfl
theorem State.heard_hashM (s : State) (b : Bytes) : (s.heard b).pair.hashM = s.pair.hashM :=
  s.heard_frame b (·.pair.hashM) fun _ _ => rfl
theorem State.heard_hashP (s : State) (b : Bytes) : (s.heard b).pair.hashP = s.pair.hashP :=
  s.heard_frame b (·.pair.hashP) fun _ _ => rfl
theorem State.heard_nonce (s : State) (b : Bytes) : (s.heard b).pair.nonce = s.pair.nonce :=
  s.heard_frame b (·.pair.nonce) fun _ _ => rfl

/-- The acknowledgement leaves role and bays as they are. -/
theorem Mach.sendAck_psPrimary (m : Mach) (b : Bytes) : (m.sendAck b).psPrimary = m.psPrimary := by
  obtain ⟨_, _, h⟩ := m.sendAck_eq b
  rw [h]
  rfl

theorem Mach.sendAck_psBays (m : Mach) (b : Bytes) : (m.sendAck b).psBays = m.psBays := by
  obtain ⟨_, _, h⟩ := m.sendAck_eq b
  rw [h]
  rfl

theorem Mach.setPair_psPrimary (m : Mach) (p : Pair) : (m.setPair p).psPrimary = m.psPrimary := rfl
theorem Mach.setPair_psBays (m : Mach) (p : Pair) : (m.setPair p).psBays = m.psBays := rfl

/-- Settles O43: REPORT is gathered and checked, and ENCAP gives the pair key. -/
theorem pairsExchangeReportsAndKeys : Obligations.PairsExchangeReportsAndKeys := by
  intro s b hstate
  refine ⟨fun r m nonce h hr hm hnonce => ?_, fun h hprim hnone => ?_, fun x h hprim hsome hx => ?_⟩
  · have hprimary : m.psPrimary = s.psPrimary := by
      rw [hm, Mach.sendAck_psPrimary, Mach.setPair_psPrimary, State.heard_psPrimary]
    have hbays : m.psBays = s.psBays := by rw [hm, Mach.sendAck_psBays, Mach.setPair_psBays, State.heard_psBays]
    have hpair : m.pair.hashM = s.pair.hashM ∧ m.pair.nonce = s.pair.nonce := by
      rw [hm, Mach.sendAck_pair, Mach.setPair_pair]
      dsimp only
      exact ⟨s.heard_hashM b, s.heard_nonce b⟩
    have hnonce' : (if s.psPrimary then leBytes 32 (Config.trng m.pair.nonce) else m.pair.hashM) = nonce := by
      rw [hpair.1, hpair.2, hnonce]
    have hexec : exec (.report b) s = .next (s.after
        (if fld b 1 1 + 1 < fld b 2 1 then m
         else if fld r 8 2 ≠ maskOf s.psBays then m.psFailClose rPARTITION O.PS_PARTITION
         else if !m.reportOk r nonce then m.psFailClose rKEY O.PAIR_PEER_ID
         else if s.psPrimary then m.primaryReport r
         else m.setPair { m.pair with hashP := hash256 (bytesAt r 0 1536), gathered := [] })) := by
      refine (hears_next (i := .report b) h rfl).trans (congrArg (fun m => Host.Outcome.next (s.after m)) ?_)
      have hgo : ¬ (s.heard b).pair.state ≠ .handshake := not_not_intro (State.heard_state.trans hstate)
      simp only [if_neg hgo, State.heard_gathered, ← hr, ← hm, hprimary, hbays, hnonce']
    refine ⟨fun hmore => ?_, fun hlast hbad => ?_, fun hlast hgood => ?_⟩
    · rw [hexec, if_pos hmore]
    · rw [hexec, if_neg (Nat.not_lt.mpr hlast), if_pos hbad]
    · rw [hexec, if_neg (Nat.not_lt.mpr hlast), if_neg (not_not_intro hgood)]
      cases m.reportOk r nonce <;> rfl
  · refine (hears_next (i := .encap b) h rfl).trans (congrArg (fun m => Host.Outcome.next (s.after m)) ?_)
    simp [State.heard_state, State.heard_psPrimary, State.heard_hashP, hstate, hprim, hnone]
  · refine (hears_next (i := .encap b) h rfl).trans (congrArg (fun m => Host.Outcome.next (s.after m)) ?_)
    simp [State.heard_state, State.heard_psPrimary, State.heard_hashP, State.heard_hashM, State.heard_kemDraw, hstate, hprim,
      hsome, ← hx]

end Sys2Proof.Machine

/-! PROOF. The host link (R337, R339, R343, R345, R347): training, loss, resets and failed reads; and the HDM window
(R348). -/

namespace Sys2Proof.Machine

open Sys2Proof

/-! ### Journals stopped by the loss of the link -/

theorem Mach.Records.journals {m n : Mach} (h : m.Records n) : n.journals = m.journals := by
  obtain ⟨_, _, _, _, _, _, _, rfl⟩ := h
  rfl

theorem Mach.stopJournal_running {m : Mach} {j : Nat} (h : (m.journal j).state = .running) (reason : Nat) :
    (m.stopJournal j reason).journals = mset m.journals j { m.journal j with state := .stopped } := by
  unfold Mach.stopJournal
  extract_lets x p y
  rw [if_pos h]
  exact (y.eventTo_records _ _ none 2 reason _ 0 0 x.consumed).journals

theorem Mach.stopJournal_idle {m : Mach} {j : Nat} (h : (m.journal j).state ≠ .running) (reason : Nat) :
    m.stopJournal j reason = m := if_neg h

theorem Mach.stopJournal_state (m : Mach) (j reason : Nat) : ((m.stopJournal j reason).journal j).state ≠ .running := by
  by_cases h : (m.journal j).state = .running
  · rw [Mach.journal, Mach.stopJournal_running h, mgetD_mset_self]
    simp
  · rwa [Mach.stopJournal_idle h]

theorem Mach.stopJournal_keeps (m : Mach) (j reason : Nat) {k : Nat} (h : (m.journal k).state ≠ .running) :
    ((m.stopJournal j reason).journal k).state ≠ .running := by
  by_cases hj : (m.journal j).state = .running
  · have hkj : k ≠ j := fun e => h (e ▸ hj)
    rwa [Mach.journal, Mach.stopJournal_running hj, mgetD_mset_other _ _ _ hkj]
  · rwa [Mach.stopJournal_idle hj]

/-- Journals that are stopped in turn are none of them RUNNING. -/
theorem Mach.stopAll_state (reason : Nat) {k : Nat} (l : List Nat) (m : Mach)
    (h : k ∈ l ∨ (m.journal k).state ≠ .running) :
    ((l.foldl (fun x j => x.stopJournal j reason) m).journal k).state ≠ .running := by
  induction l generalizing m with
  | nil => simpa using h
  | cons j l ih =>
    refine ih _ ?_
    rcases h with h | h
    · rcases List.mem_cons.mp h with rfl | h
      · exact .inr (m.stopJournal_state k reason)
      · exact .inl h
    · exact .inr (m.stopJournal_keeps j reason h)

/-! ### Losing the link -/

theorem Mach.bump_journal (m : Mach) (o i n j : Nat) : (m.bump o i n).journal j = m.journal j := rfl

theorem State.after_self (s : State) : s.after s.toMach = s := by
  simp [State.after]

theorem Mach.tryTrain_of_down {m : Mach} (h : m.obj O.LINK_STATE 0 = 0) : m.tryTrain = m.retrain := if_pos h
theorem Mach.tryTrain_of_up {m : Mach} (h : m.obj O.LINK_STATE 0 ≠ 0) : m.tryTrain = m := if_neg h

/-- Settles O44: training, loss and resets of the link, and host reads that return nothing. -/
theorem linkEventsAct : Obligations.LinkEventsAct := by
  intro s
  refine ⟨fun mode width speed hwf => ⟨fun htrain => guarded_next hwf ?_, fun hno => ?_⟩,
    fun m n hm hn => ⟨fun h1 h2 => ?_, fun hup => ⟨?_, fun j hj => ?_⟩,
      guarded_next (i := .linkDown) (r := Sys2Proof.Machine.linkDown) rfl rfl⟩,
    fun m hm => ⟨fun hrun => guarded_next (i := .perstAssert) (r := Sys2Proof.Machine.perstAssert) rfl ?_,
      fun hrun => guarded_next (i := .perstAssert) (r := Sys2Proof.Machine.perstAssert) rfl ?_⟩,
    fun m hm => ⟨fun hdown => guarded_next (i := .perstRelease) (r := Sys2Proof.Machine.perstRelease) rfl ?_,
      fun hup => guarded_next (i := .perstRelease) (r := Sys2Proof.Machine.perstRelease) rfl ?_⟩,
    fun vf m hlo hhi hm => ⟨fun hrun => guarded_next (by simp [Instr.wf, hlo, hhi]) ?_,
      fun hrun => guarded_next (by simp [Instr.wf, hlo, hhi]) ?_⟩,
    fun m n hm hn => ⟨fun hrun => guarded_next (i := .pf0Flr) rfl ?_,
      fun hrun hpow => guarded_next (i := .pf0Flr) rfl ?_, fun hrun hpow => ?_⟩,
    fun id m hid hm => ⟨fun c hc => guarded_next hid ?_, fun a w hnone ha hw hsrc => guarded_next hid ?_,
      fun a o hnone ha hw hcopy ho => guarded_next hid ?_⟩⟩
  · obtain ⟨-, hwidth, -⟩ : (mode = 1 ∨ mode = 2) ∧ width ∈ [1, 2, 4, 8, 16] ∧ speed ∈ [8, 16, 32] := by
      simpa [Instr.wf, and_assoc] using hwf
    have hlanes : linkWidths.contains width = !decide (width < 4) :=
      (by decide : ∀ w ∈ [1, 2, 4, 8, 16], linkWidths.contains w = !decide (w < 4)) width hwidth
    simp only [linkUp, htrain, hlanes]
    by_cases hw : width < 4 <;> simp [hw]
  · exact (guarded_next hwf (by simp [linkUp, hno])).trans (congrArg _ s.after_self)
  · simp [Mach.loseLink, Mach.retrain, h1, h2, hm]
  · have hcopies : ({ m with devCache := [] } : Mach).hostCopies = m.hostCopies := rfl
    simp only [Mach.loseLink, Mach.retrain, if_pos hup, ← hm, hcopies, ← hn] <;> rfl
  · have hstop : ∃ x : Mach, s.loseLink =
        ((List.range 64).foldl (fun x j => x.stopJournal j rLINK) x).bump O.LINK_DOWNS 0 1 := by
      unfold Mach.loseLink
      extract_lets up
      rw [if_pos hup]
      exact ⟨_, rfl⟩
    obtain ⟨x, hx⟩ := hstop
    rw [hx, Mach.bump_journal]
    exact x.stopAll_state rLINK _ (.inl (List.mem_range.mpr hj))
  · rw [hm]
    simp only [perstAssert, hrun, if_true]
  · rw [hm]
    simp only [perstAssert, hrun, if_false]
  · have hpow : m.linkPowered = s.linkPowered ∧ m.plinth.perst = true := by
      rw [hm]
      exact ⟨rfl, rfl⟩
    have hretrain : m.tryTrain = m.setLink (if s.linkPowered then 3 else 0) 0 0 := by
      rw [Mach.tryTrain_of_down (by rw [hm]; exact hdown), Mach.retrain, hpow.1, hpow.2, Bool.and_true]
    rw [← hretrain, hm]
    rfl
  · have hkept : m.tryTrain = m := Mach.tryTrain_of_up (by rw [hm]; exact hup)
    rw [← hkept, hm]
    rfl
  · simp [vfFlr, hrun, hm, Mach.resetFunction]
  · simp [vfFlr, hrun, hm, Mach.resetFunction]
  · simp only [pf0Flr, hrun, Mach.resetPf0, Mach.resetFunctions, ← hm, ← hn]
    exact if_neg (not_not_intro rfl)
  · simp [pf0Flr, hrun, hpow, Mach.resetFunctions, ← hm]
  · exact (guarded_next (i := .pf0Flr) rfl (by simp [pf0Flr, hrun, hpow])).trans (congrArg _ s.after_self)
  · simp [hostReadTimeout, hc, hm]
  · simp [hostReadTimeout, hnone, ha, hw, hsrc, hm]
  · simp only [hostReadTimeout, hnone, ha, hw, ho, ← hm]

/-! ### The HDM window -/

/-- Settles O45: the committed range is read and written while the window is enabled. -/
theorem windowIsReadAndWritten : Obligations.WindowIsReadAndWritten := by
  intro s addr base a errs m hcom hlo hhi hfit hal hlink ha herrs hm
  have hat : s.hdmAt addr 64 = some a := by simp [Mach.hdmAt, hcom, hlo, hhi, ha]
  have hread : (Instr.hdmRead addr 64 errs).wf = true := by simpa [Instr.wf, fits, hal] using ⟨hfit, List.all_eq_true.mp herrs⟩
  refine ⟨fun hon => guarded_next hread ?_, fun hoff => guarded_next hread ?_, fun d poison hd hmir => ?_⟩
  · simp [hdmRead, hat, hlink, hon, hm]
  · simp [hdmRead, hat, hlink, hoff]
  · have hwrite : (Instr.hdmWrite addr d poison errs).wf = true := by
      simpa [Instr.wf, fits, hal, hd] using ⟨hfit, List.all_eq_true.mp herrs⟩
    refine ⟨fun hon => held_next hwrite hmir ?_, fun hoff => held_next hwrite hmir ?_⟩
    · simp [hdmWrite, hd, hat, hlink, hon, hm]
    · simp [hdmWrite, hd, hat, hlink, hoff]

end Sys2Proof.Machine

/-! PROOF. The plinth (R393 to R402, R410, R413 to R419, R472): the input, samples, the governor, droops and PLLs. -/

namespace Sys2Proof.Machine

open Sys2Proof

/-! ### Objects that are stored -/

/-- A bit of ALERT_CAUSE that is set stands in the dictionary. -/
theorem Mach.alert_standsAt (m : Mach) (bit : Nat) :
    StandsAt (m.alert bit).dict (oKey O.ALERT_CAUSE 0) (some (m.obj O.ALERT_CAUSE 0 ||| 2 ^ bit)) := by
  have hdefault : ((objRow (oKey O.ALERT_CAUSE 0 / 256) (oKey O.ALERT_CAUSE 0 % 256)).map (·.default)).getD 0 = 0 := by
    decide
  refine Mach.standsAt_setObj_self (m := m) fun h => ?_
  rw [hdefault] at h
  have hbit := congrArg (Nat.testBit · bit) h
  simp at hbit

theorem Mach.alert_obj (m : Mach) (bit : Nat) : (m.alert bit).obj O.ALERT_CAUSE 0 = m.obj O.ALERT_CAUSE 0 ||| 2 ^ bit :=
  Mach.obj_of_standsAt (m.alert_standsAt bit)

/-! ### The governor (R414, R415) -/

section
variable (m : Mach) (above : Nat)

theorem Mach.setLevel_stops (h : m.plinth.level ≠ 16) : m.setLevel 16 above =
    ((m.setPlinth { m.plinth with level := 16, overCount := above }).setPlinth
      { m.plinth with level := 16, overCount := above, pausedSince := some m.now }).alert 2 := by
  unfold Mach.setLevel
  dsimp only
  rw [if_pos ⟨rfl, h⟩]
  rfl

theorem Mach.setLevel_goes {level : Nat} (h : level ≠ 16) (h16 : m.plinth.level = 16) : m.setLevel level above =
    ((m.setPlinth { m.plinth with level := level, overCount := above }).setPlinth
      { m.plinth with level := level, overCount := above, pausedNs := m.paused, pausedSince := none }).startUpdates := by
  unfold Mach.setLevel
  dsimp only
  rw [if_neg (fun hc => h hc.1), if_pos ⟨h, h16⟩]
  rfl

theorem Mach.setLevel_stays {level : Nat} (h : level = 16 ↔ m.plinth.level = 16) : m.setLevel level above =
    m.setPlinth { m.plinth with level := level, overCount := above } := by
  unfold Mach.setLevel
  dsimp only
  rw [if_neg (fun hc => hc.2 (h.mp hc.1)), if_neg (fun hc => hc.1 (h.mpr hc.2))]

end

theorem guardedRaw_next {i : Instr} {r : Mach → Res} {s : State} {m : Mach} (hw : i.wf = true)
    (h : r s.toMach = .next m) : guardedRaw i r s = .next { m with pending := s.pending } := by
  simp only [guardedRaw, hw, if_true, State.liftRaw, h]

theorem governorInterval_eq {m n y : Mach} {act : List (Nat × Nat)} {energy t : Nat} {r : Nat × Nat} (hup : m.plinthUp = true)
    (henergy : energy = (act.filter fun e => m.modState == .run && (m.bay e.1).power == .run).foldl (fun k e => k + e.2) 0)
    (ht : t = (m.upTo (nextTick 10000 m.plinth.governedAt m.now)).now)
    (hy : y = if m.plinth.level = 0 then { m with now := t }
      else ({ m with now := t } : Mach).bump O.THROTTLE_NS 0 (t - m.plinth.governedAt))
    (hn : n = y.setPlinth { m.plinth with
      governedAt := t, activity := m.plinth.activity + energy, thermalMw := y.stepThermal })
    (hr : r = n.governLevel energy) :
    governorInterval act m = .next (n.setLevel r.1 r.2) := by
  have hto : m.upTo (nextTick 10000 m.plinth.governedAt m.now) = { m with now := t } := by rw [ht]; rfl
  have hynow : y.now = t ∧ y.plinth = m.plinth := by
    rw [hy]
    split
    · exact ⟨rfl, rfl⟩
    · exact ⟨rfl, rfl⟩
  obtain ⟨hynow, hyplinth⟩ := hynow
  unfold governorInterval
  simp only [hup, Bool.not_true, Bool.false_eq_true, if_false, ← henergy, hto, ← hy, hynow, hyplinth, ← hn, ← hr]

/-- Settles O46: the input, samples, MOD_EN, the eFuse and the governor. -/
theorem plinthEventsAct : Obligations.PlinthEventsAct := by
  intro s
  refine ⟨fun hoff => ?_, ?_, fun smp t m x hsmp hup ht hm hx y hy => guarded_next hsmp ?_,
    guarded_next (i := .modEnHigh) (r := Sys2Proof.Machine.modEnHigh) rfl rfl,
    fun hfuse => guarded_next (i := .efuseTrip) (r := Sys2Proof.Machine.efuseTrip) rfl ?_, fun hfuse => ?_,
    fun act energy t m n x r hwf hup henergy ht hm hn hr hx => ?_⟩
  · exact guardedRaw_next (i := .inputApplied) (r := Sys2Proof.Machine.inputApplied) rfl
      (by simp [Sys2Proof.Machine.inputApplied, hoff])
  · exact guardedRaw_next (i := .inputRemoved) (r := Sys2Proof.Machine.inputRemoved) rfl rfl
  · simp only [plinthSample, hup, ← ht, ← hm, ← hx, ← hy]
    rfl
  · simp [Sys2Proof.Machine.efuseTrip, hfuse]
  · exact (guarded_next (i := .efuseTrip) (r := Sys2Proof.Machine.efuseTrip) rfl
      (by simp [Sys2Proof.Machine.efuseTrip, hfuse])).trans (congrArg _ s.after_self)
  · have hlevel : n.plinth.level = s.plinth.level := by rw [hn]; rfl
    have hnow : n.now = t := by
      rw [hn, hm]
      split
      · rfl
      · rfl
    have hexec : exec (.governorInterval act) s = .next (s.after (n.setLevel r.1 r.2)) :=
      guarded_next hwf (governorInterval_eq hup henergy ht hm hn hr)
    refine ⟨fun h16 hbelow => ⟨?_, ?_⟩, fun hbelow h16 => ?_, fun hsame => ?_⟩
    · rw [hexec, h16, Mach.setLevel_stops n r.2 (by rwa [hlevel]), hx, h16, hnow]
      rfl
    · exact Mach.alert_obj _ 2
    · have hpaused : n.paused = s.plinth.pausedNs + s.plinth.pausedSince.elim 0 (t - ·) := by
        rw [← hnow, hn]
        simp only [Mach.paused, Mach.setPlinth]
        cases s.plinth.pausedSince <;> rfl
      rw [hexec, Mach.setLevel_goes n r.2 hbelow (by rwa [hlevel]), hx, hpaused]
      rfl
    · rw [hexec, Mach.setLevel_stays n r.2 (by rwa [hlevel]), hx]

/-! ### Droops and PLLs (R395, R413, R414, R419) -/

theorem le_foldl_max (l : List Nat) (a : Nat) : a ≤ l.foldl max a := by
  induction l generalizing a with
  | nil => exact Nat.le_refl a
  | cons x r ih => exact Nat.le_trans (Nat.le_max_left a x) (ih (max a x))

/-- A bay's level is at least that of its droop (R414). -/
theorem Mach.droop_le_bayLevel (m : Mach) (b : Nat) : (m.bay b).droop ≤ m.bayLevel b :=
  Nat.le_trans (Nat.le_max_right ..) (le_foldl_max ..)

/-- A counter other than ALERT_CAUSE leaves ALERT_N asserted by a bit that is set (R419). -/
theorem Mach.alertN_of_alert {m : Mach} {bit o i : Nat} (hup : m.plinthUp = true) (hkey : oKey o i ≠ oKey O.ALERT_CAUSE 0) :
    ((m.alert bit).bump o i 1).alertN = true := by
  have hobj : ((m.alert bit).bump o i 1).obj O.ALERT_CAUSE 0 = m.obj O.ALERT_CAUSE 0 ||| 2 ^ bit :=
    Mach.obj_of_standsAt (Mach.standsAt_bump 1 hkey (m.alert_standsAt bit))
  have hset : m.obj O.ALERT_CAUSE 0 ||| 2 ^ bit ≠ 0 := by
    intro h
    have hbit := congrArg (Nat.testBit · bit) h
    simp at hbit
  have hplinth : ((m.alert bit).bump o i 1).plinthUp = true := hup
  simp [Mach.alertN, hplinth, hobj, hset]

/-- Settles O47: a droop raises its bay's level, and the PLLs lose and find their lock. -/
theorem droopsAndClocks : Obligations.DroopsAndClocks := by
  intro s b k hb hk
  have hbay : okBay b = true := by simpa [okBay] using hb
  have hpll : okPll k = true := by simpa [okPll] using hk
  refine ⟨fun hrun hoff hfail => ⟨guarded_next hbay ?_, ?_⟩, fun hdroop => guarded_next hbay ?_,
    fun hlock m hm => ⟨fun hk => guarded_next hpll ?_, fun hk => ⟨guarded_next hpll ?_, fun hup => ?_⟩⟩,
    fun t m ht hm => ⟨guarded_next hpll ?_, guarded_next hpll ?_⟩⟩
  · simp [droopDetect, hrun, hoff, hfail]
  · have h8 := Mach.droop_le_bayLevel (s.setBay b { s.bay b with droop := 8, droopAt := s.now }) b
    rwa [Mach.bay_setBay] at h8
  · simp [droopRelease, hdroop]
  · simp only [pllUnlock, hlock, Bool.not_true, Bool.false_eq_true, if_false, if_neg hk, hm]
  · subst hk
    simp only [pllUnlock, hlock, Bool.not_true, Bool.false_eq_true, if_false, if_true, hm]
  · exact Mach.alertN_of_alert (by rw [hm]; exact hup) (by decide)
  · simp only [pllRelock, ht, Option.isNone_some, Bool.false_eq_true, if_false, hm]
  · simp only [pllLockTimeout, ht]
    split <;> rfl

end Sys2Proof.Machine

/-! PROOF. Bays that fail, sleep and wake (R24, R25, R404 to R409), and STANDBY (R410 to R412). -/

namespace Sys2Proof.Machine

open Sys2Proof

/-! ### A failed bay (R25) -/

section
variable {m : Mach} {x : Nat} {v : Option Nat}

/-- Records keep every object but the counters of records that wait or are lost. -/
theorem Mach.pushRec_standsAt (hx : x < O.C_STALLS) (r : Nat) (b : Bytes) (cmd : Option (CmdId × Nat))
    (h : StandsAt m.dict x v) : StandsAt (m.pushRec r b cmd).dict x v := by
  unfold Mach.pushRec
  dsimp only
  split
  · exact Mach.standsAt_bump (m := { m with ready := _ }) 1 (Nat.ne_of_gt (Nat.lt_of_lt_of_le hx (le_oKey ..))) h
  · exact h

theorem Mach.notify_standsAt (hlost : oKey O.NOTICES_LOST 0 ≠ x) (b : Bytes) (h : StandsAt m.dict x v) :
    StandsAt (m.notify b).dict x v := by
  unfold Mach.notify
  dsimp only
  split
  · exact Mach.standsAt_bump 1 hlost h
  · split <;> exact h

theorem Mach.eventTo_standsAt (hx : x < O.C_STALLS) (hlost : oKey O.NOTICES_LOST 0 ≠ x) (source : Nat) (rings : List Nat)
    (cause : Option Cmd) (code reason specific sats step cmdSeq : Nat) (h : StandsAt m.dict x v) :
    StandsAt (m.eventTo source rings cause code reason specific sats step cmdSeq).dict x v :=
  Mach.notify_standsAt hlost _ (foldl_rel (R := fun a b => StandsAt a.dict x v → StandsAt b.dict x v) (fun _ h => h)
    (fun _ _ _ h h' hs => h' (h hs)) (fun _ r => Mach.pushRec_standsAt hx r _ none) _ (m.nextSeq source).2 h)

end

theorem Mach.withStart_bays (m : Mach) (x : Start) : (m.withStart x).bays = m.bays := rfl

theorem Mach.markCluster_bays (m : Mach) (c : Nat) : (m.markCluster c).bays = m.bays := by
  have hslots : ∀ l : List Nat, (l.foldl (fun s k => s.setSlotByte c k 7) m).bays = m.bays := fun l =>
    foldl_frame (fun m => m.bays) (f := fun s k => s.setSlotByte c k 7) (fun _ _ => rfl) l m
  rw [Mach.markCluster_eq, Mach.loseTiles, Mach.withStart_bays, hslots]

theorem Mach.markBay_bays (m : Mach) (b : Nat) : (m.markBay b).bays = m.bays := by
  have hclusters : ∀ (l : List Nat) (n : Mach), (l.foldl (fun s c => s.markCluster (b * 10 + c)) n).bays = n.bays :=
    fun l n => foldl_frame (fun m => m.bays) (f := fun s c => s.markCluster (b * 10 + c))
      (fun n c => n.markCluster_bays _) l n
  rw [Mach.markBay, hclusters]

theorem Mach.setObj_bays (m : Mach) (o i v : Nat) : (m.setObj o i v).bays = m.bays := rfl

theorem Mach.alert_bays (m : Mach) (bit : Nat) : (m.alert bit).bays = m.bays := rfl

/-- A bay that fails is FAILED, and ALERT_CAUSE bit 0 says so (R25, R419). -/
theorem Mach.failBay_leaves (m : Mach) (b cause : Nat) :
    ((m.failBay b cause).bay b).power = .failed ∧ ((m.failBay b cause).obj O.ALERT_CAUSE 0).testBit 0 = true := by
  unfold Mach.failBay
  extract_lets left y failed
  generalize halerted : (failed.setObj O.BAY_FAIL_CAUSE b cause).alert 0 = alerted
  constructor
  · obtain ⟨_, _, _, _, _, _, _, h⟩ := alerted.moduleEvent_records 3 (b + (cause - 1) * 256)
    have hbays : ∃ z : Bay, alerted.bays = mset left.bays b z ∧ z.power = .failed := by
      rw [← halerted, Mach.alert_bays, Mach.setObj_bays]
      exact ⟨_, Mach.markBay_bays _ b, rfl⟩
    obtain ⟨z, hz, hfailed⟩ := hbays
    simp only [h, Mach.bay, hz, mgetD_mset_self, hfailed]
  · have hkept := Mach.eventTo_standsAt (x := oKey O.ALERT_CAUSE 0) (by decide) (by decide) sourceModule
      [alerted.obj O.MODULE_EVENT_RING 0] none 3 0 (b + (cause - 1) * 256) 0 0 0 (halerted ▸ Mach.alert_standsAt _ 0)
    rw [Mach.moduleEvent, Mach.event, Mach.obj_of_standsAt hkept]
    simp

/-! ### Sleep and wakes (R404 to R409) -/

/-- Settles O48: bay watchdogs and failures, B-SLEEP, B-OFF and wakes. -/
theorem baysFailSleepAndWake : Obligations.BaysFailSleepAndWake := by
  intro s b hb
  have hbay : okBay b = true := by simpa [okBay] using hb
  refine ⟨fun hruns => ⟨guarded_next hbay ?_, guarded_next hbay ?_, fun o m hok hm => guarded_next ?_ ?_,
      s.failBay_leaves b 2⟩,
    fun hmay => guarded_next hbay ?_, fun hmay m hm hsleep => guarded_next hbay ?_,
    fun hmay m hm hidle hleaving => guarded_next hbay ?_, fun hmay hleaving => guarded_next hbay ?_,
    fun m hrun hfirst hm => guarded_next hbay ?_, fun p n hrun hasked hp hready m hm => guarded_next hbay ?_⟩
  · simp only [bayWatchdogRestart, hruns, if_true]
  · simp only [bayWatchdogExpiry, hruns, if_true]
  · simp [Instr.wf, hbay, hok]
  · simp [bayStoreUncorrectable, hruns, ← hm]
  · simp [Sys2Proof.Machine.bSleep, hmay]
  · simp [Sys2Proof.Machine.bOff, hmay, hsleep, ← hm]
  · simp [Sys2Proof.Machine.bOff, hmay, hidle, hleaving, ← hm]
  · simp [Sys2Proof.Machine.bOff, hmay, hleaving]
  · have hlast : bayWakeStart b s.toMach = .next ((m.setPlinth { m.plinth with lastOffWake := some m.now }).setBay b
        { m.bay b with wakeStarted := true, wakeAt := m.now }) := by
      rw [bayWakeStart, if_neg (by simp [hrun, hfirst]), hm]
      cases s.plinth.lastOffWake <;> rfl
    rw [hlast, hm]
    rfl
  · have hbump : (if p = .idle then s.toMach else s.bump O.BAY_WAKES b 1).bay b = s.bay b := by
      split <;> rfl
    have hbay : m.bay b = s.bay b := by rw [hm]; exact hbump
    rw [← hbay]
    rcases hready with ⟨rfl, rfl⟩ | ⟨rfl, rfl⟩ | ⟨rfl, hstarted, rfl⟩ <;>
      simp [Sys2Proof.Machine.bayWakeDone, *]

/-! ### STANDBY (R410 to R412) -/

/-- Settles O49: STANDBY drains, is entered and is left. -/
theorem standbyIsEnteredAndLeft : Obligations.StandbyIsEnteredAndLeft := by
  intro s
  refine ⟨fun t hdraining => guarded_next (i := .standbyDrainTimeout) (r := Sys2Proof.Machine.standbyDrainTimeout) rfl ?_,
    fun hrun hdraining hdisabled => ⟨_, rfl,
      guarded_next (i := .standbyEntry) (r := Sys2Proof.Machine.standbyEntry) rfl ?_⟩,
    fun hstandby hwanted => ⟨guarded_next (i := .standbyWakeDone true) rfl ?_,
      guarded_next (i := .standbyWakeDone false) rfl ?_⟩⟩
  · simp only [Sys2Proof.Machine.standbyDrainTimeout, hdraining]
  · have hall : ((List.range 64).all fun j => (s.journal j).state == .disabled) = true :=
      List.all_eq_true.mpr fun j hj => beq_iff_eq.mpr (hdisabled j (List.mem_range.mp hj))
    have hdraining : s.plinth.draining.isNone = false := by simpa using hdraining
    rw [Sys2Proof.Machine.standbyEntry, if_neg (by simp [hrun, hdraining, hall])]
    rfl
  · simp [Sys2Proof.Machine.standbyWakeDone, hstandby, hwanted]
  · simp [Sys2Proof.Machine.standbyWakeDone, hstandby, hwanted]

end Sys2Proof.Machine

/-! PROOF. The stages of a module start (R426 to R434, R437). -/

namespace Sys2Proof.Machine

open Sys2Proof

/-! ### Stages S0 to S2 (R426 to R428) -/

/-- A stage that runs and has not halted ends after its time. -/
theorem stageRow_next {k : Nat} {e : StageEnd} {body : Mach → Mach} {m n : Mach} (hstage : m.start.stage = some k)
    (hruns : m.start.halted = false) (hn : n = m.upTo (m.start.beganAt + e.ns)) :
    stageRow k e body m = .next (body n) := by
  rw [stageRow, if_neg (by simp [hstage, hruns]), hn]

section
variable (m : Mach) (k : Nat) (detail : Bytes)

theorem Mach.endStage_halts (loss : Bool) :
    m.endStage k loss true detail = (m.stageReport k 4 detail).haltStart := by
  simp only [Mach.endStage, if_true]

theorem Mach.endStage_passes : m.endStage k false false detail = (m.stageReport k 2 detail).beginStage (k + 1) := by
  simp only [Mach.endStage, Bool.false_eq_true, if_false]

end

/-- Settles O50: stages S0, S1 and S2. -/
theorem earlyStagesEnd : Obligations.EarlyStagesEnd := by
  intro s e hruns m hm
  refine ⟨fun slot x hslot hstage hx => guarded_next (by simpa [Instr.wf] using hslot) ?_,
    fun hstage hok => guarded_next (i := .s1Rails e) rfl ?_,
    fun bad hstage hfails hbad => guarded_next (i := .s1Rails e) rfl ?_,
    fun f g x d hf hstage hg hx hd => ?_⟩
  · rw [s0Plinth, stageRow_next hstage hruns hm]
    simp only [Nat.mod_eq_of_lt hslot, ← hx]
    cases e.ok <;> rfl
  · rw [s1Rails, stageRow_next hstage hruns hm]
    simp only [hok, if_true, Bool.not_true, Mach.endStage_passes]
    rfl
  · rw [s1Rails, stageRow_next hstage hruns hm]
    simp only [hfails, Bool.false_eq_true, if_false, Bool.not_false, Mach.endStage_halts, ← hbad]
  · have hend : s2Fuses e f s.toMach = .next (x.endStage 2 false (!e.ok) d) := by
      rw [s2Fuses, stageRow_next hstage hruns hm, hd, hx, hg]
    exact ⟨fun hok => guarded_next hf (by rw [hend, hok, Bool.not_true, Mach.endStage_passes]),
      fun hfails => guarded_next hf (by rw [hend, hfails, Bool.not_false, Mach.endStage_halts])⟩

end Sys2Proof.Machine

/-! PROOF. The later stages of a module start: what drops out of service, memory, the host and RUN (R429 to R437). -/

namespace Sys2Proof.Machine

open Sys2Proof

/-! ### Sets of parts -/

theorem mem_sadd_self (l : NSet) (x : Nat) : x ∈ sadd l x := by
  induction l with
  | nil => exact List.mem_singleton_self x
  | cons k r ih =>
    unfold sadd
    split
    · simp [*]
    · split
      · exact List.mem_cons_self
      · exact List.mem_cons_of_mem k ih

theorem mem_sadd_of_mem {l : NSet} {x y : Nat} (h : y ∈ l) : y ∈ sadd l x := by
  induction l with
  | nil => contradiction
  | cons k r ih =>
    unfold sadd
    split
    · exact h
    · split
      · exact List.mem_cons_of_mem x h
      · rcases List.mem_cons.mp h with rfl | h
        · exact List.mem_cons_self
        · exact List.mem_cons_of_mem k (ih h)

theorem smem_sadd_self (l : NSet) (x : Nat) : smem (sadd l x) x = true := by
  induction l with
  | nil => simp [sadd, smem]
  | cons k r ih =>
    by_cases hx : x = k
    · simp [sadd, smem, hx]
    · by_cases hlt : x < k
      · simp [sadd, smem, hx, hlt]
      · simp [sadd, smem, hx, hlt, ih]

theorem smem_sadd_of_smem {l : NSet} {x y : Nat} (h : smem l y = true) : smem (sadd l x) y = true := by
  induction l with
  | nil => simp [smem] at h
  | cons k r ih =>
    unfold sadd
    split
    · exact h
    · split
      · have hle : ¬ y < x := by
          intro hy
          have hk : y ≠ k ∧ y < k := by omega
          simp [smem, hk.1, hk.2] at h
        unfold smem
        split
        · rfl
        · exact h
      · unfold smem at h ⊢
        split
        · rfl
        · next hne =>
          simp only [hne, if_false] at h
          split
          · next hlt => simp [hlt] at h
          · next hlt => exact ih (by simpa [hlt] using h)

/-- What a step makes true of its item, and no step undoes, holds of every item at the end. -/
theorem foldl_reaches {α β : Type} {P : β → α → Prop} {f : β → α → β} (hself : ∀ s x, P (f s x) x)
    (hkeep : ∀ s x y, P s y → P (f s x) y) (l : List α) (s : β) :
    (∀ y, P s y → P (l.foldl f s) y) ∧ ∀ y ∈ l, P (l.foldl f s) y := by
  induction l generalizing s with
  | nil => exact ⟨fun _ h => h, fun _ h => absurd h List.not_mem_nil⟩
  | cons x r ih =>
    obtain ⟨hkept, hmade⟩ := ih (f s x)
    refine ⟨fun y h => hkept y (hkeep s x y h), fun y hy => ?_⟩
    rcases List.mem_cons.mp hy with rfl | hy
    · exact hkept y (hself s y)
    · exact hmade y hy

theorem mem_foldl_sadd {l : List Nat} (s : NSet) {x : Nat} (h : x ∈ l) : x ∈ l.foldl sadd s :=
  (foldl_reaches (P := fun s y => y ∈ s) mem_sadd_self (fun _ _ _ => mem_sadd_of_mem) l s).2 x h

theorem smem_foldl_sadd {l : List Nat} (s : NSet) {x : Nat} (h : x ∈ l) : smem (l.foldl sadd s) x = true :=
  (foldl_reaches (P := fun s y => smem s y = true) smem_sadd_self (fun _ _ _ => smem_sadd_of_smem) l s).2 x h

/-! ### Parts that drop out of service (R429, R430) -/

/-- Bays dropped are FAILED. -/
theorem foldl_fail {bays : List Nat} (m : Mach) {b : Nat} (hb : b ∈ bays) :
    ((bays.foldl (fun s b => s.setBay b { s.bay b with power := .failed, since := s.now }) m).bay b).power = .failed := by
  refine (foldl_reaches (P := fun (s : Mach) b => (s.bay b).power = .failed) (fun s x => ?_)
    (fun s x y h => ?_) bays m).2 b hb
  · rw [Mach.bay_setBay]
  · by_cases hy : y = x
    · rw [hy, Mach.bay_setBay]
    · rwa [Mach.bay_setBay_other _ _ hy]

theorem Mach.dropParts_bays (m : Mach) (clusters bays : List Nat) : ∃ bs, m.dropParts clusters bays = { m with
    bays := bs
    start := { m.start with
      badClusters := clusters.foldl sadd m.start.badClusters, badBays := bays.foldl sadd m.start.badBays } } :=
  foldl_bays (fun _ _ => ⟨_, rfl⟩) ..

theorem Mach.dropParts_failed (m : Mach) (clusters bays : List Nat) {b : Nat} (hb : b ∈ bays) :
    ((m.dropParts clusters bays).bay b).power = .failed := foldl_fail _ hb

theorem Mach.dropParts_disabled (m : Mach) (clusters bays : List Nat) {c : Nat} (hc : c ∈ clusters) :
    (m.dropParts clusters bays).clusterDisabled c = true := by
  obtain ⟨_, h⟩ := m.dropParts_bays clusters bays
  simp only [h, Mach.clusterDisabled, smem_foldl_sadd _ hc, Bool.true_or]

theorem Mach.dropMapped_bays (m : Mach) (clusters bays : List Nat) :
    (m.dropMapped clusters bays).bays = (m.dropParts clusters bays).bays := by
  rw [Mach.dropMapped]
  exact foldl_frame (fun m => m.bays) Mach.markCluster_bays _ _

theorem Mach.dropMapped_bay (m : Mach) (clusters bays : List Nat) (b : Nat) :
    (m.dropMapped clusters bays).bay b = (m.dropParts clusters bays).bay b := by
  simp only [Mach.bay, Mach.dropMapped_bays]

theorem Mach.dropMapped_retired (m : Mach) (clusters bays : List Nat) (b : Nat) :
    ((m.dropMapped clusters bays).bay b).retired = (m.bay b).retired := by
  rw [Mach.dropMapped_bay]
  refine foldl_frame (fun m => (m.bay b).retired) (fun s x => ?_) bays _
  by_cases hb : b = x
  · rw [hb, Mach.bay_setBay]
  · rw [Mach.bay_setBay_other _ _ hb]

/-! ### Channels retired by the memory test (R301, R434) -/

theorem Mach.retireAtStart_bay (m : Mach) (b k : Nat) : ((m.retireAtStart b k).bay b).retired = [k] :=
  congrArg Bay.retired (Mach.bay_setBay _ b { m.bay b with retired := [k] })

theorem Mach.retireAtStart_bay_other (m : Mach) {b c : Nat} (k : Nat) (h : c ≠ b) :
    (m.retireAtStart b k).bay c = m.bay c :=
  Mach.bay_setBay_other _ { m.bay b with retired := [k] } h

theorem Mach.retireOne_bay_other (m : Mach) {b c : Nat} (l : List Nat) (h : c ≠ b) : (m.retireOne b l).bay c = m.bay c := by
  match l with
  | [] => rfl
  | [x] => exact m.retireAtStart_bay_other (x % 9) h
  | x :: y :: r => exact m.free.2.retireAtStart_bay_other _ h

/-- A package in which one channel fails has that one retired. -/
theorem foldl_retireOne (m : Mach) (failed : Nat → List Nat) {bays : List Nat} {b c : Nat} (hb : b ∈ bays)
    (hc : failed b = [c]) :
    (((bays.foldl (fun t b => t.retireOne b (failed b)) m).bay b).retired) = [c % 9] := by
  have hself : ∀ (s : Mach) b c, failed b = [c] → ((s.retireOne b (failed b)).bay b).retired = [c % 9] := by
    intro s b c hc
    rw [hc]
    exact s.retireAtStart_bay b (c % 9)
  refine (foldl_reaches (P := fun (s : Mach) b => ∀ c, failed b = [c] → (s.bay b).retired = [c % 9]) hself
    (fun s x y h => ?_) bays m).2 b hb c hc
  by_cases hy : y = x
  · exact hy ▸ hself s x
  · rwa [s.retireOne_bay_other _ hy]

/-- Packages put to epoch 0 (R296). -/
def Mach.blankAll (m : Mach) : Mach := (List.range 16).foldl (fun t b => t.setBay b { t.bay b with epoch := 0 }) m

theorem Mach.blankAll_bays (m : Mach) : ∃ bs, m.blankAll = { m with bays := bs } := foldl_bays (fun _ _ => ⟨_, rfl⟩) ..

theorem Mach.blankAll_epoch (m : Mach) {b : Nat} (hb : b < 16) : ((m.blankAll).bay b).epoch = 0 := by
  refine (foldl_reaches (P := fun (s : Mach) b => (s.bay b).epoch = 0) (fun s x => ?_) (fun s x y h => ?_)
    (List.range 16) m).2 b (List.mem_range.mpr hb)
  · rw [Mach.bay_setBay]
  · by_cases hy : y = x
    · rw [hy, Mach.bay_setBay]
    · rwa [Mach.bay_setBay_other _ _ hy]

/-- What of a bay is not its epoch. -/
theorem Mach.blankAll_bay (m : Mach) (b : Nat) {α : Type} (F : Bay → α) (hF : ∀ y, F { y with epoch := 0 } = F y) :
    F ((m.blankAll).bay b) = F (m.bay b) := by
  refine foldl_frame (fun m => F (m.bay b)) (fun s x => ?_) (List.range 16) m
  by_cases hb : b = x
  · rw [hb, Mach.bay_setBay, hF]
  · rw [Mach.bay_setBay_other _ _ hb]

/-! ### Stages S3 to S9 -/

theorem Mach.setFigures_start (m : Mach) (k : Nat) (f : Nat → List Nat) :
    ∃ figures, m.setFigures k f = { m with start := { m.start with figures := figures } } := ⟨_, rfl⟩

theorem Mach.setFigures_holes (m : Mach) (k : Nat) (f : Nat → List Nat) :
    (m.setFigures k f).start.holes = m.start.holes := by
  obtain ⟨_, h⟩ := m.setFigures_start k f
  rw [h]

theorem Mach.setFigures_disabledCount (m : Mach) (k : Nat) (f : Nat → List Nat) :
    (m.setFigures k f).disabledCount = m.disabledCount := by
  obtain ⟨_, h⟩ := m.setFigures_start k f
  rw [h]
  rfl

/-- After RUN is reached nothing takes the module out of it but a drain that begins (R410). -/
theorem Mach.follow_of_run {m : Mach} (h : m.modState = .run) : m.follow.modState = .run ∧ m.follow.start = m.start := by
  unfold Mach.follow
  rw [h]
  dsimp only
  split <;> exact ⟨h, rfl⟩

/-- What S3 leaves: no store valid, and the parts that fail recorded and dropped. -/
theorem s3_leaves {m x : Mach} {badTest : NSet} (bad : BadParts)
    (hx : x = (({ m with start := { m.start with badTest := badTest } } : Mach).invalidate fun _ => true).dropParts
      bad.clusters bad.bays) :
    x.valid = [] ∧ x.start.badTest = badTest ∧ (∀ c ∈ bad.clusters, x.clusterDisabled c = true) ∧
      ∀ b ∈ bad.bays, (x.bay b).power = .failed := by
  subst hx
  refine ⟨?_, ?_, fun c hc => Mach.dropParts_disabled _ _ _ hc, fun b hb => Mach.dropParts_failed _ _ _ hb⟩
  all_goals
    obtain ⟨_, hparts⟩ := (({ m with start := { m.start with badTest := badTest } } : Mach).invalidate
      fun _ => true).dropParts_bays bad.clusters bad.bays
    rw [hparts]
  · simp [Mach.invalidate]
  · rfl

/-- What S6 leaves: module memory blank at epoch 0, one failed channel of a package retired, and the bays of those
with more FAILED. -/
theorem s6_leaves {m x y z : Mach} {failed : Nat → List Nat} {drops : List Nat}
    (hx : x = (List.range 16).foldl (fun t b => t.retireOne b (failed b)) m) (hy : y = x.dropMapped [] drops)
    (hz : z = ({ y with
      mem := y.mem.filter (fun c => decide (2 ^ 56 ≤ c.1)), lines := [], writeBacks := [] } : Mach).blankAll) :
    z.lines = [] ∧ (∀ c ∈ z.mem, 2 ^ 56 ≤ c.1) ∧ ∀ b, b < 16 → (z.bay b).epoch = 0 ∧
      (∀ c, failed b = [c] → (z.bay b).retired = [c % 9]) ∧ (b ∈ drops → (z.bay b).power = .failed) := by
  obtain ⟨_, hblank⟩ := ({ y with
    mem := y.mem.filter (fun c => decide (2 ^ 56 ≤ c.1)), lines := [], writeBacks := [] } : Mach).blankAll_bays
  have hbay : ∀ b {α : Type} (F : Bay → α), (∀ v, F { v with epoch := 0 } = F v) → F (z.bay b) = F (y.bay b) := by
    intro b α F hF
    rw [hz, Mach.blankAll_bay _ b F hF]
    rfl
  refine ⟨by rw [hz, hblank], fun c hc => ?_, fun b hb => ⟨?_, fun c hc => ?_, fun hdrop => ?_⟩⟩
  · rw [hz, hblank] at hc
    exact of_decide_eq_true (List.mem_filter.mp hc).2
  · rw [hz]
    exact Mach.blankAll_epoch _ hb
  · rw [hbay b Bay.retired (fun _ => rfl), hy, x.dropMapped_retired, hx,
      foldl_retireOne m failed (List.mem_range.mpr hb) hc]
  · rw [hbay b Bay.power (fun _ => rfl), hy, x.dropMapped_bay, Mach.dropParts_failed _ _ _ hdrop]

/-- S9 leaves the module in RUN (R437). -/
theorem s9_leaves {y z : Mach} (bays : List Nat) (hrun : y.modState = .run)
    (hz : z = (bays.foldl (fun u b => u.setBay b { u.bay b with power := .run, since := u.now, watchdog := u.now })
      y).settle.follow) :
    z.modState = .run ∧ z.start.stage = y.start.stage := by
  obtain ⟨_, hbays⟩ := foldl_bays (f := fun (u : Mach) b => u.setBay b
    { u.bay b with power := .run, since := u.now, watchdog := u.now }) (fun _ _ => ⟨_, rfl⟩) bays y
  obtain ⟨bs, hsettle⟩ := (bays.foldl (fun (u : Mach) b => u.setBay b
    { u.bay b with power := .run, since := u.now, watchdog := u.now }) y).settle_bays
  rw [hsettle, hbays] at hz
  obtain ⟨hstays, hstart⟩ := Mach.follow_of_run (m := { y with bays := bs }) hrun
  rw [hz]
  exact ⟨hstays, congrArg Start.stage hstart⟩

/-- Settles O51: stages S3 to S7 and S9. -/
theorem laterStagesEnd : Obligations.LaterStagesEnd := by
  intro s e hruns m hm
  refine ⟨fun bad slots x y hbad hstage hslots hx hy => ⟨guarded_next (i := .s3Sram e bad) hbad ?_, ?_⟩,
    fun bad slots x y hbad hstage hslots hx hy => guarded_next (i := .s4Tiles e bad) hbad ?_,
    fun errs failed x y hwf hstage hfailed hx hy => guarded_next hwf ?_,
    fun errs failed x y z w hwf hstage hfailed hx hy hz hw => ⟨guarded_next hwf ?_, ?_⟩,
    fun hstage hlink => guarded_next (i := .s7Host e) rfl ?_, fun hlink => ?_,
    fun loss result x y hstage hloss hresult hx hy => ?_⟩
  · rw [s3Sram, stageRow_next hstage hruns hm]
    simp only [← hslots, ← hx, ← hy]
    rw [hy, x.setFigures_disabledCount]
  · obtain ⟨figures, hfigures⟩ := x.setFigures_start 3 (fun b =>
      [figure e b, slotsIn b (m.newlyBad x slots), x.disabledIn b - m.disabledIn b, boolNat (m.newlyFailed x b)])
    obtain ⟨hvalid, htest, hclusters, hbays⟩ := s3_leaves bad hx
    rw [hy, hfigures]
    exact ⟨hvalid, fun k hk => htest ▸ mem_foldl_sadd _ (hslots ▸ mem_foldl_sadd [] hk), hclusters, hbays⟩
  · rw [s4Tiles, stageRow_next hstage hruns hm]
    simp only [← hslots, ← hx, ← hy]
    rw [hy, x.setFigures_disabledCount]
  · rw [s5Armature, stageRow_next hstage hruns hm]
    have hlimit : m.obj O.ARM_ERR_LIMIT 0 = s.obj O.ARM_ERR_LIMIT 0 := by rw [hm]; rfl
    simp only [hlimit, ← hfailed, ← hx, ← hy]
    rw [hy, x.setFigures_disabledCount, x.setFigures_holes]
  · rw [s6Memory, stageRow_next hstage hruns hm]
    have hlimit : m.obj O.MEM_ERR_LIMIT 0 = s.obj O.MEM_ERR_LIMIT 0 := by rw [hm]; rfl
    simp only [hlimit, ← hfailed, ← hx, ← hy, ← hz, ← hw]
  · obtain ⟨figures, hfigures⟩ := z.setFigures_start 6 (fun b => [min 1 (failed b).length, boolNat (m.newlyFailed z b),
      ((errs.filter fun x => x.1 / 9 == b).map (·.2)).foldl max 0])
    obtain ⟨hlines, hmem, hbays⟩ := s6_leaves hx hy hz
    rw [hw, hfigures]
    refine ⟨hlines, hmem, fun b hb => ?_⟩
    obtain ⟨hepoch, hretired, hdropped⟩ := hbays b hb
    exact ⟨hepoch, hretired, fun hin htwo => hdropped
      (List.mem_filter.mpr ⟨List.mem_range.mpr hb, by simp [hin, htwo]⟩)⟩
  · rw [s7Host, if_neg (not_not_intro hlink), stageRow_next hstage hruns hm]
    simp only [Mach.endStage_passes]
    rw [hm]
    rfl
  · exact (guarded_next (i := .s7Host e) rfl (by rw [s7Host, if_pos hlink])).trans (congrArg _ s.after_self)
  · have hend : s9Ready e s.toMach = .next (((List.range 16).filter m.inService).foldl
        (fun u b => u.setBay b { u.bay b with power := .run, since := u.now, watchdog := u.now })
        ({ y with modState := .run, start := { y.start with stage := none } } : Mach)).settle.follow := by
      rw [s9Ready, stageRow_next hstage hruns hm, hy, hx, hresult, hloss]
    have hready := s9_leaves (y := { y with modState := .run, start := { y.start with stage := none } })
      ((List.range 16).filter m.inService) rfl rfl
    dsimp only at hready
    generalize (((List.range 16).filter m.inService).foldl
        (fun u b => u.setBay b { u.bay b with power := .run, since := u.now, watchdog := u.now })
        ({ y with modState := .run, start := { y.start with stage := none } } : Mach)).settle.follow = z at hend hready ⊢
    exact ⟨_, guarded_next (i := .s9Ready e) rfl hend, hready.1, hready.2, rfl⟩

end Sys2Proof.Machine

/-! PROOF. Tiles that are fenced (R438 to R440, R375). -/

namespace Sys2Proof.Machine

open Sys2Proof

/-! ### What a fence takes from a tile -/

/-- The holes, the items that run, and the tiles whose pieces are lent. -/
def Mach.tileUse (m : Mach) : NSet × List Running × List Nat := (m.start.holes, m.running, m.lent.map (·.tile))

section
variable (m : Mach)

@[simp] theorem Mach.setObj_tileUse (o i v : Nat) : (m.setObj o i v).tileUse = m.tileUse := rfl
@[simp] theorem Mach.bump_tileUse (o i n : Nat) : (m.bump o i n).tileUse = m.tileUse := rfl
@[simp] theorem Mach.setBay_tileUse (b : Nat) (v : Bay) : (m.setBay b v).tileUse = m.tileUse := rfl
@[simp] theorem Mach.setEngine_tileUse (e : Nat) (v : Engine) : (m.setEngine e v).tileUse = m.tileUse := rfl
@[simp] theorem Mach.setAct_tileUse (a : Act) : (m.setAct a).tileUse = m.tileUse := rfl
@[simp] theorem Mach.noteFlag_tileUse (k : Nat) : (m.noteFlag k).tileUse = m.tileUse := rfl
@[simp] theorem Mach.countDrop_tileUse (b : Nat) : (m.countDrop b).tileUse = m.tileUse := rfl
@[simp] theorem Mach.putLine_tileUse (l o : Nat) (v : Bytes) (p : Bool) : (m.putLine l o v p).tileUse = m.tileUse := rfl
@[simp] theorem Mach.wrHost_tileUse (a : Nat) (v : Bytes) (p : Bool) : (m.wrHost a v p).tileUse = m.tileUse := rfl
@[simp] theorem Mach.itemDone_tileUse (id : CmdId) (c : Nat) : (m.itemDone id c).tileUse = m.tileUse := rfl

theorem Mach.Records.tileUse {n : Mach} (h : m.Records n) : n.tileUse = m.tileUse := by
  obtain ⟨_, _, _, _, _, _, _, rfl⟩ := h
  rfl

@[simp] theorem Mach.complete_tileUse (c : Cmd) (reason detail specific : Nat) (f : Flg) (p : Bool) :
    (m.complete c reason detail specific f p).tileUse = m.tileUse := by
  obtain ⟨_, _, _, _, _, _, h⟩ := m.complete_frame c reason detail specific f p
  rw [h]
  rfl

/-! ### Writes -/

@[simp] theorem Mach.setDirty_tileUse (l : Nat) : (m.setDirty l).tileUse = m.tileUse := by
  unfold Mach.setDirty
  dsimp only
  split
  · split <;> split <;> rfl
  · rfl

@[simp] theorem Mach.wrLine_tileUse (l o : Nat) (v : Bytes) (p : Bool) : (m.wrLine l o v p).tileUse = m.tileUse := by
  rw [Mach.wrLine, Mach.setDirty_tileUse, Mach.putLine_tileUse]

@[simp] theorem Mach.wrSector_tileUse (s o : Nat) (v : Bytes) (p : Bool) : (m.wrSector s o v p).tileUse = m.tileUse := by
  unfold Mach.wrSector
  split <;> rfl

@[simp] theorem Mach.markLent_tileUse (home : Nat) (present dirty : List Nat) :
    (m.markLent home present dirty).tileUse = m.tileUse := by
  have htile : ((m.markLent home present dirty).lent).map (·.tile) = m.lent.map (·.tile) := by
    simp only [Mach.markLent, List.map_map]
    refine List.map_congr_left fun l _ => ?_
    simp only [Function.comp]
    split <;> rfl
  simp only [Mach.tileUse, htile]
  rfl

@[simp] theorem Mach.fillLent_tileUse (l : Lent) (a : Nat) : (m.fillLent l a).tileUse = m.tileUse := by
  simp only [Mach.fillLent, Mach.markLent_tileUse]
  exact foldl_frame Mach.tileUse (fun s i => s.wrSector_tileUse _ _ _ _) _ m

@[simp] theorem Mach.wrPiece_tileUse (a : Nat) (v : Bytes) (p : Bool) : (m.wrPiece a v p).tileUse = m.tileUse := by
  unfold Mach.wrPiece
  dsimp only
  split
  · split
    · exact m.wrLine_tileUse _ _ _ _
    · rw [Mach.setDirty_tileUse, Mach.markLent_tileUse,
        foldl_frame Mach.tileUse (fun s k => by unfold Mach.putSector; exact s.wrSector_tileUse _ _ _ _)]
      split
      · exact m.fillLent_tileUse _ _
      · rfl
  · rfl
  · exact m.wrSector_tileUse _ _ _ _

@[simp] theorem Mach.wr_tileUse (a : Nat) (v : Bytes) (p : Bool) : (m.wr a v p).tileUse = m.tileUse := by
  unfold Mach.wr
  split
  · split <;> rfl
  · exact foldl_frame Mach.tileUse (fun s x => s.wrPiece_tileUse _ _ _) _ m

@[simp] theorem Mach.wrPoison_tileUse (a n : Nat) : (m.wrPoison a n).tileUse = m.tileUse := m.wr_tileUse ..

/-! ### Host memory -/

@[simp] theorem Mach.wrPieces_tileUse (g f a : Nat) (x : Marked) : (m.wrPieces g f a x).tileUse = m.tileUse := by
  induction f generalizing m a x with
  | zero => rfl
  | succ f ih =>
    unfold Mach.wrPieces
    split
    · rfl
    · rw [ih, Mach.wr_tileUse]

@[simp] theorem Mach.wrMarked_tileUse (a : Nat) (x : Marked) : (m.wrMarked a x).tileUse = m.tileUse :=
  m.wrPieces_tileUse ..

@[simp] theorem Mach.countPoisonOut_tileUse (x : Marked) : (m.countPoisonOut x).tileUse = m.tileUse := by
  unfold Mach.countPoisonOut
  split <;> rfl

@[simp] theorem Mach.readFrame_tileUse (p khm base k : Nat) : (m.readFrame p khm base k).2.tileUse = m.tileUse := by
  have hcount : (if m.rdPoison (base + 4096 * k) 4096 then m.bump O.POISON_IN 0 1 else m).tileUse = m.tileUse := by
    split <;> rfl
  unfold Mach.readFrame
  dsimp only
  split
  · exact hcount
  · exact hcount

@[simp] theorem Mach.readFrames_tileUse (p khm base k n : Nat) :
    (m.readFrames p khm base k n).2.tileUse = m.tileUse := by
  induction n generalizing m k with
  | zero => rfl
  | succ n ih => exact (ih _ _).trans (m.readFrame_tileUse ..)

@[simp] theorem Mach.hostRead_tileUse (p base off n : Nat) : (m.hostRead p base off n).2.tileUse = m.tileUse := by
  unfold Mach.hostRead
  split
  · dsimp only [Mach.countPoisonIn]
    split <;> rfl
  · split
    · rfl
    · exact m.readFrames_tileUse ..

@[simp] theorem Mach.writeFrames_tileUse (p kmh base k n : Nat) (x : Marked) :
    (m.writeFrames p kmh base k n x).tileUse = m.tileUse := by
  induction n generalizing m k x with
  | zero => rfl
  | succ n ih =>
    unfold Mach.writeFrames
    dsimp only
    rw [ih]
    split
    · rw [Mach.bump_tileUse, Mach.bump_tileUse, Mach.wr_tileUse]
    · rw [Mach.bump_tileUse, Mach.wr_tileUse]

@[simp] theorem Mach.hostWrite_tileUse (p base off : Nat) (x : Marked) :
    (m.hostWrite p base off x).tileUse = m.tileUse := by
  unfold Mach.hostWrite
  split
  · rfl
  · split
    · rw [Mach.countPoisonOut_tileUse, Mach.wr_tileUse]
    · exact m.writeFrames_tileUse ..

/-! ### Trace -/

@[simp] theorem Mach.fireTrigger_tileUse (t : Nat) : (m.fireTrigger t).tileUse = m.tileUse := by
  unfold Mach.fireTrigger
  split <;> rfl

@[simp] theorem Mach.triggerOn_tileUse (bit : Nat) : (m.triggerOn bit).tileUse = m.tileUse := by
  unfold Mach.triggerOn
  split
  · exact m.fireTrigger_tileUse _
  · rfl

@[simp] theorem Mach.capture_tileUse (e kind : Nat) (c : Cmd) (above : Bool) (t units : Nat) (d : Counts) (first : Nat) :
    (m.capture e kind c above t units d first).tileUse = m.tileUse := by
  unfold Mach.capture
  dsimp only
  split
  · rfl
  · split
    · split
      · rfl
      · split
        · rw [Mach.fireTrigger_tileUse]
          rfl
        · rfl
    · split <;> rfl

@[simp] theorem Mach.endRunAt_tileUse (e t : Nat) : (m.endRunAt e t).tileUse = m.tileUse := by
  unfold Mach.endRunAt
  dsimp only
  split
  · rfl
  · split
    · rw [Mach.capture_tileUse, Mach.setEngine_tileUse]
    · rfl

@[simp] theorem Mach.book_tileUse (e : Nat) (a : Act) (r : Raised) : (m.book e a r).1.tileUse = m.tileUse := by
  have hraise : (m.raise e a.cmd r.flg r.row r.col a.cmd.problem).tileUse = m.tileUse := by
    simp only [Mach.raise, Mach.setEngine_tileUse]
    exact foldl_frame Mach.tileUse (f := fun s k => s.noteFlag (engineFlag e k)) (fun _ _ => rfl) _ m
  unfold Mach.book Mach.flags
  dsimp only
  split
  · rw [Mach.triggerOn_tileUse, hraise]
  · exact hraise

/-! ### Items and commands that end -/

@[simp] theorem Act.writeBox_tileUse (a : Act) (item : Nat) (codes : List Nat) (p : Bool) :
    (a.writeBox m item codes p).tileUse = m.tileUse := by
  unfold Act.writeBox
  split
  · exact foldl_frame Mach.tileUse (fun s i => s.wr_tileUse _ _ _) _ m
  · rfl

@[simp] theorem Act.writePages_tileUse (a : Act) (item : Nat) (blocks : List (Nat × Int)) (codes : List Nat) (p : Bool) :
    (a.writePages m item blocks codes p).tileUse = m.tileUse := by
  have hpages : ∀ (n : Mach) (l : List Nat) (f : Mach → Nat → Mach), (∀ s k, (f s k).tileUse = s.tileUse) →
      (l.foldl f n).tileUse = n.tileUse := fun n l f hf => foldl_frame Mach.tileUse hf l n
  unfold Act.writePages
  dsimp only
  split <;> simp only [Mach.wr_tileUse, implies_true, hpages]

@[simp] theorem Act.poisonOutputs_tileUse (a : Act) (item : Nat) : (a.poisonOutputs m item).tileUse = m.tileUse := by
  unfold Act.poisonOutputs
  split
  case h_1 | h_2 =>
    unfold Act.castPoison
    split
    · exact Act.writePages_tileUse ..
    · exact m.wr_tileUse ..
  case h_3 =>
    unfold Act.widePoison
    dsimp only
    split
    · exact foldl_frame Mach.tileUse (fun s i => s.wrPoison_tileUse _ _) _ m
    · split
      · exact m.wrPoison_tileUse _ _
      · split
        · simp only [Mach.wrPoison_tileUse]
        · split <;> simp only [Mach.wrPoison_tileUse]
  case h_4 => exact Act.writeBox_tileUse ..

@[simp] theorem Mach.loseItem_tileUse (id : CmdId) (cluster item : Nat) :
    (m.loseItem id cluster item).tileUse = m.tileUse := by
  unfold Mach.loseItem
  split
  · rfl
  · rw [Mach.itemDone_tileUse, Mach.setAct_tileUse, Act.poisonOutputs_tileUse]

@[simp] theorem Mach.loseCluster_tileUse (cluster : Nat) : (m.loseCluster cluster).tileUse = m.tileUse := by
  unfold Mach.loseCluster
  split
  · rfl
  · exact foldl_frame Mach.tileUse (fun s k =>
      foldl_frame Mach.tileUse (fun t i => t.loseItem_tileUse _ _ _) _ s) _ _

@[simp] theorem Mach.finishPlain_tileUse (a : Act) : (m.finishPlain a).tileUse = m.tileUse := by
  unfold Mach.finishPlain
  split <;> exact m.complete_tileUse ..

@[simp] theorem Mach.tally_tileUse (c : Cmd) (fell atValidation : Bool) :
    (m.tally c fell atValidation).tileUse = m.tileUse := by
  unfold Mach.tally
  extract_lets p step counted both tracked old products falls set above raised told
  have hcounted : counted.tileUse = m.tileUse := by
    unfold counted
    split <;> rfl
  have hboth : both.tileUse = m.tileUse := by
    unfold both
    split
    · exact hcounted
    · exact hcounted
  have hset : set.tileUse = m.tileUse := by
    unfold set
    rw [Mach.setObj_tileUse, Mach.setObj_tileUse, hboth]
  split
  · exact hboth
  · split
    · have htold : told.tileUse = set.tileUse := (Mach.eventTo_records ..).tileUse
      rw [Mach.triggerOn_tileUse, Mach.bump_tileUse, Mach.setObj_tileUse, htold, hset]
    · exact hset

@[simp] theorem Mach.scaleMerge_tileUse (c : Cmd) (tensor : Nat) (maxAbs : Option Nat) :
    (m.scaleMerge c tensor maxAbs).tileUse = m.tileUse := by
  unfold Mach.scaleMerge
  dsimp only
  split
  · rw [Mach.bump_tileUse, Mach.wr_tileUse]
  · split
    · rfl
    · split
      · exact m.wr_tileUse _ _ _
      · split <;> exact m.wr_tileUse _ _ _

@[simp] theorem finishCast_tileUse (a : Act) : (finishCast m a).tileUse = m.tileUse := by
  unfold finishCast
  dsimp only
  split
  · simp only [Mach.complete_tileUse, apply_ite Mach.tileUse, Mach.scaleMerge_tileUse, Mach.wrPoison_tileUse, ite_self]
  · simp only [Mach.complete_tileUse, apply_ite Mach.tileUse, apply_ite (Prod.fst (α := Mach) (β := Act)),
      Mach.scaleMerge_tileUse, Mach.bump_tileUse, Mach.wr_tileUse, Mach.book_tileUse, ite_self]

@[simp] theorem finishProduct_tileUse (a : Act) : (finishProduct m a).tileUse = m.tileUse := by
  unfold finishProduct
  split
  · exact m.complete_tileUse ..
  · split
    · rfl
    · simp only [Mach.complete_tileUse, Mach.tally_tileUse]

@[simp] theorem finishWide_tileUse (a : Act) : (finishWide m a).tileUse = m.tileUse := by
  unfold finishWide
  split
  · exact m.finishPlain_tileUse a
  · split <;> simp only [Mach.finishPlain_tileUse, Mach.wrPoison_tileUse, Mach.wr_tileUse, Mach.book_tileUse]

@[simp] theorem Mach.finish_tileUse (a : Act) : (m.finish a).tileUse = m.tileUse := by
  unfold Mach.finish
  split
  · exact finishProduct_tileUse m a
  · exact finishProduct_tileUse m a
  · exact finishProduct_tileUse m a
  · exact finishCast_tileUse m a
  · exact finishWide_tileUse m a
  · exact m.finishPlain_tileUse a

@[simp] theorem Mach.finishFreed_tileUse : (m.finishFreed).tileUse = m.tileUse :=
  foldl_frame Mach.tileUse (fun s a => s.finish_tileUse a) _ m

@[simp] theorem Mach.putBytes_tileUse (p : Nat) (w : CopyWork) (tile : Option Nat) (off : Nat) (x : Marked) :
    (m.putBytes p w tile off x).tileUse = m.tileUse := by
  unfold Mach.putBytes
  split
  · exact m.wrMarked_tileUse ..
  · split
    · exact foldl_frame Mach.tileUse (fun s t => s.wrMarked_tileUse _ _) _ m
    · split
      · exact m.hostWrite_tileUse ..
      · exact m.wrMarked_tileUse ..

@[simp] theorem Mach.fetchBytes_tileUse (p : Nat) (w : CopyWork) (off n : Nat) :
    (m.fetchBytes p w off n).2.tileUse = m.tileUse := by
  unfold Mach.fetchBytes
  split
  · exact m.hostRead_tileUse ..
  · rfl

@[simp] theorem Mach.countThrottle_tileUse (p : Nat) : (m.countThrottle p).tileUse = m.tileUse := by
  unfold Mach.countThrottle
  dsimp only
  split <;> rfl

@[simp] theorem Mach.endCopy_tileUse (a : Act) (reason detail specific : Nat) :
    (m.endCopy a reason detail specific).tileUse = m.tileUse := by
  simp only [Mach.endCopy, Mach.countThrottle_tileUse, Mach.complete_tileUse, apply_ite Mach.tileUse, Mach.bump_tileUse,
    Mach.endRun, Mach.endRunAt_tileUse, ite_self]
  rfl

@[simp] theorem finishCopy_tileUse (a : Act) (w : CopyWork) : (finishCopy m a w).tileUse = m.tileUse := by
  simp only [finishCopy, Mach.endCopy_tileUse, apply_ite Mach.tileUse, apply_ite (Prod.fst (α := Mach) (β := Act)),
    Mach.bump_tileUse, Mach.putBytes_tileUse, Mach.fetchBytes_tileUse, ite_self]

@[simp] theorem Mach.tryFinishCopy_tileUse (id : CmdId) : (m.tryFinishCopy id).tileUse = m.tileUse := by
  unfold Mach.tryFinishCopy
  split
  · split
    · split
      · exact finishCopy_tileUse ..
      · rfl
    · rfl
  · rfl

@[simp] theorem Mach.copiesLose_tileUse (tile : Nat) : (m.copiesLose tile).tileUse = m.tileUse := by
  unfold Mach.copiesLose
  exact foldl_frame Mach.tileUse Mach.tryFinishCopy_tileUse _ _

@[simp] theorem Mach.stopRuns_tileUse (tile : Nat) : (m.stopRuns tile).tileUse = m.tileUse :=
  foldl_frame Mach.tileUse (f := fun s k => s.stopRun (tileEngine tile k)) (fun s _ => s.endRunAt_tileUse _ _) _ m

/-! ### Fencing (R439, R440) -/

theorem Mach.wrLine_lent (l o : Nat) (v : Bytes) (p : Bool) : (m.wrLine l o v p).lent = m.lent := by
  unfold Mach.wrLine Mach.setDirty
  dsimp only
  split
  · split <;> split <;> rfl
  · rfl

/-- A piece pointed home is lent no more, and nothing else of the tiles' use changes. -/
theorem Mach.loseLent_eq (l : Lent) : (m.loseLent l).start.holes = m.start.holes ∧
    (m.loseLent l).running = m.running ∧
    (m.loseLent l).lent = m.lent.filter fun x => decide (x.home ≠ l.home) := by
  unfold Mach.loseLent
  dsimp only
  have huse := foldl_frame Mach.tileUse (f := fun s i => s.wrLine (l.home / 256 + i) 0 (zerosB 256) true)
    (fun s i => s.wrLine_tileUse _ _ _ _) ((List.range 128).filter fun i => l.dirty.any fun s => s / 8 == i)
    { m with lent := m.lent.filter fun x => decide (x.home ≠ l.home) }
  have hlent := foldl_frame Mach.lent (f := fun s i => s.wrLine (l.home / 256 + i) 0 (zerosB 256) true)
    (fun s i => s.wrLine_lent _ _ _ _) ((List.range 128).filter fun i => l.dirty.any fun s => s / 8 == i)
    { m with lent := m.lent.filter fun x => decide (x.home ≠ l.home) }
  exact ⟨congrArg (·.1) huse, congrArg (·.2.1) huse, hlent⟩

end

/-- A tile is a hole, lends no piece, and none of its engines runs. -/
def Mach.Fenced (m : Mach) (tile : Nat) : Prop :=
  m.isHole tile = true ∧ (∀ l ∈ m.lent, l.tile ≠ tile) ∧
    ∀ r ∈ m.running, engineKind r.engine ≤ 3 → engineTile r.engine ≠ tile

theorem Mach.Fenced.of_tileUse {m n : Mach} {tile : Nat} (h : m.Fenced tile) (huse : n.tileUse = m.tileUse) :
    n.Fenced tile := by
  obtain ⟨hhole, hlent, hrunning⟩ := h
  simp only [Mach.tileUse, Prod.mk.injEq] at huse
  obtain ⟨hholes, hruns, htiles⟩ := huse
  refine ⟨by rw [Mach.isHole, hholes]; exact hhole, fun l hl => ?_, hruns ▸ hrunning⟩
  obtain ⟨x, hx, htile⟩ := List.mem_map.mp (htiles ▸ List.mem_map_of_mem (f := Lent.tile) hl)
  exact htile ▸ hlent x hx

/-- The pieces of a tile are all pointed home. -/
theorem foldl_loseLent (ls : List Lent) (m : Mach) : (ls.foldl Mach.loseLent m).start.holes = m.start.holes ∧
    (ls.foldl Mach.loseLent m).running = m.running ∧
    ∀ x ∈ (ls.foldl Mach.loseLent m).lent, x ∈ m.lent ∧ x ∉ ls := by
  induction ls generalizing m with
  | nil => exact ⟨rfl, rfl, fun x hx => ⟨hx, List.not_mem_nil⟩⟩
  | cons l ls ih =>
    obtain ⟨hholes, hruns, hleft⟩ := ih (m.loseLent l)
    obtain ⟨hholes', hruns', hlent⟩ := m.loseLent_eq l
    refine ⟨hholes.trans hholes', hruns.trans hruns', fun x hx => ?_⟩
    obtain ⟨hmem, hnot⟩ := hleft x hx
    obtain ⟨hmem, hhome⟩ := List.mem_filter.mp (hlent ▸ hmem)
    refine ⟨hmem, fun hx => (List.mem_cons.mp hx).elim (fun heq => ?_) hnot⟩
    exact of_decide_eq_true hhome (congrArg Lent.home heq)

theorem Mach.addHole_frame (m : Mach) (tile : Nat) :
    ∃ d, m.addHole tile = { m with dict := d, start := { m.start with holes := sadd m.start.holes tile } } := by
  unfold Mach.addHole
  dsimp only
  split
  · split <;> exact ⟨_, rfl⟩
  · exact ⟨_, rfl⟩

/-- What fencing leaves (R439, R440). -/
theorem Mach.fence_leaves (m : Mach) (tile cause : Nat) (h : m.isHole tile = false) : (m.fence tile cause).Fenced tile := by
  unfold Mach.fence
  rw [if_neg (by simp [h])]
  extract_lets cl lost stopped idle cleared emptied home hole prior start marked waiting gone items terms ended rings
  obtain ⟨hholes, hruns, hlent⟩ := foldl_loseLent (emptied.lent.filter fun l => l.tile == tile) emptied
  have hmarked : marked.Fenced tile := by
    obtain ⟨d, hhole⟩ : ∃ d, hole = { home with
        dict := d, start := { home.start with holes := sadd home.start.holes tile } } :=
      home.addHole_frame tile
    refine ⟨?_, fun l hl => ?_, fun r hr hkind => ?_⟩
    · have hadded : marked.start.holes = sadd home.start.holes tile := congrArg (·.start.holes) hhole
      rw [Mach.isHole, hadded, smem_sadd_self]
    · have hlents : hole.lent = home.lent := by rw [hhole]
      have hl : l ∈ home.lent := hlents ▸ (show l ∈ hole.lent from hl)
      obtain ⟨hmem, hnot⟩ := hlent l hl
      exact fun htile => hnot (List.mem_filter.mpr ⟨hmem, beq_iff_eq.mpr htile⟩)
    · have hrunning : hole.running = emptied.running := by rw [hhole, ← hruns]
      have hr : r ∈ emptied.running := hrunning ▸ (show r ∈ hole.running from hr)
      have hkept := (List.mem_filter.mp (show r ∈ idle.running from hr)).2
      simpa [hkind] using hkept
  have hitems : items.tileUse = marked.tileUse :=
    foldl_frame Mach.tileUse (fun s r => s.loseItem_tileUse _ _ _) lost gone
  have hterms : terms.tileUse = items.tileUse :=
    foldl_frame Mach.tileUse (fun s b => s.loseItem_tileUse _ _ _) waiting items
  have hended : ended.tileUse = terms.tileUse := by
    unfold ended
    rw [Mach.finishFreed_tileUse, Mach.copiesLose_tileUse, Mach.loseCluster_tileUse]
  refine hmarked.of_tileUse ?_
  rw [Mach.triggerOn_tileUse, (Mach.eventTo_records ended sourceModule rings none 4 0 _ 0 0 0).tileUse, hended, hterms, hitems]

/-- Settles O52: tile watchdogs, lost sequencer words, and what fencing leaves. -/
theorem tilesAreFenced : Obligations.TilesAreFenced := by
  intro s t ht
  have htile : okTile t = true := by simpa [okTile] using ht
  refine ⟨fun hruns => ⟨guarded_next htile ?_, fun o m hok hm => guarded_next ?_ ?_⟩,
    fun hruns hitem hlevel hpower => guarded_next htile ?_,
    fun hinput => guarded_next (i := .trngFail) (r := Sys2Proof.Machine.trngFail) rfl ?_,
    fun m cause hhole => m.fence_leaves t cause hhole⟩
  · simp only [tileWatchdogRestart, hruns, if_true]
  · simp [Instr.wf, htile, hok]
  · simp [tileSequencerStoreFault, hruns, ← hm]
  · rw [tileWatchdogExpiry, if_neg (by simp [hruns, hitem, hlevel, hpower])]
  · simp [Sys2Proof.Machine.trngFail, hinput]

end Sys2Proof.Machine

/-! PROOF. Trace runs (R449, R454, R457, R459 to R462). -/

namespace Sys2Proof.Machine

open Sys2Proof

/-- The first queue of a bay that holds anything writes its next record after the GAP (R454). -/
theorem traceQueueDrain_of_find {b q : Nat} {m n : Mach} (hrun : m.inRun = true)
    (hq : (bayQueues b).find? (fun q => !(m.capQueue q).recs.isEmpty || (m.capQueue q).gap.isSome) = some q)
    (hn : n = (m.capQueue q).gap.elim m (fun g => m.bufPut b (gapRecord b g))) :
    traceQueueDrain b m = match (m.capQueue q).recs with
      | [] => .next (n.setCapQueue q ⟨[], none⟩)
      | r :: rest => .next ((n.setCapQueue q ⟨rest, none⟩).bufPut b r) := by
  unfold traceQueueDrain
  rw [hrun]
  simp only [Bool.not_true, Bool.false_eq_true, if_false, hq, hn]
  cases (m.capQueue q).gap <;> cases (m.capQueue q).recs <;> rfl

/-- A trace that sends has the next bay in turn that holds records send a frame (R449, R461). -/
theorem traceFrameSend_of_sends {m : Mach} {next : Option Nat} (hrun : m.inRun = true)
    (hsends : if m.obj O.TR_MODE 0 = 2 then m.trace.state = .sending
      else m.trace.state = .capturing ∨ m.trace.state = .stopped)
    (hnext : ((List.range 16).map fun i => (m.trace.nextBay + i) % 16).find? (fun b => !(m.toSend b).isEmpty) = next) :
    Sys2Proof.Machine.traceFrameSend m = .next (next.elim m m.sendTraceFrame).tryStop := by
  have hsending : (if m.obj O.TR_MODE 0 = 2 then m.trace.state == .sending
      else m.trace.state == .capturing || m.trace.state == .stopped) = true := by
    split at hsends
    · next hmode => simp [hmode, hsends]
    · next hmode => simpa [hmode] using hsends
  rw [Sys2Proof.Machine.traceFrameSend, hsending, if_neg (by simp [hrun]), hnext]
  cases next <;> rfl

/-- Settles O53: queues drain, frames and ALIGN blocks are sent, captures and training end. -/
theorem traceRuns : Obligations.TraceRuns := by
  intro s
  refine ⟨fun b q m hb hrun hq hm => ?_, fun hrun hsends => ⟨fun b hb => ?_, fun hnone => ?_⟩, fun hrun hon g hg => ?_,
    fun htriggered m hm => ?_, fun htraining m hm => ?_⟩
  · have hbay : okBay b = true := by simpa [okBay] using hb
    have hdrain := traceQueueDrain_of_find hrun hq hm
    refine ⟨fun r rest hrecs => guarded_next hbay ?_, fun hrecs => guarded_next hbay ?_⟩ <;> rw [hdrain, hrecs]
  · refine guarded_next (i := .traceFrameSend) (r := Sys2Proof.Machine.traceFrameSend) rfl ?_
    rw [traceFrameSend_of_sends hrun hsends hb, Option.elim_some]
  · refine guarded_next (i := .traceFrameSend) (r := Sys2Proof.Machine.traceFrameSend) rfl ?_
    rw [traceFrameSend_of_sends hrun hsends hnone, Option.elim_none]
  · refine guarded_next (i := .traceAlign) (r := Sys2Proof.Machine.traceAlign) rfl ?_
    rw [Sys2Proof.Machine.traceAlign, if_neg (by simp [hon, hrun]), hg]
  · refine guarded_next (i := .traceCaptureEnd) (r := Sys2Proof.Machine.traceCaptureEnd) rfl ?_
    rw [Sys2Proof.Machine.traceCaptureEnd, if_pos htriggered, hm]
    rfl
  · refine guarded_next (i := .traceTrainingEnd) (r := Sys2Proof.Machine.traceTrainingEnd) rfl ?_
    rw [Sys2Proof.Machine.traceTrainingEnd, if_pos htraining, hm]
    rfl

end Sys2Proof.Machine

/-! PROOF. Sticky flags (R51, R52, R54, R55). -/

namespace Sys2Proof.Machine

open Sys2Proof

/-! ### Bits -/

/-- Taking away what two numbers share clears those bits. -/
theorem testBit_sub_and (n x k : Nat) : (n - (n &&& x)).testBit k = (n.testBit k && !x.testBit k) := by
  have hle : n &&& x ≤ n := Nat.and_le_left
  have hlow : (n &&& x) % 2 = 1 ↔ n % 2 = 1 ∧ x % 2 = 1 := Nat.and_mod_two_eq_one
  induction k generalizing n x with
  | zero =>
    have hiff : (n - (n &&& x)) % 2 = 1 ↔ n % 2 = 1 ∧ ¬ x % 2 = 1 := by omega
    simp only [Nat.testBit_zero, hiff, Bool.decide_and, decide_not]
  | succ k ih =>
    have hhalf : (n - (n &&& x)) / 2 = n / 2 - (n / 2 &&& x / 2) := by
      rw [← Nat.and_div_two]
      omega
    rw [Nat.testBit_succ, Nat.testBit_succ, Nat.testBit_succ, hhalf]
    exact ih (n / 2) (x / 2) Nat.and_le_left Nat.and_mod_two_eq_one

theorem testBit_maskOf (l : List Nat) (k : Nat) : (maskOf l).testBit k = decide (k ∈ l) := by
  have hfold : ∀ (l : List Nat) a, (l.foldl (fun a b => a ||| 2 ^ b) a).testBit k = (a.testBit k || decide (k ∈ l)) := by
    intro l
    induction l with
    | nil => simp
    | cons b r ih =>
      intro a
      rw [List.foldl_cons, ih, Nat.testBit_or, Nat.testBit_two_pow]
      by_cases hb : b = k
      · simp [hb]
      · simp [hb, Ne.symm hb]
  simp [maskOf, hfold]

theorem testBit_bits {v off n k : Nat} (hk : k < n) : (bits v off n).testBit k = v.testBit (off + k) := by
  rw [bits, Nat.testBit_mod_two_pow, Nat.testBit_div_two_pow, Nat.add_comm k]
  simp [hk]

/-! ### Flags raised (R51, R52) -/

section
variable (m : Mach) (e : Nat) (c : Cmd) (f : Flg) (row col problem : Nat)

/-- The times of the flags an engine raises. -/
def Mach.noteFlags : Mach := (bitsOf 4 f.bits).foldl (fun s k => s.noteFlag (engineFlag e k)) m

theorem Mach.noteFlags_frame : ∃ times, m.noteFlags e f = { m with flagAt := times } := by
  refine foldl_rel (R := fun a b => ∃ times, b = { a with flagAt := times }) (fun a => ⟨_, rfl⟩) ?_ (fun _ _ => ⟨_, rfl⟩) _ m
  rintro a b c ⟨_, rfl⟩ ⟨_, rfl⟩
  exact ⟨_, rfl⟩

/-- What an engine holds after it raised flags. -/
def Mach.raised : Engine :=
  let g := m.engine e
  { g with
    flags := g.flags ||| f.bits
    sats := sat32 (g.sats + f.sats)
    firstFault := if f.inv && g.firstFault % 2 == 0 then faultRecord m.now e c f.cause row col problem else g.firstFault
    live := { g.live with sat := sat64 (g.live.sat + f.sats) } }

theorem Mach.raise_eq : m.raise e c f row col problem =
    (m.noteFlags e f).setEngine e (m.raised e c f row col problem) := by
  obtain ⟨_, h⟩ := m.noteFlags_frame e f
  unfold Mach.noteFlags at h
  unfold Mach.raise Mach.noteFlags Mach.raised
  dsimp only
  rw [h]

theorem Mach.raise_engine : (m.raise e c f row col problem).engine e = m.raised e c f row col problem := by
  rw [Mach.raise_eq, Mach.engine, Mach.setEngine, mgetD_mset_self]

theorem Mach.raise_engine_other {d : Nat} (h : d ≠ e) : (m.raise e c f row col problem).engine d = m.engine d := by
  obtain ⟨_, hframe⟩ := m.noteFlags_frame e f
  rw [Mach.raise_eq, Mach.engine, Mach.setEngine, mgetD_mset_other _ _ _ h, hframe]
  rfl

theorem Mach.raise_setSince {k : Nat} (hk : k < 4) (hf : f.bits.testBit k = true) :
    (m.raise e c f row col problem).setSince (engineFlag e k) m.now = true := by
  have hnoted : mget (m.noteFlags e f).flagAt (engineFlag e k) = some m.now := by
    have hmem : k ∈ bitsOf 4 f.bits := List.mem_filter.mpr ⟨List.mem_range.mpr hk, hf⟩
    have hreach := (foldl_reaches (P := fun (s : Mach) k => s.now = m.now → mget s.flagAt (engineFlag e k) = some m.now)
      (f := fun s k => s.noteFlag (engineFlag e k)) (fun s k h => ?_) (fun s j k h hnow => ?_) (bitsOf 4 f.bits) m).2 k hmem
    · exact hreach (foldl_frame Mach.now (f := fun s k => s.noteFlag (engineFlag e k)) (fun _ _ => rfl) _ m)
    · rw [Mach.noteFlag_flagAt, mget_mset_self, ← h]
      rfl
    · rw [Mach.noteFlag_flagAt]
      by_cases hj : engineFlag e k = engineFlag e j
      · rw [hj, mget_mset_self, ← hnow]
        rfl
      · rw [mget_mset_other _ _ hj]
        exact h hnow
  rw [Mach.raise_eq, Mach.setSince, Mach.setEngine, hnoted]
  exact decide_eq_true (Nat.le_refl _)

end

/-! ### Flags cleared by NUM_SUMMARY (R54, R55) -/

/-- What a map that keeps its keys holds. -/
theorem mget_map {α : Type} {F : Nat × α → Nat × α} (hF : ∀ x, (F x).1 = x.1) (d : SMap α) (k : Nat) :
    mget (d.map F) k = (mget d k).map fun v => (F (k, v)).2 := by
  induction d with
  | nil => rfl
  | cons x r ih =>
    obtain ⟨j, v⟩ := x
    have hj : F (j, v) = (j, (F (j, v)).2) := Prod.ext (hF (j, v)) rfl
    rw [List.map_cons, hj]
    simp only [mget]
    split
    · next hk => rw [hk]; rfl
    · split
      · rfl
      · exact ih

/-- What a write of NUM_SUMMARY leaves of an engine's flags. -/
theorem Mach.clearFlags_testBit (m : Mach) (p : Path) (v slot : Nat) {e k : Nat} (hk : k < 4)
    (he : (mget m.engines e).isSome = true) (hsees : m.seesEngine p e = true) :
    ((m.clearFlags p v slot).engine e).flags.testBit k =
      ((m.engine e).flags.testBit k && !(v.testBit (4 * engineBay e + k) && !m.setSince (engineFlag e k) slot)) := by
  obtain ⟨g, hg⟩ := Option.isSome_iff_exists.mp he
  have hengine : m.engine e = g := by rw [Mach.engine, mgetD, hg]; rfl
  unfold Mach.clearFlags Mach.engine mgetD
  dsimp only
  rw [mget_map (fun x => by split <;> rfl), hg, ← hengine]
  simp only [Option.map_some, Option.getD_some, hsees, Bool.not_true, Bool.or_false, decide_eq_true_eq]
  have hmask : (maskOf ((List.range 4).filter fun k => m.setSince (engineFlag e k) slot)).testBit k =
      m.setSince (engineFlag e k) slot := by
    rw [testBit_maskOf]
    simp [hk]
  rw [← testBit_bits (v := v) (off := 4 * engineBay e) hk]
  split
  · next hzero => simp [hzero]
  · dsimp only
    rw [testBit_sub_and, testBit_sub_and, hmask]

/-- Settles O56: sticky flags, the saturation counter, the first-fault latch, and clearing by NUM_SUMMARY. -/
theorem flagsStick : Obligations.FlagsStick := by
  refine ⟨fun m e c f row col problem k => ?_, fun m p v slot e k hk he hsees => m.clearFlags_testBit p v slot hk he hsees⟩
  rw [Mach.raise_engine]
  refine ⟨Nat.testBit_or .., rfl, fun hleft => if_neg ?_, fun hinv hfree => if_pos ?_,
    fun j hj hf => m.raise_setSince e c f row col problem hj hf, fun d hd => m.raise_engine_other e c f row col problem hd⟩
  · rcases hleft with h | h <;> simp [h]
  · simp [hinv, hfree]

end Sys2Proof.Machine

/-! PROOF. What the rows that store nothing leave unchanged. -/

namespace Sys2Proof.Machine

open Sys2Proof

/-! ### The field network (R317, R330 to R332) -/

/-- Two modules that differ by the field interface's own state, the objects, the plinth's record of frames and the
time. -/
def Mach.OnField (m n : Mach) : Prop :=
  ∃ now dict rx umpor outbox cache notices sent taken neighbours asks, n = { m with
    now := now, dict := dict, plinth := { m.plinth with rxInSecond := rx }, umpor := umpor, outbox := outbox
    cache := cache, notices := notices, lastSent := sent, addressTaken := taken, neighbours := neighbours
    soliciting := asks }

section
variable (m : Mach)

theorem Mach.OnField.refl : m.OnField m := ⟨_, _, _, _, _, _, _, _, _, _, _, rfl⟩

theorem Mach.OnField.trans {a b c : Mach} (h : a.OnField b) (h' : b.OnField c) : a.OnField c := by
  obtain ⟨_, _, _, _, _, _, _, _, _, _, _, rfl⟩ := h
  obtain ⟨_, _, _, _, _, _, _, _, _, _, _, rfl⟩ := h'
  exact ⟨_, _, _, _, _, _, _, _, _, _, _, rfl⟩

theorem Mach.setObj_onField (o i v : Nat) : m.OnField (m.setObj o i v) := ⟨_, _, _, _, _, _, _, _, _, _, _, rfl⟩

theorem Mach.bump_onField (o i n : Nat) : m.OnField (m.bump o i n) := ⟨_, _, _, _, _, _, _, _, _, _, _, rfl⟩

theorem Mach.queueFrame_onField (dst port : Nat) (payload : Bytes) : m.OnField (m.queueFrame dst port payload) :=
  ⟨_, _, _, _, _, _, _, _, _, _, _, rfl⟩

theorem Mach.learn_onField (a : Nat) : m.OnField (m.learn a) := ⟨_, _, _, _, _, _, _, _, _, _, _, rfl⟩

theorem Mach.countRx_onField (src : Nat) : m.OnField (m.countRx src) := ⟨_, _, _, _, _, _, _, _, _, _, _, rfl⟩

theorem Mach.sendFrame_onField (f : OutFrame) : m.OnField (m.sendFrame f) := by
  unfold Mach.sendFrame
  split <;> exact ⟨_, _, _, _, _, _, _, _, _, _, _, rfl⟩

theorem Mach.takeRequest_onField (f : Frame) : m.OnField (m.takeRequest f) := by
  unfold Mach.takeRequest
  dsimp only
  split
  · exact ((m.countRx_onField _).trans (Mach.bump_onField _ _ _ _)).trans (Mach.queueFrame_onField _ _ _ _)
  · split
    · exact (m.countRx_onField _).trans (Mach.bump_onField _ _ _ _)
    · split
      · exact m.bump_onField _ _ _
      · exact ⟨_, _, _, _, _, _, _, _, _, _, _, rfl⟩

theorem Mach.receive_onField (f : Frame) : m.OnField (m.receive f) := by
  unfold Mach.receive
  split
  · exact .refl m
  · split
    · exact m.bump_onField _ _ _
    · split
      · exact m.takeRequest_onField f
      · exact ⟨_, _, _, _, _, _, _, _, _, _, _, rfl⟩

end

section
variable {m n : Mach}

theorem noticeResend_onField {token : Nat} (h : Sys2Proof.Machine.noticeResend token m = .next n) : m.OnField n := by
  unfold Sys2Proof.Machine.noticeResend at h
  split at h
  · cases h
    exact .refl m
  · split at h
    · cases h
    · split at h
      · cases h
        exact .refl m
      · dsimp only at h
        split at h <;> cases h <;> exact ⟨_, _, _, _, _, _, _, _, _, _, _, rfl⟩

theorem transmitOpportunity_onField (h : Sys2Proof.Machine.transmitOpportunity m = .next n) : m.OnField n := by
  unfold Sys2Proof.Machine.transmitOpportunity at h
  split at h
  · cases h
    exact .refl m
  · split at h
    · cases h
      exact .refl m
    · next f _ =>
      split at h
      · cases h
        exact Mach.OnField.trans (b := { m with outbox := m.outbox.erase f }) ⟨_, _, _, _, _, _, _, _, _, _, _, rfl⟩
          (Mach.sendFrame_onField _ _)
      · cases h
        exact Mach.OnField.trans (b := { m with soliciting := sadd m.soliciting f.dst })
          ⟨_, _, _, _, _, _, _, _, _, _, _, rfl⟩ (Mach.sendFrame_onField _ _)

theorem plcaBeacon_onField {link : Nat} (h : Sys2Proof.Machine.plcaBeacon link m = .next n) : m.OnField n := by
  unfold Sys2Proof.Machine.plcaBeacon at h
  split at h
  · cases h
    exact .refl m
  · cases h
    exact m.setObj_onField _ _ _

theorem icmpv6Echo_onField {f : Frame} (h : Sys2Proof.Machine.icmpv6Echo f m = .next n) : m.OnField n := by
  unfold Sys2Proof.Machine.icmpv6Echo at h
  split at h
  · cases h
    exact .refl m
  · split at h
    · cases h
      exact (m.learn_onField _).trans (Mach.queueFrame_onField _ _ _ _)
    · cases h
      exact m.bump_onField _ _ _

theorem neighbourDiscovery_onField {x : NdMessage} (h : Sys2Proof.Machine.neighbourDiscovery x m = .next n) :
    m.OnField n := by
  unfold Sys2Proof.Machine.neighbourDiscovery at h
  split at h
  · cases h
    exact .refl m
  · split at h
    · split at h
      · cases h
        exact .refl m
      · cases h
        refine Mach.OnField.trans ?_ (Mach.queueFrame_onField _ _ _ _)
        split
        · exact .refl m
        · exact m.learn_onField _
    · split at h
      · cases h
        exact ⟨_, _, _, _, _, _, _, _, _, _, _, rfl⟩
      · cases h
        split
        · exact m.learn_onField _
        · exact .refl m

end

/-- A row of the field network changes the module as its meaning does. -/
theorem exec_onField {c : Instr} {s t : State} (hc : c.onField = true) (h : exec c s = .next t) :
    ∃ m, s.toMach.OnField m ∧ t = s.after m := by
  cases c with
  | request f =>
    obtain ⟨-, m, hm, rfl⟩ := guarded_cases (i := .request f) h
    cases hm
    exact ⟨_, s.receive_onField f, rfl⟩
  | noticeAck f =>
    obtain ⟨-, m, hm, rfl⟩ := guarded_cases (i := .noticeAck f) h
    cases hm
    exact ⟨_, s.receive_onField f, rfl⟩
  | noticeResend token =>
    obtain ⟨-, m, hm, rfl⟩ := guarded_cases (i := .noticeResend token) h
    exact ⟨m, noticeResend_onField hm, rfl⟩
  | transmitOpportunity =>
    obtain ⟨-, m, hm, rfl⟩ := guarded_cases (i := .transmitOpportunity) (r := Sys2Proof.Machine.transmitOpportunity) h
    exact ⟨m, transmitOpportunity_onField hm, rfl⟩
  | plcaBeacon link =>
    obtain ⟨-, m, hm, rfl⟩ := guarded_cases (i := .plcaBeacon link) h
    exact ⟨m, plcaBeacon_onField hm, rfl⟩
  | icmpv6Echo f =>
    obtain ⟨-, m, hm, rfl⟩ := guarded_cases (i := .icmpv6Echo f) h
    exact ⟨m, icmpv6Echo_onField hm, rfl⟩
  | neighbourDiscovery x =>
    obtain ⟨-, m, hm, rfl⟩ := guarded_cases (i := .neighbourDiscovery x) h
    exact ⟨m, neighbourDiscovery_onField hm, rfl⟩
  | _ => exact absurd hc Bool.false_ne_true

/-! ### What is stored -/

/-- Memory with its marks, placed objects, partitions, journals, rings with their records, and vectors. -/
structure Stores where
  mem : List Host.Cell
  lines : SMap LineMeta
  writeBacks : SMap WriteBack
  valid : NSet
  poison : NSet
  hostPoison : NSet
  dirty : NSet
  placed : List Placed
  parts : SMap Partition
  journals : SMap Journal
  rings : SMap Ring
  ready : List Rec
  msix : SMap MsixEntry

def Mach.stores (m : Mach) : Stores where
  mem := m.mem
  lines := m.lines
  writeBacks := m.writeBacks
  valid := m.valid
  poison := m.poison
  hostPoison := m.hostPoison
  dirty := m.dirty
  placed := m.placed
  parts := m.parts
  journals := m.journals
  rings := m.rings
  ready := m.ready
  msix := m.msix

theorem Mach.OnField.stores {m n : Mach} (h : m.OnField n) : n.stores = m.stores := by
  obtain ⟨_, _, _, _, _, _, _, _, _, _, _, rfl⟩ := h
  rfl

section
variable (m : Mach)

@[simp] theorem Mach.setEngine_stores (e : Nat) (v : Engine) : (m.setEngine e v).stores = m.stores := rfl
@[simp] theorem Mach.setBay_stores (b : Nat) (v : Bay) : (m.setBay b v).stores = m.stores := rfl
@[simp] theorem Mach.setObj_stores (o i v : Nat) : (m.setObj o i v).stores = m.stores := rfl
@[simp] theorem Mach.setPlinth_stores (p : Plinth) : (m.setPlinth p).stores = m.stores := rfl

@[simp] theorem Mach.wakeBays_stores (bs : List Nat) : (m.wakeBays bs).stores = m.stores := by
  obtain ⟨_, h⟩ := m.wakeBays_bays bs
  rw [h]
  rfl

@[simp] theorem Mach.fireTrigger_stores (t : Nat) : (m.fireTrigger t).stores = m.stores := by
  unfold Mach.fireTrigger
  split <;> rfl

@[simp] theorem Mach.capture_stores (e kind : Nat) (c : Cmd) (above : Bool) (t units : Nat) (d : Counts) (first : Nat) :
    (m.capture e kind c above t units d first).stores = m.stores := by
  unfold Mach.capture
  dsimp only
  split
  · rfl
  · split
    · split
      · rfl
      · split
        · rw [Mach.fireTrigger_stores]
          rfl
        · rfl
    · split <;> rfl

@[simp] theorem Mach.endRun_stores (e : Nat) : (m.endRun e).stores = m.stores := by
  unfold Mach.endRun Mach.endRunAt
  dsimp only
  split
  · rfl
  · split
    · rw [Mach.capture_stores, Mach.setEngine_stores]
    · rfl

@[simp] theorem Mach.startUnit_stores (e : Nat) (c : Cmd) (unit : Nat) : (m.startUnit e c unit).stores = m.stores := by
  have hbegin : ∀ n : Mach, (n.beginRun e c unit).stores = n.stores := by
    intro n
    simp [Mach.beginRun, apply_ite Mach.stores]
  unfold Mach.startUnit
  dsimp only
  split
  · rfl
  · rw [hbegin, Mach.endRun_stores]

@[simp] theorem Mach.countThrottle_stores (p : Nat) : (m.countThrottle p).stores = m.stores := by
  unfold Mach.countThrottle
  dsimp only
  split <;> rfl

@[simp] theorem Mach.setCopy_stores (a : Act) (w : CopyWork) : (m.setCopy a w).stores = m.stores := rfl
@[simp] theorem Mach.ageQueue_stores (q : Queue) (aged : Option Nat) (t : Nat) :
    (m.ageQueue q aged t).stores = m.stores := rfl

theorem Mach.issueTransfer_stores (b : Nat) (q : Queue) (a : Act) (w : CopyWork) (off n : Nat) (tile : Option Nat) :
    (m.issueTransfer b q a w off n tile).stores = m.stores := by
  unfold Mach.issueTransfer
  extract_lets p ticket started limited y ticketed sent w'
  have hlimited : limited.stores = m.stores := by
    unfold limited
    split
    · exact m.startUnit_stores _ _ _
    · exact m.startUnit_stores _ _ _
  have hsent : sent.stores = limited.stores := rfl
  rw [Mach.countThrottle_stores, Mach.ageQueue_stores, Mach.setCopy_stores, hsent, hlimited]

end

/-! ### Rows that store nothing -/

/-- An answer that leaves alone what is stored. -/
def StoresKept (m : Mach) (r : Res) : Prop := ∀ n, r = .next n → n.stores = m.stores

section
variable {m : Mach}

theorem StoresKept.next {n : Mach} (h : n.stores = m.stores) : StoresKept m (.next n) := by
  rintro _ ⟨⟩
  exact h

theorem StoresKept.cannot (reason : String) : StoresKept m (cannot reason) := fun _ h => nomatch h

theorem StoresKept.ite {p : Prop} [Decidable p] {x y : Res} (hx : StoresKept m x) (hy : StoresKept m y) :
    StoresKept m (if p then x else y) := by
  split
  · exact hx
  · exact hy

theorem transferIssue_storesKept (b : Nat) : StoresKept m (Sys2Proof.Machine.transferIssue b m) := by
  refine .ite (.next rfl) ?_
  dsimp only
  split
  · exact .next (m.wakeBays_stores _)
  · exact .next (m.issueTransfer_stores _ _ _ _ _ _ _)

theorem dryTimeAging_storesKept (b : Nat) (id : CmdId) : StoresKept m (Sys2Proof.Machine.dryTimeAging b id m) := by
  unfold Sys2Proof.Machine.dryTimeAging
  split
  · exact .cannot _
  · split
    · exact .next rfl
    · exact .ite (.next rfl) (.next rfl)

theorem multicastDrop_storesKept (id : CmdId) (tile : Nat) :
    StoresKept m (Sys2Proof.Machine.multicastDrop id tile m) := by
  unfold Sys2Proof.Machine.multicastDrop
  split
  · exact .cannot _
  · split
    · exact .cannot _
    · exact .ite (.cannot _) (.ite (.next rfl) (.next rfl))

theorem lentBind_storesKept (b : Nat) : StoresKept m (Sys2Proof.Machine.lentBind b m) := by
  refine .ite (.next rfl) ?_
  split
  · exact .next rfl
  · split <;> exact .next rfl

theorem workCounterRequest_storesKept (e : Nat) : StoresKept m (Sys2Proof.Machine.workCounterRequest e m) := by
  refine .ite (.next rfl) ?_
  split
  · exact .next (m.endRun_stores e)
  · split
    · exact .cannot _
    · exact .ite (.next (m.wakeBays_stores _)) (.next (Mach.startUnit_stores _ _ _ _))

theorem droopDetect_storesKept (b : Nat) : StoresKept m (Sys2Proof.Machine.droopDetect b m) :=
  .ite (.next rfl) (.next rfl)

theorem droopRelease_storesKept (b : Nat) : StoresKept m (Sys2Proof.Machine.droopRelease b m) :=
  .ite (.next rfl) (.next rfl)

theorem pllUnlock_storesKept (k : Nat) : StoresKept m (Sys2Proof.Machine.pllUnlock k m) := by
  refine .ite (.next rfl) (.next ?_)
  split <;> rfl

theorem bayWatchdogRestart_storesKept (b : Nat) : StoresKept m (Sys2Proof.Machine.bayWatchdogRestart b m) :=
  .ite (.next rfl) (.next rfl)

theorem tileWatchdogRestart_storesKept (t : Nat) : StoresKept m (Sys2Proof.Machine.tileWatchdogRestart t m) :=
  .ite (.next rfl) (.next rfl)

theorem trngFail_storesKept : StoresKept m (Sys2Proof.Machine.trngFail m) := .ite (.next rfl) (.next rfl)

theorem traceAlign_storesKept : StoresKept m (Sys2Proof.Machine.traceAlign m) := .ite (.next rfl) (.next rfl)

theorem traceTrainingEnd_storesKept : StoresKept m (Sys2Proof.Machine.traceTrainingEnd m) := .ite (.next rfl) (.next rfl)

theorem sramWriteBack_storesKept (a : Nat) : StoresKept m (Sys2Proof.Machine.sramWriteBack a m) :=
  .ite (.next rfl) (.next rfl)

theorem linkUp_storesKept (mode width speed : Nat) : StoresKept m (Sys2Proof.Machine.linkUp mode width speed m) :=
  .ite (.next rfl) (.ite (.next rfl) (.next rfl))

theorem hdmCommit_storesKept (base size : Nat) : StoresKept m (Sys2Proof.Machine.hdmCommit base size m) := by
  refine .ite (.next rfl) (.next ?_)
  unfold Mach.commitHdm
  split <;> rfl

theorem peerHeartbeat_storesKept (t : Nat) : StoresKept m (Sys2Proof.Machine.peerHeartbeat t m) :=
  .ite (.next rfl) (.next rfl)

theorem bayWakeStart_storesKept (b : Nat) : StoresKept m (Sys2Proof.Machine.bayWakeStart b m) :=
  .ite (.next rfl) (.next rfl)

theorem perstRelease_storesKept : StoresKept m (Sys2Proof.Machine.perstRelease m) := by
  refine .next ?_
  unfold Mach.tryTrain
  split <;> rfl

end

/-- A guarded meaning that leaves alone what is stored. -/
theorem guarded_stores {i : Instr} {r : Mach → Res} {s t : State} (hr : ∀ m, StoresKept m (r m))
    (h : guarded i r s = .next t) : t.stores = s.stores := by
  obtain ⟨-, m, hm, rfl⟩ := guarded_cases h
  exact hr s.toMach m hm

theorem exec_stores {c : Instr} {s t : State} (hc : c.storesNothing = true) (h : exec c s = .next t) :
    t.stores = s.stores := by
  have hfield : c.onField = true → t.stores = s.stores := by
    intro hc
    obtain ⟨m, hm, rfl⟩ := exec_onField hc h
    exact hm.stores
  cases c with
  | transferIssue b => exact guarded_stores (i := .transferIssue b) (fun _ => transferIssue_storesKept b) h
  | dryTimeAging b id => exact guarded_stores (i := .dryTimeAging b id) (fun _ => dryTimeAging_storesKept b id) h
  | multicastDrop id t => exact guarded_stores (i := .multicastDrop id t) (fun _ => multicastDrop_storesKept id t) h
  | lentBind b => exact guarded_stores (i := .lentBind b) (fun _ => lentBind_storesKept b) h
  | workCounterRequest e => exact guarded_stores (i := .workCounterRequest e) (fun _ => workCounterRequest_storesKept e) h
  | droopDetect b => exact guarded_stores (i := .droopDetect b) (fun _ => droopDetect_storesKept b) h
  | droopRelease b => exact guarded_stores (i := .droopRelease b) (fun _ => droopRelease_storesKept b) h
  | pllUnlock k => exact guarded_stores (i := .pllUnlock k) (fun _ => pllUnlock_storesKept k) h
  | bayWatchdogRestart b => exact guarded_stores (i := .bayWatchdogRestart b) (fun _ => bayWatchdogRestart_storesKept b) h
  | tileWatchdogRestart t =>
    exact guarded_stores (i := .tileWatchdogRestart t) (fun _ => tileWatchdogRestart_storesKept t) h
  | trngFail => exact guarded_stores (i := .trngFail) (fun _ => trngFail_storesKept) h
  | traceAlign => exact guarded_stores (i := .traceAlign) (fun _ => traceAlign_storesKept) h
  | traceTrainingEnd => exact guarded_stores (i := .traceTrainingEnd) (fun _ => traceTrainingEnd_storesKept) h
  | sramWriteBack a => exact guarded_stores (i := .sramWriteBack a) (fun _ => sramWriteBack_storesKept a) h
  | linkUp mode width speed =>
    exact guarded_stores (i := .linkUp mode width speed) (fun _ => linkUp_storesKept mode width speed) h
  | hdmCommit base size => exact guarded_stores (i := .hdmCommit base size) (fun _ => hdmCommit_storesKept base size) h
  | peerHeartbeat t => exact guarded_stores (i := .peerHeartbeat t) (fun _ => peerHeartbeat_storesKept t) h
  | bayWakeStart b => exact guarded_stores (i := .bayWakeStart b) (fun _ => bayWakeStart_storesKept b) h
  | perstRelease => exact guarded_stores (i := .perstRelease) (fun _ => perstRelease_storesKept) h
  | request | noticeAck | noticeResend | transmitOpportunity | plcaBeacon | icmpv6Echo | neighbourDiscovery =>
    exact hfield rfl
  | _ => exact absurd hc Bool.false_ne_true

/-- Settles O60: what the rows that store nothing leave unchanged. -/
theorem framesOfRowsThatStoreNothing : Obligations.FramesOfRowsThatStoreNothing := by
  refine ⟨fun c s t hc h => ?_, fun c s t hc h => ?_⟩
  · have hstores := exec_stores hc h
    simpa only [Mach.stores, Stores.mk.injEq] using hstores
  · obtain ⟨m, ⟨_, _, _, _, _, _, _, _, _, _, _, rfl⟩, rfl⟩ := exec_onField hc h
    rfl

end Sys2Proof.Machine
